-- ==== Sys2Proof/Machine/Bits.lean ====
section
/-! DEFINITION. Bit fields and byte order: reading a field of a number, packing fields from the least
significant upward, sign extension, little-endian bytes (R3). -/
namespace Sys2Proof.Machine

/-- The number in bits [lo + len - 1 : lo] of `w`. -/
def bits (w lo len : Nat) : Nat := w / 2 ^ lo % 2 ^ len

/-- Bit `i` of `w`. -/
def bit (w i : Nat) : Bool := w / 2 ^ i % 2 == 1

/-- Bits [lo + len - 1 : lo] of `w` as a bit vector. -/
def fld (w lo len : Nat) : BitVec len := BitVec.ofNat len (w / 2 ^ lo)

/-- Fields laid one above the other, the first at bit 0; each entry is (width, value). -/
def pack : List (Nat × Nat) → Nat
  | [] => 0
  | (n, v) :: r => v % 2 ^ n + 2 ^ n * pack r

/-- A Boolean as a one-bit field. -/
def bitOf (b : Bool) : Nat := if b then 1 else 0

/-- The signed value of the low `n` bits of `w`. -/
def sextNat (n w : Nat) : Int :=
  let v := w % 2 ^ n
  if 2 * v ≥ 2 ^ n then (v : Int) - (2 ^ n : Nat) else (v : Int)

/-- wrap64 of R5: the 64-bit word congruent to `x`. -/
def wrap64 (x : Int) : BitVec 64 := BitVec.ofInt 64 x

/-- sat64 of R148: `x` clamped to the signed 64-bit range. -/
def sat64 (x : Int) : BitVec 64 :=
  if x < -(2 ^ 63 : Int) then BitVec.ofInt 64 (-(2 ^ 63 : Int))
  else if x > (2 ^ 63 : Int) - 1 then BitVec.ofInt 64 ((2 ^ 63 : Int) - 1)
  else BitVec.ofInt 64 x

/-- wrap32: the 32-bit lane congruent to `x`. -/
def wrap32 (x : Int) : BitVec 32 := BitVec.ofInt 32 x

/-- The `n` low bytes of `v`, lowest first (R3). -/
def bytesOf : Nat → Nat → List (BitVec 8)
  | 0, _ => []
  | n + 1, v => BitVec.ofNat 8 v :: bytesOf n (v / 256)

/-- The little-endian number of a list of bytes (R3). -/
def natOfBytes : List (BitVec 8) → Nat
  | [] => 0
  | b :: r => b.toNat + 256 * natOfBytes r

/-- Division rounded up. -/
def ceilDiv (a b : Nat) : Nat := (a + b - 1) / b

/-- Number of set bits below bit `n` of `w`. -/
def popcount : Nat → Nat → Nat
  | 0, _ => 0
  | n + 1, w => w % 2 + popcount n (w / 2)

end Sys2Proof.Machine
end

