-- ==== Sys2Proof/Word.lean ====
section
/-! DEFINITION. The word types of the Quinca Q9 (R2, R3): a byte, a 32-bit unit, a 64-bit register,
a 128-bit handle; and where an uncorrectable error arises (R359). -/
namespace Sys2Proof

/-- A byte (R3). -/
abbrev Byte := BitVec 8

/-- A 32-bit unit of a bundle area (R88), or one lane of a row (R140). -/
abbrev Unit32 := BitVec 32

/-- A 64-bit g, k or special register (R139). -/
abbrev Word := BitVec 64

/-- A 128-bit handle (R198). -/
abbrev Word128 := BitVec 128

/-- Where an error of memory arises (R359, R387). -/
inductive CheckSource where
  /-- in core-local state or the scratchpad, met by the strand of a context -/
  | core (core bank : Nat) (addr : BitVec 64)
  /-- in bytes read by an engine command -/
  | command (core id : Nat)
  /-- in a frozen segment copy that no strand is reading -/
  | copy (core name : Nat)
  /-- in a place that no strand or command owns -/
  | kernel (part : Nat)
  /-- an error that was corrected: in an L2 slice (kind 0), an HBM4E stack (1), core SRAM or registers (2) (R387) -/
  | corrected (kind unit : Nat)
  deriving DecidableEq, Repr

end Sys2Proof
end

