-- ==== Sys2Proof/Config.lean ====
section
/-! DEFINITION. The free values of the model: what the spec leaves open and the machine goes on with. Every one is an opaque
function with no body: nothing can be proved of its values (log entries 8 and 10). -/
namespace Sys2Proof

/-- Which of several enabled steps of the device comes next: a number taken modulo their count, at each value of the free
counter. -/
opaque Config.choose : Nat → Nat

/-- Whether a read in the window of a result in flight obtains the old or a new value (R131, R289, R326): the free counter and the place
give a number, taken modulo the number of values. -/
opaque Config.pick : Nat → Nat → Nat

/-- A value that the spec does not fix, at a value of the free counter and a place. -/
opaque Config.freeWord : Nat → Nat → BitVec 64

/-- The 256-bit response of the device's PUF (R396). -/
opaque Config.puf : BitVec 256

/-- The public key that the boot ROM holds for configuration records (R392). -/
opaque Config.recordKey : BitVec 256

/-- The power in W that the module draws at a step of the arithmetic clock: free counter and step (R398). -/
opaque Config.modulePower : Nat → Nat → Nat

/-- How many chunks the chunk store holds (R26, R28). -/
opaque Config.chunkRoom : Nat

/-- The place, in 4 KiB pages, at which the image of a model slot is linked in virtual memory. -/
opaque Config.imagePlace : Nat → Nat

/-- The 4 KiB page of device memory at which a code page stands: the hash of its chunk, and zero or one more than the page index of a BLF unit (R10,
R70). -/
opaque Config.codePlace : BitVec 256 → Nat → Nat

/-- Where the bytes of a context's state stand in the first area of its block in a stop dump, whose inner layout the spec leaves open
(R384). -/
opaque Config.dumpPlace : Nat → Nat

/-- Where the queue pool begins in the device memory of stack 0, in units of 2 MiB (R30). -/
opaque Config.poolBase : Nat

/-- The bytes that host memory holds at an address, as a read request finds them: free counter and address. -/
opaque Config.hostByte : Nat → Nat → BitVec 8

/-- The bytes of a message on a command link, whose contents are the firmware's own: free counter and place (R42). -/
opaque Config.linkByte : Nat → Nat → BitVec 8

/-- What the list form of a BLF unit leaves open, at the bytes of the unit, an operation's number and a place: the register that carries a
value, and the fields of a word that no part of an operation record names (R17, R18, R78). -/
opaque Config.unitChoice : List (BitVec 8) → Nat → Nat → Nat

end Sys2Proof
end

