-- ==== Sys2Proof/Syntax.lean ====
section
/-! DEFINITION. The instructions of spec/opcode_table.json: one constructor per row, the 236 instruction rows
first in the table's order, then the 72 steps of the device that are no instruction words. An instruction carries
what its word and its prefix hold (R88 to R119), field by field. -/
namespace Sys2Proof

/-- The fields of a prefix unit (R91). -/
structure Pfx where
  ext : BitVec 16
  nfl : Bool
  sat : Bool
  rnd : BitVec 3
  deriving DecidableEq, Repr

/-- What every instruction word carries beside its operands: the prefix in front of it, and its guard (R97). -/
structure Mod where
  pfx  : Option Pfx
  neg  : Bool
  pred : BitVec 4
  deriving DecidableEq, Repr

/-- Operand fields of the SR class (R97). -/
structure SR where
  d : BitVec 6
  a : BitVec 6
  b : BitVec 6
  deriving DecidableEq, Repr

/-- Operand fields of the SI class (R97). -/
structure SI where
  d   : BitVec 6
  a   : BitVec 6
  b   : BitVec 6
  imm : BitVec 32
  deriving DecidableEq, Repr

/-- Operand fields of a 64-bit BX word (R101). -/
structure BX where
  d      : BitVec 6
  a      : BitVec 6
  b      : BitVec 6
  aux    : BitVec 6
  anchor : BitVec 6
  page   : BitVec 20
  deriving DecidableEq, Repr

/-- Operand fields of the VV class (R98); each ten-bit operand is a matrix operand of R99 or a register number. -/
structure VV where
  d     : BitVec 10
  a     : BitVec 10
  b     : BitVec 10
  c     : BitVec 10
  k     : BitVec 3
  sub   : BitVec 4
  dfile : BitVec 4
  deriving DecidableEq, Repr

/-- Operand fields of the MEM class (R100). -/
structure MEM where
  t   : BitVec 10
  cl  : Bool
  a   : BitVec 6
  b   : BitVec 6
  k   : BitVec 3
  h   : BitVec 5
  mod : BitVec 8
  imm : BitVec 12
  deriving DecidableEq, Repr

/-- Operand fields of the MXW class (R102); `fa` is the field as. -/
structure MXW where
  t       : BitVec 2
  a       : BitVec 6
  fa      : Bool
  b       : BitVec 6
  bs      : BitVec 2
  cellop  : BitVec 8
  last    : Bool
  discard : Bool
  sub     : BitVec 8
  imm     : BitVec 16
  deriving DecidableEq, Repr

/-- Operand fields of the ENW class (R103). -/
structure ENW where
  d      : BitVec 6
  a      : BitVec 6
  b      : BitVec 6
  tag    : BitVec 6
  scope  : BitVec 3
  acq    : Bool
  rel    : Bool
  cmp    : Bool
  sealed : Bool
  wait   : Bool
  signal : Bool
  nofill : Bool
  c      : BitVec 6
  sub    : BitVec 10
  deriving DecidableEq, Repr

/-- Operand fields of the LKW class (R104). -/
structure LKW where
  d    : BitVec 6
  a    : BitVec 6
  b    : BitVec 6
  port : BitVec 4
  c    : BitVec 6
  sub  : BitVec 16
  deriving DecidableEq, Repr

/-- A mailbox request as it arrives: the 32-byte header of R26 and the payload after it. `op` is the opcode byte;
`resv` holds header bytes 15 and 14, and `hi` holds bytes 31 to 24. `source` is the sending endpoint (R27). -/
structure Req where
  source  : Nat
  op      : BitVec 8
  length  : BitVec 24
  seq     : BitVec 32
  pasid   : BitVec 32
  index   : BitVec 16
  resv    : BitVec 16
  operand : BitVec 64
  hi      : BitVec 64
  payload : List (BitVec 8)
  deriving DecidableEq, Repr

/-- A context of a core: bank 0 or 1, or the secondary context (R124). -/
structure CtxId where
  core : Nat
  bank : Nat
  deriving DecidableEq, Repr

/-- The instructions and device steps of the opcode table. -/
inductive Instr where
  /-- NOP, R89. The empty bundle issues as a one-cycle no-operation. -/
  | nop
  /-- ADD, R149. g[d] := sa + sb, wrapped or saturated. -/
  | add (x : Mod) (o : SR)
  /-- SUB, R149. g[d] := sa - sb, wrapped or saturated. -/
  | sub (x : Mod) (o : SR)
  /-- AND, R149. Bitwise AND. -/
  | and (x : Mod) (o : SR)
  /-- OR, R149. Bitwise OR. -/
  | or (x : Mod) (o : SR)
  /-- XOR, R149. Bitwise XOR. -/
  | xor (x : Mod) (o : SR)
  /-- ANDN, R149. a AND NOT b. -/
  | andn (x : Mod) (o : SR)
  /-- ORN, R149. a OR NOT b. -/
  | orn (x : Mod) (o : SR)
  /-- SEL, R151. Selects a or b by a predicate. -/
  | sel (x : Mod) (o : SR)
  /-- SHL, R149. Shift left by b[5:0]. -/
  | shl (x : Mod) (o : SR)
  /-- SHR, R149. Logical shift right by b[5:0]. -/
  | shr (x : Mod) (o : SR)
  /-- SAR, R149. Arithmetic shift right by b[5:0]. -/
  | sar (x : Mod) (o : SR)
  /-- ROL, R149. Rotate left by b[5:0]. -/
  | rol (x : Mod) (o : SR)
  /-- MIN, R149. Signed minimum. -/
  | min (x : Mod) (o : SR)
  /-- MAX, R149. Signed maximum. -/
  | max (x : Mod) (o : SR)
  /-- MINU, R149. Unsigned minimum. -/
  | minu (x : Mod) (o : SR)
  /-- MAXU, R149. Unsigned maximum. -/
  | maxu (x : Mod) (o : SR)
  /-- ABSD, R149. Absolute difference as an unsigned value. -/
  | absd (x : Mod) (o : SR)
  /-- CLZ, R149. Count of leading zeros. -/
  | clz (x : Mod) (o : SR)
  /-- CTZ, R149. Count of trailing zeros. -/
  | ctz (x : Mod) (o : SR)
  /-- POPC, R149. Population count. -/
  | popc (x : Mod) (o : SR)
  /-- SEXT, R149. Sign-extends from bit n. -/
  | sext (x : Mod) (o : SR)
  /-- ZEXT, R149. Zero-extends from bit n. -/
  | zext (x : Mod) (o : SR)
  /-- ADDI, R150. g[d] := sa + sb + imm. -/
  | addi (x : Mod) (o : SI)
  /-- MOVI, R150. g[d] := imm. -/
  | movi (x : Mod) (o : SI)
  /-- MOVH, R150. g[d] := imm[31:0]·2^32 + a[31:0]. -/
  | movh (x : Mod) (o : SI)
  /-- FSHL, R150. Funnel shift left of the pair a:b. -/
  | fshl (x : Mod) (o : SI)
  /-- FSHR, R150. Funnel shift right of the pair a:b. -/
  | fshr (x : Mod) (o : SI)
  /-- SHADD, R150. g[d] := sa·2^s + sb. -/
  | shadd (x : Mod) (o : SI)
  /-- BEXT, R150. Extracts a bit field, optionally sign-extended. -/
  | bext (x : Mod) (o : SI)
  /-- BINS, R150. Inserts a bit field of a into b. -/
  | bins (x : Mod) (o : SI)
  /-- CMP_EQ, R151. p[d] := a = b. -/
  | cmpEq (x : Mod) (o : SR)
  /-- CMP_NE, R151. p[d] := a ≠ b. -/
  | cmpNe (x : Mod) (o : SR)
  /-- CMP_LT, R151. Signed less-than compare. -/
  | cmpLt (x : Mod) (o : SR)
  /-- CMP_LTU, R151. Unsigned less-than compare. -/
  | cmpLtu (x : Mod) (o : SR)
  /-- CMP_LE, R151. Signed less-or-equal compare. -/
  | cmpLe (x : Mod) (o : SR)
  /-- CMP_LEU, R151. Unsigned less-or-equal compare. -/
  | cmpLeu (x : Mod) (o : SR)
  /-- CMP_GT, R151. Signed greater-than compare. -/
  | cmpGt (x : Mod) (o : SR)
  /-- CMP_GTU, R151. Unsigned greater-than compare. -/
  | cmpGtu (x : Mod) (o : SR)
  /-- CMP_GE, R151. Signed greater-or-equal compare. -/
  | cmpGe (x : Mod) (o : SR)
  /-- CMP_GEU, R151. Unsigned greater-or-equal compare. -/
  | cmpGeu (x : Mod) (o : SR)
  /-- CMPI_EQ, R151. p[d] := a = imm. -/
  | cmpiEq (x : Mod) (o : SI)
  /-- CMPI_NE, R151. p[d] := a ≠ imm. -/
  | cmpiNe (x : Mod) (o : SI)
  /-- CMPI_LT, R151. Signed less-than against an immediate. -/
  | cmpiLt (x : Mod) (o : SI)
  /-- CMPI_LTU, R151. Unsigned less-than against an immediate. -/
  | cmpiLtu (x : Mod) (o : SI)
  /-- CMPI_LE, R151. Signed less-or-equal against an immediate. -/
  | cmpiLe (x : Mod) (o : SI)
  /-- CMPI_LEU, R151. Unsigned less-or-equal against an immediate. -/
  | cmpiLeu (x : Mod) (o : SI)
  /-- CMPI_GT, R151. Signed greater-than against an immediate. -/
  | cmpiGt (x : Mod) (o : SI)
  /-- CMPI_GTU, R151. Unsigned greater-than against an immediate. -/
  | cmpiGtu (x : Mod) (o : SI)
  /-- CMPI_GE, R151. Signed greater-or-equal against an immediate. -/
  | cmpiGe (x : Mod) (o : SI)
  /-- CMPI_GEU, R151. Unsigned greater-or-equal against an immediate. -/
  | cmpiGeu (x : Mod) (o : SI)
  /-- MUL, R152. Low 64 bits of the product. -/
  | mul (x : Mod) (o : SR)
  /-- MULH, R152. High 64 bits of the signed product. -/
  | mulh (x : Mod) (o : SR)
  /-- MULHU, R152. High 64 bits of the unsigned product. -/
  | mulhu (x : Mod) (o : SR)
  /-- DIV, R152. Signed division, truncated toward zero. -/
  | div (x : Mod) (o : SR)
  /-- DIVU, R152. Unsigned division. -/
  | divu (x : Mod) (o : SR)
  /-- REM, R152. Signed remainder. -/
  | rem (x : Mod) (o : SR)
  /-- REMU, R152. Unsigned remainder. -/
  | remu (x : Mod) (o : SR)
  /-- BR, R156. Unconditional delayed branch to an encoded anchor. -/
  | br (x : Mod) (o : BX)
  /-- BRC, R156. Guarded delayed branch to an encoded anchor. -/
  | brc (x : Mod) (o : BX)
  /-- JMP, R156. Guarded delayed jump through a code pointer. -/
  | jmp (x : Mod) (o : SR)
  /-- CALL, R156. Delayed call to an encoded anchor that writes the link to g[d]. -/
  | call (x : Mod) (o : BX)
  /-- CALLR, R156. Delayed call through a code pointer that writes the link to g[d]. -/
  | callr (x : Mod) (o : SR)
  /-- RET, R156. Delayed return to a return-point anchor. -/
  | ret (x : Mod) (o : SR)
  /-- LOOP, R157. Pins an N-bundle body and pushes a loop entry with a constant count. -/
  | loop (x : Mod) (o : BX)
  /-- LOOPR, R157. Pins an N-bundle body and pushes a loop entry with a register count. -/
  | loopr (x : Mod) (o : SR)
  /-- LEXIT, R160. Pops the top loop entry and exits the body. -/
  | lexit (x : Mod) (o : SR)
  /-- PBT, R163. Resolves an encoded target into a bt register. -/
  | pbt (x : Mod) (o : BX)
  /-- PBT_REG, R163. Checks a code pointer held in a g register and writes it to a bt register. -/
  | pbtReg (x : Mod) (o : BX)
  /-- BT, R164. Transfers at once through a bt register. -/
  | bt (x : Mod) (o : SR)
  /-- PAND, R165. Predicate AND. -/
  | pand (x : Mod) (o : SR)
  /-- POR, R165. Predicate OR. -/
  | por (x : Mod) (o : SR)
  /-- PXOR, R165. Predicate XOR. -/
  | pxor (x : Mod) (o : SR)
  /-- PNOT, R165. Predicate NOT. -/
  | pnot (x : Mod) (o : SR)
  /-- PMOV, R165. Predicate move. -/
  | pmov (x : Mod) (o : SR)
  /-- VADD, R172. Lane-wise integer add. -/
  | vadd (x : Mod) (o : VV)
  /-- VSUB, R172. Lane-wise integer subtract. -/
  | vsub (x : Mod) (o : VV)
  /-- VMUL, R172. Lane-wise low product. -/
  | vmul (x : Mod) (o : VV)
  /-- VMULH, R172. Lane-wise high product. -/
  | vmulh (x : Mod) (o : VV)
  /-- VMIN, R172. Lane-wise signed minimum. -/
  | vmin (x : Mod) (o : VV)
  /-- VMAX, R172. Lane-wise signed maximum. -/
  | vmax (x : Mod) (o : VV)
  /-- VMINU, R172. Lane-wise unsigned minimum. -/
  | vminu (x : Mod) (o : VV)
  /-- VMAXU, R172. Lane-wise unsigned maximum. -/
  | vmaxu (x : Mod) (o : VV)
  /-- VABS, R172. Lane-wise absolute value. -/
  | vabs (x : Mod) (o : VV)
  /-- VAND, R172. Lane-wise AND. -/
  | vand (x : Mod) (o : VV)
  /-- VOR, R172. Lane-wise OR. -/
  | vor (x : Mod) (o : VV)
  /-- VXOR, R172. Lane-wise XOR. -/
  | vxor (x : Mod) (o : VV)
  /-- VSHL, R172. Lane-wise shift left. -/
  | vshl (x : Mod) (o : VV)
  /-- VSHR, R172. Lane-wise logical shift right. -/
  | vshr (x : Mod) (o : VV)
  /-- VSAR, R172. Lane-wise arithmetic shift right. -/
  | vsar (x : Mod) (o : VV)
  /-- VFSHL, R173. Lane-wise funnel shift left. -/
  | vfshl (x : Mod) (o : VV)
  /-- VFSHR, R173. Lane-wise funnel shift right. -/
  | vfshr (x : Mod) (o : VV)
  /-- VCLZ, R172. Lane-wise count of leading zeros. -/
  | vclz (x : Mod) (o : VV)
  /-- VPOPC, R172. Lane-wise population count. -/
  | vpopc (x : Mod) (o : VV)
  /-- VCMP, R174. Integer compare into lanes, a k register or a p register. -/
  | vcmp (x : Mod) (o : VV)
  /-- VSEL, R174. Lane-wise select by a k register. -/
  | vsel (x : Mod) (o : VV)
  /-- VGMAXU, R175. Unsigned maximum within groups of lanes. -/
  | vgmaxu (x : Mod) (o : VV)
  /-- FADD, R176. FP32 add. -/
  | fadd (x : Mod) (o : VV)
  /-- FSUB, R176. FP32 subtract. -/
  | fsub (x : Mod) (o : VV)
  /-- FMUL, R176. FP32 multiply. -/
  | fmul (x : Mod) (o : VV)
  /-- FMA, R176. Fused multiply-add. -/
  | fma (x : Mod) (o : VV)
  /-- FMS, R176. Fused multiply-subtract. -/
  | fms (x : Mod) (o : VV)
  /-- FNMA, R176. Fused negated multiply-add. -/
  | fnma (x : Mod) (o : VV)
  /-- FMIN, R176. minimumNumber. -/
  | fmin (x : Mod) (o : VV)
  /-- FMAX, R176. maximumNumber. -/
  | fmax (x : Mod) (o : VV)
  /-- FABS, R176. Clears the sign bit. -/
  | fabs (x : Mod) (o : VV)
  /-- FNEG, R176. Inverts the sign bit. -/
  | fneg (x : Mod) (o : VV)
  /-- FCMP, R177. IEEE FP32 compare into lanes, a k register or a p register. -/
  | fcmp (x : Mod) (o : VV)
  /-- FDIV, R178. Correctly rounded FP32 division. -/
  | fdiv (x : Mod) (o : VV)
  /-- FSQRT, R178. Correctly rounded FP32 square root. -/
  | fsqrt (x : Mod) (o : VV)
  /-- FRCP, R179. Reciprocal to 12 significant bits. -/
  | frcp (x : Mod) (o : VV)
  /-- FRSQ, R179. Reciprocal square root to 12 significant bits. -/
  | frsq (x : Mod) (o : VV)
  /-- CVTIF, R180. Integer to FP32. -/
  | cvtif (x : Mod) (o : VV)
  /-- CVTFI, R180. FP32 to integer, saturating. -/
  | cvtfi (x : Mod) (o : VV)
  /-- CVTFB, R180. FP32 to BF16 into one half of each lane. -/
  | cvtfb (x : Mod) (o : VV)
  /-- CVTBF, R180. BF16 half of each lane to FP32. -/
  | cvtbf (x : Mod) (o : VV)
  /-- VREDADD, R181. Exact integer sum of masked lanes. -/
  | vredadd (x : Mod) (o : VV)
  /-- VREDMAX, R181. Signed maximum of masked lanes. -/
  | vredmax (x : Mod) (o : VV)
  /-- VREDMAXU, R181. Unsigned maximum of masked lanes. -/
  | vredmaxu (x : Mod) (o : VV)
  /-- VREDMIN, R181. Signed minimum of masked lanes. -/
  | vredmin (x : Mod) (o : VV)
  /-- FREDADD, R182. FP32 sum over a fixed binary tree. -/
  | fredadd (x : Mod) (o : VV)
  /-- FREDMAX, R182. FP32 maximum over a fixed binary tree. -/
  | fredmax (x : Mod) (o : VV)
  /-- VBCST_G, R183. Broadcasts g[a][31:0] to every lane. -/
  | vbcstG (x : Mod) (o : VV)
  /-- VBCST_LANE, R183. Broadcasts lane j of a to every lane. -/
  | vbcstLane (x : Mod) (o : VV)
  /-- VROT_G, R183. Rotates lanes by g[b][5:0]. -/
  | vrotG (x : Mod) (o : VV)
  /-- VROT_IMM, R183. Rotates lanes by a constant j. -/
  | vrotImm (x : Mod) (o : VV)
  /-- VPERM, R183. Permutes lanes by index lanes. -/
  | vperm (x : Mod) (o : VV)
  /-- VCMPR, R184. Packs the selected lanes into the lowest lanes. -/
  | vcmpr (x : Mod) (o : VV)
  /-- VIOTA, R184. Writes to each lane the count of mask bits below it. -/
  | viota (x : Mod) (o : VV)
  /-- VMOVS, R183. Lane-wise move. -/
  | vmovs (x : Mod) (o : VV)
  /-- VINS, R185. Inserts g[a][31:0] into lane j. -/
  | vins (x : Mod) (o : VV)
  /-- KAND, R186. Mask AND. -/
  | kand (x : Mod) (o : VV)
  /-- KOR, R186. Mask OR. -/
  | kor (x : Mod) (o : VV)
  /-- KNOT, R186. Mask NOT. -/
  | knot (x : Mod) (o : VV)
  /-- KPOPC, R186. Population count of a mask into a g register. -/
  | kpopc (x : Mod) (o : VV)
  /-- MVX, R188. Moves an operand between clusters. -/
  | mvx (x : Mod) (o : VV)
  /-- MVXM, R189. Moves n consecutive operands between clusters, one per cycle. -/
  | mvxm (x : Mod) (o : VV)
  /-- MVGR, R190. Moves lane j into a g register. -/
  | mvgr (x : Mod) (o : VV)
  /-- MVK_KM, R191. Sets k bits from the nonzero lanes of a matrix operand. -/
  | mvkKm (x : Mod) (o : VV)
  /-- MVK_MK, R191. Expands k bits into all-ones or zero lanes. -/
  | mvkMk (x : Mod) (o : VV)
  /-- MVK_GK, R191. Copies a k register into a g register. -/
  | mvkGk (x : Mod) (o : VV)
  /-- MVK_KG, R191. Copies a g register into a k register under the mask. -/
  | mvkKg (x : Mod) (o : VV)
  /-- LDS, R207. Scalar scratchpad load. -/
  | lds (x : Mod) (o : MEM)
  /-- STS, R207. Scalar scratchpad store. -/
  | sts (x : Mod) (o : MEM)
  /-- LDSV, R207. Aligned 256-byte vector load. -/
  | ldsv (x : Mod) (o : MEM)
  /-- STSV, R207. Aligned 256-byte vector store. -/
  | stsv (x : Mod) (o : MEM)
  /-- LDSVU, R207. Unaligned 256-byte vector load. -/
  | ldsvu (x : Mod) (o : MEM)
  /-- STSVM, R208. Masked, counted byte store. -/
  | stsvm (x : Mod) (o : MEM)
  /-- LDSX, R207. Strided vector load. -/
  | ldsx (x : Mod) (o : MEM)
  /-- STSX, R207. Strided vector store. -/
  | stsx (x : Mod) (o : MEM)
  /-- LDSM, R207. Loads n consecutive operand rows. -/
  | ldsm (x : Mod) (o : MEM)
  /-- STSM, R207. Stores n consecutive operand rows. -/
  | stsm (x : Mod) (o : MEM)
  /-- LDG, R209. Scalar global load through a handle. -/
  | ldg (x : Mod) (o : MEM)
  /-- STG, R209. Scalar global store. -/
  | stg (x : Mod) (o : MEM)
  /-- LDGV, R209. 256-byte global vector load. -/
  | ldgv (x : Mod) (o : MEM)
  /-- STGV, R209. 256-byte global vector store. -/
  | stgv (x : Mod) (o : MEM)
  /-- STGVM, R209. Masked, counted global byte store. -/
  | stgvm (x : Mod) (o : MEM)
  /-- PFG, R209. Prefetches a line into the L1 or the L2. -/
  | pfg (x : Mod) (o : MEM)
  /-- FLG, R209. Flushes a line from the L1, or writes its dirty sectors from the L2 to HBM. -/
  | flg (x : Mod) (o : MEM)
  /-- AADD, R211. Atomic add. -/
  | aadd (x : Mod) (o : MEM)
  /-- AFADD, R211. Atomic FP32 add. -/
  | afadd (x : Mod) (o : MEM)
  /-- AMIN, R211. Atomic signed minimum. -/
  | amin (x : Mod) (o : MEM)
  /-- AMAX, R211. Atomic signed maximum. -/
  | amax (x : Mod) (o : MEM)
  /-- AMINU, R211. Atomic unsigned minimum. -/
  | aminu (x : Mod) (o : MEM)
  /-- AMAXU, R211. Atomic unsigned maximum. -/
  | amaxu (x : Mod) (o : MEM)
  /-- AAND, R211. Atomic AND. -/
  | aand (x : Mod) (o : MEM)
  /-- AOR, R211. Atomic OR. -/
  | aor (x : Mod) (o : MEM)
  /-- AXOR, R211. Atomic XOR. -/
  | axor (x : Mod) (o : MEM)
  /-- AXCHG, R211. Atomic exchange. -/
  | axchg (x : Mod) (o : MEM)
  /-- ACAS, R211. Atomic compare-and-swap. -/
  | acas (x : Mod) (o : MEM)
  /-- ARADD, R212. Adds each lane atomically to its own word. -/
  | aradd (x : Mod) (o : MEM)
  /-- XLT, R202. Translates g[a] into a handle. -/
  | xlt (x : Mod) (o : SR)
  /-- XLTP, R202. Translates g[a] into the handle numbered by g[b], requiring permissions. -/
  | xltp (x : Mod) (o : SI)
  /-- XREL, R202. Empties a handle. -/
  | xrel (x : Mod) (o : SR)
  /-- XINV, R202. Drops this core's translation cache entries covering an address. -/
  | xinv (x : Mod) (o : SR)
  /-- XPOSE, R252. Copies n rows into n columns, possibly across clusters. -/
  | xpose (x : Mod) (o : VV)
  /-- XCVT, R253. Narrows FP32 or INT32 lanes to a packed format. -/
  | xcvt (x : Mod) (o : VV)
  /-- XEXP, R255. Decodes eight scaled FP4 blocks. -/
  | xexp (x : Mod) (o : VV)
  /-- XPACK, R256. Quantises FP32 lanes into scaled blocks. -/
  | xpack (x : Mod) (o : VV)
  /-- XDEC, R258. Pops and decodes the next HPK block of the decoder stream. -/
  | xdec (x : Mod) (o : VV)
  /-- XDCFG, R257. Declares the decoder stream and its ratio bound. -/
  | xdcfg (x : Mod) (o : VV)
  /-- XWIDEN, R254. Widens packed elements to 32-bit lanes. -/
  | xwiden (x : Mod) (o : VV)
  /-- TCFG, R275. Sets a tile's shape and type and zeroes it. -/
  | tcfg (x : Mod) (o : MXW)
  /-- TZERO, R275. Zeroes a configured tile. -/
  | tzero (x : Mod) (o : MXW)
  /-- TFET, R264. Fetches a tile through the L2 into a fetch slot and pins its lines. -/
  | tfet (x : Mod) (o : MXW)
  /-- TREL, R266. Releases a fetch slot's pins. -/
  | trel (x : Mod) (o : MXW)
  /-- MMA, R276. Matrix multiply-accumulate with the cell operations. -/
  | mma (x : Mod) (o : MXW)
  /-- MMAS, R270. Sparse-A matrix multiply-accumulate. -/
  | mmas (x : Mod) (o : MXW)
  /-- MMAC, R276. Multiply-accumulate with B expanded from an accord descriptor. -/
  | mmac (x : Mod) (o : MXW)
  /-- TLD, R277. Loads a whole tile from scratchpad. -/
  | tld (x : Mod) (o : MXW)
  /-- TST, R277. Stores a whole tile to scratchpad. -/
  | tst (x : Mod) (o : MXW)
  /-- TROWV, R278. Moves a tile row to a matrix operand. -/
  | trowv (x : Mod) (o : MXW)
  /-- TVROW, R278. Moves a matrix operand into a tile row. -/
  | tvrow (x : Mod) (o : MXW)
  /-- AGEN, R279. Expands an accord descriptor into scratchpad. -/
  | agen (x : Mod) (o : MXW)
  /-- APROJ, R280. Projects a target tile onto the descriptor's basis. -/
  | aproj (x : Mod) (o : MXW)
  /-- ASEEK, R281. Searches count seeds for the best reconstruction. -/
  | aseek (x : Mod) (o : MXW)
  /-- TSWAP, R275. Exchanges two tile registers. -/
  | tswap (x : Mod) (o : MXW)
  /-- CPY, R293. Copies between global memory and scratchpad, or between scratchpads. -/
  | cpy (x : Mod) (o : ENW)
  /-- CPYT, R296. Tensor copy with box clipping and fill. -/
  | cpyt (x : Mod) (o : ENW)
  /-- CFILL, R297. Fills a range with an 8-byte pattern. -/
  | cfill (x : Mod) (o : ENW)
  /-- CTWANY, R302. Blocks until any masked tag is set. -/
  | ctwany (x : Mod) (o : ENW)
  /-- CTWALL, R302. Blocks until every masked tag is set. -/
  | ctwall (x : Mod) (o : ENW)
  /-- CTFFR, R302. Returns the lowest set masked tag. -/
  | ctffr (x : Mod) (o : ENW)
  /-- CTCLR, R302. Clears masked tag bits. -/
  | ctclr (x : Mod) (o : ENW)
  /-- SEMSIG, R303. Adds to a local or remote semaphore, after an optional release. -/
  | semsig (x : Mod) (o : ENW)
  /-- SEMWAIT, R303. Blocks until a semaphore reaches a threshold, then acquires. -/
  | semwait (x : Mod) (o : ENW)
  /-- SEMRD, R303. Reads a semaphore. -/
  | semrd (x : Mod) (o : ENW)
  /-- SEMSET, R303. Sets a semaphore. -/
  | semset (x : Mod) (o : ENW)
  /-- SCREATE, R307. Creates a named segment with a local copy attached for writing. -/
  | screate (x : Mod) (o : ENW)
  /-- SATT, R306. Acquires a segment and returns its handle. -/
  | satt (x : Mod) (o : ENW)
  /-- SDET, R306. Releases a segment attachment and increments its version. -/
  | sdet (x : Mod) (o : ENW)
  /-- SFREEZE, R308. Writes back and freezes a segment. -/
  | sfreeze (x : Mod) (o : ENW)
  /-- SDROP, R308. Removes a segment and discards its copies. -/
  | sdrop (x : Mod) (o : ENW)
  /-- SQUERY, R309. Returns this core's directory state for a name. -/
  | squery (x : Mod) (o : ENW)
  /-- PHASE, R311. Publishes the strand's global writes and refreshes its snapshot at a scope. -/
  | phase (x : Mod) (o : ENW)
  /-- EFENCE, R312. Blocks until every earlier EN and LK command of the context has completed. -/
  | efence (x : Mod) (o : ENW)
  /-- CSRR, R362. Reads a CSR. -/
  | csrr (x : Mod) (o : SI)
  /-- CSRW, R362. Writes a CSR. -/
  | csrw (x : Mod) (o : SI)
  /-- CSRS, R362. Sets CSR bits. -/
  | csrs (x : Mod) (o : SI)
  /-- CSRC, R362. Clears CSR bits. -/
  | csrc (x : Mod) (o : SI)
  /-- TRAP, R363. Raises trap 0x30 after its bundle issues. -/
  | trap (x : Mod) (o : SI)
  /-- RFE, R364. Restores the sequencer state set aside and resumes at epc. -/
  | rfe (x : Mod) (o : SR)
  /-- IDLE, R365. Blocks until the context's event latch is set, then clears it. -/
  | idle (x : Mod) (o : SR)
  /-- WPSET, R366. Sets a 16-byte watch at the core and, for a global watch, at the home slice. -/
  | wpset (x : Mod) (o : SI)
  /-- WPCLR, R366. Clears a watch. -/
  | wpclr (x : Mod) (o : SI)
  /-- LOGCTL_HW, R367. Returns a log's high-water. -/
  | logctlHw (x : Mod) (o : SI)
  /-- LOGCTL_FLUSH, R367. Blocks until a log's records are in memory. -/
  | logctlFlush (x : Mod) (o : SI)
  /-- LOGCTL_MARK, R367. Appends a program mark record. -/
  | logctlMark (x : Mod) (o : SI)
  /-- LOGCTL_DRIFT, R367. Sets the drift threshold and arms trap 0x24. -/
  | logctlDrift (x : Mod) (o : SI)
  /-- HALT, R368. Ends the kernel with reason 3. -/
  | halt (x : Mod) (o : SR)
  /-- DSTOP, R368. Stops the core for a debugger, where stops are enabled. -/
  | dstop (x : Mod) (o : SR)
  /-- SSTART, R128. Starts the core's secondary strand. -/
  | sstart (x : Mod) (o : SR)
  /-- LSEND, R314. Schedules a flit transfer out of a port at gclk T. -/
  | lsend (x : Mod) (o : LKW)
  /-- LRECV, R314. Arms a receive for a transfer arriving at gclk A. -/
  | lrecv (x : Mod) (o : LKW)
  /-- LWAIT, R317. Blocks until gclk reaches a value. -/
  | lwait (x : Mod) (o : LKW)
  /-- LCLK, R317. Reads gclk. -/
  | lclk (x : Mod) (o : LKW)
  /-- POWER_ON, R395. Power-on starts a full bring-up: the boot ROM derives the identity key, reads the configuration record, measures and starts the firmware stages, and training begins. -/
  | powerOn
  /-- FUNCTION_TRAINED, R395. A function finishes training and sets its bit in the ready word, or in the failed word. -/
  | functionTrained (fn : Nat) (ok : Bool)
  /-- CLOCK_RESYNC, R65. A link on the spanning tree retrains; gclk jumps forward or holds so that it never goes backward. -/
  | clockResync (delta : Int)
  /-- POWER_CLOCK_STEP, R398. The arithmetic clock steps by 100 MHz on one gclk edge so that module power stays within its limit. -/
  | powerClockStep (up : Bool)
  /-- THERMAL_STEP_DOWN, R399. A die junction reaching 95 °C steps the clock down, whatever the power limit. -/
  | thermalStepDown (die : Nat)
  /-- THERMAL_SHUTDOWN, R399. A die junction reaching 105 °C halts every partition, flushes the lifetime counters and powers the module off. -/
  | thermalShutdown (die : Nat)
  /-- LIFETIME_COUNTER_FLUSH, R387. Every hour, and at orderly shutdown, the lifetime counters are written to the module flash. -/
  | lifetimeCounterFlush
  /-- READINESS, R394. A management request that returns the ready word and the failed word. -/
  | readiness (source : Nat)
  /-- ATTEST, R397. A management request that returns a signed reply holding the nonce, the readiness words, the measurement entries and the public key. -/
  | attest (source : Nat) (nonce : BitVec 256)
  /-- RECORD_PUT, R393. A valid configuration record overwrites the copy with the lower sequence number; an invalid one is refused with status 0x02. -/
  | recordPut (source : Nat) (record : List (BitVec 8))
  /-- POWER_LIMIT, R394. The host endpoint sets the module power limit; any other sender gets status 0x01. -/
  | powerLimit (source : Nat) (limit : Nat)
  /-- DATA_WRITE, R27. The mailbox writes the payload at a device physical address at the device-scope ordering point. -/
  | dataWrite (r : Req)
  /-- TAIL_WRITE, R33. Sets a queue's tail, or refuses the write and stops the queue; the write is held while the QCB is not present. -/
  | tailWrite (r : Req)
  /-- QCB_FETCH_DONE, R30. The host answers the read; the object is placed in the pool, its entry is rewritten as present, and held tail writes are applied or refused. -/
  | qcbFetchDone (fetch : Nat) (bytes : List (BitVec 8))
  /-- QCB_FETCH_TIMEOUT, R30. No answer within 10 ms fails the fetch, and every held tail write is answered with status 0x07. -/
  | qcbFetchTimeout (fetch : Nat)
  /-- DATA_READ, R27. The mailbox replies with length bytes read from a device physical address. -/
  | dataRead (r : Req)
  /-- CHUNK_PUT, R26. Stores a 4,096-byte chunk under its hash, or replaces unverified held bytes. -/
  | chunkPut (r : Req)
  /-- QCB_INVALIDATE, R26. Writes back the scheduler's cached copy of a QCB and drops it. -/
  | qcbInvalidate (r : Req)
  /-- CONTROL_WRITE, R38. Writes qtroot or a completion counter. -/
  | controlWrite (r : Req)
  /-- CONTROL_READ, R38. Replies with the value of qtroot or a completion counter. -/
  | controlRead (r : Req)
  /-- GIVE, R197. Copies a host page into its device page and makes it device-owned. -/
  | give (r : Req)
  /-- TAKE, R197. Revokes a page, copies it to the host and makes it host-owned. -/
  | take (r : Req)
  /-- MAP, R197. Installs a page mapping with its permissions and ownership. -/
  | map (r : Req)
  /-- UNMAP, R197. Revokes a page and removes its mapping. -/
  | unmap (r : Req)
  /-- REFUSE, R204. The host declines to give a page, and the waiting strand takes trap 0x0B in its handler. -/
  | refuse (r : Req)
  /-- NO_OPERATION, R41. A no-operation command completes when it is taken. -/
  | noOperation (pasid queue : Nat)
  /-- LAUNCH, R40. A launch command is validated in the order of the status table, and fails at once on the first violation. -/
  | launch (pasid queue : Nat)
  /-- LAUNCH_ADMIT, R39. An idle partition admits the ready launch of highest priority, sets its modes and rl registers, and hands the record to the Atomizers. -/
  | launchAdmit (part : Nat)
  /-- SLOT_LOAD, R35. Checks and parses the head chunk, chooses an image, checks its chunks and makes the PINNED segments resident. -/
  | slotLoad (pasid queue : Nat)
  /-- SLOT_RELEASE, R35. Moves a slot to releasing. -/
  | slotRelease (pasid queue : Nat)
  /-- SLOT_RELEASE_DONE, R35. Once no launch from the slot is running, the slot's PINNED segments are written back and the slot becomes free. -/
  | slotReleaseDone (slot : Nat)
  /-- SLOT_RESTORE, R36. Reloads a lost PINNED segment from its image onto the home partition, and the slot returns to resident. -/
  | slotRestore (slot : Nat)
  /-- KERNEL_COMPLETE, R41. Performs the device-scope release, writes the status, advances head and signals the completion counter. -/
  | kernelComplete (part : Nat)
  /-- FIRMWARE_LINK_MESSAGE, R42. A 64-byte message on a command link between the global scheduler and a leaf controller is consumed and its permit returned. -/
  | firmwareLinkMessage (leaf : Nat) (down : Bool)
  /-- FIRMWARE_LINK_ERROR, R42. An uncorrectable command-link error raises a machine check and halts the partitions of that cluster. -/
  | firmwareLinkError (leaf : Nat)
  /-- ITERATION_ASSIGN, R54. The Atomizer places the head iteration on a free core. -/
  | iterationAssign (part : Nat)
  /-- PATIENCE_EXPIRY, R54. The patience count reaches zero, and the head goes to the free core of highest score. -/
  | patienceExpiry (part : Nat)
  /-- SEGMENT_LOAD_DONE, R59. The last byte of a load, replication or migration lands, and the copy becomes resident-clean, resident-dirty or frozen. -/
  | segmentLoadDone (core : Nat) (name : Nat)
  /-- BUNDLE_ISSUE, R125. In each cycle the core decides the primary bundle and whether the secondary bundle issues beside it. -/
  | bundleIssue (core : Nat)
  /-- STILL_REWRITE_DONE, R79. The Still finishes a rewrite; the result is stored in the overlay and mapped, and the context becomes standby-ready. -/
  | stillRewriteDone (pasid page : Nat)
  /-- CODE_PAGE_IN_DONE, R70. The leaf finishes paging in a code page's chunks, and the context resumes. -/
  | codePageInDone (pasid page : Nat)
  /-- PAGE_REPLACE, R83. A pending mapping change to a code page takes effect once the page is no longer in use. -/
  | pageReplace (pasid page : Nat)
  /-- PARTITION_STOP_FREEZE, R384. The other cores freeze at gclk S + 200, every context is swapped out, and the dump area is written. -/
  | partitionStopFreeze (part : Nat)
  /-- DUMP_RESUME, R384. The host writes 1 to the dump command word, and the partition resumes from shadow storage. -/
  | dumpResume (part : Nat)
  /-- DUMP_END_KERNEL, R384. The host writes 2 to the dump command word, and the kernel ends with reason 3. -/
  | dumpEndKernel (part : Nat)
  /-- SECONDARY_BUBBLE, R129. The collision count reaches 4,096; the next cycle is a bubble in which only the secondary issues. -/
  | secondaryBubble (core : Nat)
  /-- VARIABLE_RESULT_ARRIVAL, R134. A global load, atomic return, translation or tile fetch arrives, ending any core stall that waits for it. -/
  | variableResultArrival (core : Nat) (result : Nat)
  /-- LEAF_ANSWER, R355. The leaf answers a parked context, which becomes standby-ready. -/
  | leafAnswer (core : Nat) (bank : Nat)
  /-- IMPRECISE_REPORT_ARRIVAL, R348. An imprecise report arrives and is held pending, or is dropped with lost set. -/
  | impreciseReportArrival (id : Nat)
  /-- PREEMPT_REQUEST, R356. The scheduler stops assignment, starts the watchdog and pre-empts each context at its drain point or boundary. -/
  | preemptRequest (part : Nat)
  /-- WATCHDOG_EXPIRY, R357. The pre-emption watchdog expires; the partition stalls and every context's full state is swapped out. -/
  | watchdogExpiry (part : Nat)
  /-- PARTITION_RESUME, R358. Restores each context, checks handles, restages fetch slots and re-injects results in flight. -/
  | partitionResume (part : Nat)
  /-- MACHINE_CHECK, R359. An uncorrectable error is dealt with once by its source: trap 0x28, command error, copy discard, or kernel end. -/
  | machineCheck (src : CheckSource)
  /-- ITERATION_RETIRE, R374. At the iteration-end pointer the context drains, waits for its commands, detaches, publishes at device scope and becomes empty. -/
  | iterationRetire (core : Nat) (bank : Nat)
  /-- SECONDARY_END, R128. The secondary strand reaches the secondary-end pointer, takes retirement steps 1 to 4, and its context becomes empty. -/
  | secondaryEnd (core : Nat)
  /-- EPOCH_CLOSE, R338. Held reductions of the epoch are applied in (ordinal, index) order and published. -/
  | epochClose (part : Nat)
  /-- ATOMIC_PERFORM, R210. An atomic is performed indivisibly at its home slice, or held as a reduction. -/
  | atomicPerform (id : Nat)
  /-- COMMAND_START, R287. An engine command starts once its wait holds and the scoreboard releases it. -/
  | commandStart (core : Nat) (id : Nat)
  /-- COMMAND_COMPLETE, R299. Writes the tag status, sets the ctb bit, and adds the signal. -/
  | commandComplete (core : Nat) (id : Nat)
  /-- REMOTE_SIGNAL_ARRIVAL, R303. A signal from another core is added to its semaphore, or refused on overflow with an imprecise 0x1C report. -/
  | remoteSignalArrival (id : Nat)
  /-- PEER_COPY_ARRIVAL, R294. Bytes of a peer's .ss copy arrive and are written when the target is valid, or the copy is refused. -/
  | peerCopyArrival (endpoint sender tag core offset : Nat) (bytes : List (BitVec 8))
  /-- PEER_SIGNAL_ARRIVAL, R290. A remote signal from a peer device is applied, or refused with status 0x05. -/
  | peerSignalArrival (endpoint tag far core sem : Nat) (inc : BitVec 32)
  /-- LINK_DEPARTURE, R314. At gclk T plus its offset, a flit of an LSEND leaves the port. -/
  | linkDeparture (core : Nat) (id : Nat)
  /-- FLIT_ARRIVAL, R316. A scheduled-link flit arrives and lands in an armed receive, or is discarded and counted. -/
  | flitArrival (port ch index count : Nat) (bytes : List (BitVec 8))
  /-- LINK_RECEIVE_MISS, R315. gclk passes A without a first flit, and the LRECV ends with status 0x0C. -/
  | linkReceiveMiss (core : Nat) (id : Nat)
  /-- FMODE_WRITE, R245. A write of fmode sets the rounding mode, except that 111 or an unavailable 110 is ignored. -/
  | fmodeWrite (ctx : CtxId) (v : BitVec 64)
  /-- SRNG_WRITE, R246. A write of srng takes effect after the bundle's draws; a write of 0 stores 1. -/
  | srngWrite (ctx : CtxId) (v : BitVec 64)
  /-- SKEY_WRITE, R301. Writes a key quarter; quarter 3 makes the key usable and zeroes its counter. -/
  | skeyWrite (ctx : CtxId) (n : Nat) (v : BitVec 64)
  /-- FORMAT_WINDOW_WRITE, R249. Writes a format-window CSR and its owner field, or traps if another partition owns the window. -/
  | formatWindowWrite (ctx : CtxId) (n : Nat) (v : BitVec 64)
  /-- LOG_CSR_WRITE, R378. Writes a log CSR; lbase or llim resets lhw, and lsbase resets lsptr. -/
  | logCsrWrite (ctx : CtxId) (n : Nat) (v : BitVec 64)
  /-- CSR_WRITE, R362. Writes a CSR that has no behaviour of its own. -/
  | csrWrite (ctx : CtxId) (n : Nat) (v : BitVec 64)
  /-- LOSS_OF_SUPPLY, R395. The module's supply is lost without an orderly shutdown, so every state except the module flash is lost, counters since the last hourly flush are lost, and a record write under way may be cut short. -/
  | lossOfSupply
  deriving DecidableEq, Repr

end Sys2Proof
end

