-- ==== Sys2Proof/Machine/Fields.lean ====
section
/-! DEFINITION. Which field values an instruction's word and prefix may hold: the unused and reserved fields of R97 to R105,
the prefix fields each instruction honours (R92), and the range of a device step's arguments. -/
namespace Sys2Proof.Machine

/-- A field that must be zero. -/
def z {n : Nat} (f : BitVec n) : Bool := f == 0

/-- Bits [lo + len - 1 : lo] of a field that must be zero. -/
def zf {n : Nat} (f : BitVec n) (lo len : Nat) : Bool := f.toNat / 2 ^ lo % 2 ^ len == 0

/-- Bits [lo + len - 1 : lo] of a field that must be `v`. -/
def vf {n : Nat} (f : BitVec n) (lo len v : Nat) : Bool := f.toNat / 2 ^ lo % 2 ^ len == v

/-- An unguarded instruction: pred and neg are zero. -/
def unguarded (x : Mod) : Bool := x.pred == 0 && !x.neg

/-- The immediate of `FSHL` and `FSHR` (R150): [5:0] amount, [6] v, [13:8] register; the field not used is zero. -/
def funnelOk (imm : BitVec 32) : Bool :=
  zf imm 7 1 && zf imm 14 18 && (if vf imm 6 1 0 then zf imm 8 6 else zf imm 0 6)

/-- dfile 0, a matrix operand (R98). -/
def dfile0 (o : VV) : Bool := o.dfile == 0

/-- The destination of `VCMP` and `FCMP`: a matrix operand, a k register or a p register (R167). -/
def dfileCmp (o : VV) : Bool := o.dfile == 0 || (o.dfile == 2 && zf o.d 3 7) || (o.dfile == 3 && zf o.d 4 6)

/-- A reduction's destination: a matrix operand or a g register. -/
def dfileRed (o : VV) : Bool := o.dfile == 0 || (o.dfile == 1 && zf o.d 6 4)

/-- A k register destination (dfile 2). -/
def dfileK (o : VV) : Bool := o.dfile == 2 && zf o.d 3 7

/-- A g register destination (dfile 1). -/
def dfileG (o : VV) : Bool := o.dfile == 1 && zf o.d 6 4

/-- The conditions `FCMP` accepts: eq, ne, lt, le, gt, ge (R98). -/
def fcmpCc (c : BitVec 4) : Bool := c.toNat < 9 && c.toNat != 3 && c.toNat != 5 && c.toNat != 7

/-- A g register data operand of a MEM word: cl 0 and t [9:6] zero (R100). -/
def gData (o : MEM) : Bool := !o.cl && zf o.t 6 4 && z o.k

/-- No data operand in a MEM word. -/
def noData (o : MEM) : Bool := !o.cl && z o.t && z o.k

/-- The mod field of an atomic: scope 0 to 4, width 32-bit or 64-bit, bit 7 zero (R100). -/
def atomMod (m : BitVec 8) : Bool := m.toNat % 8 < 5 && (vf m 5 2 2 || vf m 5 2 3) && zf m 7 1

/-- The mod field of `ARADD`: scope 0 to 4, width 32-bit or FP32 lanes (R212). -/
def aradMod (m : BitVec 8) : Bool := m.toNat % 8 < 5 && (vf m 5 2 2 || vf m 5 2 1) && zf m 7 1

/-- A matrix operand of direction row (R99). -/
def rowDir (f : BitVec 10) : Bool := vf f 2 2 0

/-- The formats of `XCVT` and `XWIDEN` (codes of R239: bf16, e4m3, e5m2, i8, u8) with the part p in [5:4]: 0 or 1 for
bf16, 0 to 3 otherwise (R253). -/
def narrowFmt (c : BitVec 10) : Bool :=
  zf c 6 4 && (match c.toNat % 16 with
    | 2 => c.toNat / 16 % 4 < 2
    | 3 | 4 | 6 | 7 => true
    | _ => false)

/-- The formats of `XPACK` (codes of R239: fp4, e4m3, e5m2) with the part p in [6:4]: 0 to 7 for fp4, 0 to 3 otherwise (R256). -/
def packFmt (c : BitVec 10) : Bool :=
  zf c 7 3 && (match c.toNat % 16 with
    | 5 => true
    | 3 | 4 => c.toNat / 16 % 8 < 4
    | _ => false)

/-- `XEXP`: h is zero for `.f32` (R255). -/
def xexpHalf (o : VV) : Bool := !(vf o.sub 2 1 0) || zf o.c 9 1

/-- The ratio bound of `XDCFG`: 1 to 33 (R257). -/
def ratioOk (d : BitVec 10) : Bool := 1 ≤ d.toNat && d.toNat ≤ 33

/-- The element types of `TCFG`: 0x01, 0x02, 0x08 (R274). -/
def tileType (s : BitVec 8) : Bool := s == 1 || s == 2 || s == 8

/-- The A source of a multiply: a g register, or a slot in [11:10] (R102). -/
def slotA (o : MXW) : Bool := !o.fa || zf o.a 2 4

/-- The B source of a multiply: a g register, or a slot in [18:17] (R102). -/
def slotB (o : MXW) : Bool := o.bs == 0 || (o.bs == 1 && zf o.b 2 4)

/-- The scope field of an EN instruction: 1 to 4 when acq or rel is set, and 0 otherwise (R292). -/
def scopeOk (o : ENW) : Bool :=
  if o.acq || o.rel then 1 ≤ o.scope.toNat && o.scope.toNat ≤ 4 else o.scope == 0

/-- The scope field of `PHASE`: 1 to 4 (R291). -/
def scope14 (s : BitVec 3) : Bool := 1 ≤ s.toNat && s.toNat ≤ 4

/-- `CPY` and `CPYT`: dir is not 11; d names a handle register, and is 0 for `.ss` (R291). -/
def copyH (o : ENW) : Bool :=
  !(vf o.sub 0 2 3) && (if vf o.sub 0 2 2 then z o.d else zf o.d 5 1)

/-- `CFILL`: d is 0 for `.sp` and names a handle register for `.gl` (R291). -/
def fillH (o : ENW) : Bool := if zf o.sub 0 1 then z o.d else zf o.d 5 1

/-- `SEMSIG`: b names the core register of a remote signal, and is 0 for a local one (R291). -/
def remoteB (o : ENW) : Bool := !(zf o.sub 8 1) || z o.b

/-- `SCREATE`: the class is 01 or 10 (R291). -/
def segClass (s : BitVec 10) : Bool := vf s 0 2 1 || vf s 0 2 2

/-- `WPSET`: a names a handle register, and is 0 under `.sp` (R360). -/
def watchH (o : SI) : Bool := if zf o.imm 18 1 then zf o.a 5 1 else z o.a

/-- A known log, 0 to 5 (R367, R377). -/
def logOk (imm : BitVec 32) : Bool := imm.toNat % 256 < 6

/-- The logs `LOGCTL.mark` writes: 0 and 3 (R378). -/
def markLog (imm : BitVec 32) : Bool := imm.toNat % 256 == 0 || imm.toNat % 256 == 3

/-- A core id (R44). -/
def coreOk (n : Nat) : Bool := n < 96

/-- A partition id (R45). -/
def partOk (n : Nat) : Bool := n < 24

/-- A context of a core. -/
def ctxOk (c : CtxId) : Bool := coreOk c.core && c.bank < 3

/-- A queue (R29): a PASID of 20 bits and a queue number. -/
def queueOk (pasid queue : Nat) : Bool := pasid < 2 ^ 20 && queue < 256

/-- A request whose opcode byte is `op`, or is none of the table of R26. -/
def reqOk (op : Nat) (r : Req) : Bool := r.op.toNat == op || r.op.toNat == 0 || r.op.toNat == 12 || r.op.toNat ≥ 14

/-- The reserved and unused fields of each instruction's word hold what its encoding gives (R97 to R105, and the rule of
each instruction); the arguments of a device step are in range. DESIGN CHOICE (log entry 56): of the fields of `LOGCTL`, d must be zero for `mark`, as R367
says, and for `drift`, which has no result; a may hold any register, which `hw` and `flush` read for log 4 only. -/
def fieldsOk (i : Instr) : Bool :=
  match i with
  | .nop => true
  | .add _ _ => true
  | .sub _ _ => true
  | .and _ _ => true
  | .or _ _ => true
  | .xor _ _ => true
  | .andn _ _ => true
  | .orn _ _ => true
  | .sel _ _ => true
  | .shl _ _ => true
  | .shr _ _ => true
  | .sar _ _ => true
  | .rol _ _ => true
  | .min _ _ => true
  | .max _ _ => true
  | .minu _ _ => true
  | .maxu _ _ => true
  | .absd _ _ => true
  | .clz _ o => z o.b
  | .ctz _ o => z o.b
  | .popc _ o => z o.b
  | .sext _ _ => true
  | .zext _ _ => true
  | .addi _ _ => true
  | .movi _ o => z o.a && z o.b
  | .movh _ o => z o.b
  | .fshl _ o => funnelOk o.imm
  | .fshr _ o => funnelOk o.imm
  | .shadd _ o => zf o.imm 3 29
  | .bext _ o => z o.b && zf o.imm 6 2 && zf o.imm 14 2 && zf o.imm 17 15
  | .bins _ o => zf o.imm 6 2 && zf o.imm 14 18
  | .cmpEq _ o => zf o.d 4 2
  | .cmpNe _ o => zf o.d 4 2
  | .cmpLt _ o => zf o.d 4 2
  | .cmpLtu _ o => zf o.d 4 2
  | .cmpLe _ o => zf o.d 4 2
  | .cmpLeu _ o => zf o.d 4 2
  | .cmpGt _ o => zf o.d 4 2
  | .cmpGtu _ o => zf o.d 4 2
  | .cmpGe _ o => zf o.d 4 2
  | .cmpGeu _ o => zf o.d 4 2
  | .cmpiEq _ o => zf o.d 4 2 && z o.b
  | .cmpiNe _ o => zf o.d 4 2 && z o.b
  | .cmpiLt _ o => zf o.d 4 2 && z o.b
  | .cmpiLtu _ o => zf o.d 4 2 && z o.b
  | .cmpiLe _ o => zf o.d 4 2 && z o.b
  | .cmpiLeu _ o => zf o.d 4 2 && z o.b
  | .cmpiGt _ o => zf o.d 4 2 && z o.b
  | .cmpiGtu _ o => zf o.d 4 2 && z o.b
  | .cmpiGe _ o => zf o.d 4 2 && z o.b
  | .cmpiGeu _ o => zf o.d 4 2 && z o.b
  | .mul _ _ => true
  | .mulh _ _ => true
  | .mulhu _ _ => true
  | .div _ _ => true
  | .divu _ _ => true
  | .rem _ _ => true
  | .remu _ _ => true
  | .br x o => unguarded x && z o.d && z o.a && z o.b && z o.aux
  | .brc _ o => z o.d && z o.a && z o.b && z o.aux
  | .jmp _ o => z o.d && z o.b
  | .call x o => unguarded x && z o.a && z o.b
  | .callr x _ => unguarded x
  | .ret x o => unguarded x && z o.d && z o.b
  | .loop x o => unguarded x && z o.d && z o.a && z o.b
  | .loopr x o => unguarded x && z o.d
  | .lexit _ o => z o.d && z o.a && z o.b
  | .pbt x o => unguarded x && zf o.d 2 4 && z o.a && z o.b && z o.aux && o.page != 0x80000
  | .pbtReg x o => unguarded x && zf o.d 2 4 && z o.a && z o.b && z o.aux && o.page == 0x80000
  | .bt _ o => z o.d && z o.b && zf o.a 2 4
  | .pand x o => unguarded x && zf o.d 4 2 && zf o.a 4 2 && zf o.b 4 2
  | .por x o => unguarded x && zf o.d 4 2 && zf o.a 4 2 && zf o.b 4 2
  | .pxor x o => unguarded x && zf o.d 4 2 && zf o.a 4 2 && zf o.b 4 2
  | .pnot x o => unguarded x && zf o.d 4 2 && zf o.a 4 2 && z o.b
  | .pmov x o => unguarded x && zf o.d 4 2 && zf o.a 4 2 && z o.b
  | .vadd _ o => dfile0 o && z o.c && zf o.sub 1 3
  | .vsub _ o => dfile0 o && z o.c && zf o.sub 1 3
  | .vmul _ o => dfile0 o && z o.c && z o.sub
  | .vmulh _ o => dfile0 o && z o.c && zf o.sub 1 3
  | .vmin _ o => dfile0 o && z o.c && z o.sub
  | .vmax _ o => dfile0 o && z o.c && z o.sub
  | .vminu _ o => dfile0 o && z o.c && z o.sub
  | .vmaxu _ o => dfile0 o && z o.c && z o.sub
  | .vabs _ o => dfile0 o && z o.b && z o.c && z o.sub
  | .vand _ o => dfile0 o && z o.c && z o.sub
  | .vor _ o => dfile0 o && z o.c && z o.sub
  | .vxor _ o => dfile0 o && z o.c && z o.sub
  | .vshl _ o => dfile0 o && z o.c && z o.sub
  | .vshr _ o => dfile0 o && z o.c && z o.sub
  | .vsar _ o => dfile0 o && z o.c && z o.sub
  | .vfshl _ o => dfile0 o && z o.sub
  | .vfshr _ o => dfile0 o && z o.sub
  | .vclz _ o => dfile0 o && z o.b && z o.c && z o.sub
  | .vpopc _ o => dfile0 o && z o.b && z o.c && z o.sub
  | .vcmp _ o => dfileCmp o && z o.c && o.sub.toNat < 10
  | .vsel _ o => dfile0 o && z o.sub && zf o.c 3 7
  | .vgmaxu _ o => dfile0 o && z o.b && z o.c && o.sub.toNat < 3
  | .fadd _ o => dfile0 o && z o.c && z o.sub
  | .fsub _ o => dfile0 o && z o.c && z o.sub
  | .fmul _ o => dfile0 o && z o.c && z o.sub
  | .fma _ o => dfile0 o && z o.sub
  | .fms _ o => dfile0 o && z o.sub
  | .fnma _ o => dfile0 o && z o.sub
  | .fmin _ o => dfile0 o && z o.c && z o.sub
  | .fmax _ o => dfile0 o && z o.c && z o.sub
  | .fabs _ o => dfile0 o && z o.b && z o.c && z o.sub
  | .fneg _ o => dfile0 o && z o.b && z o.c && z o.sub
  | .fcmp _ o => dfileCmp o && z o.c && fcmpCc o.sub
  | .fdiv _ o => dfile0 o && z o.c && z o.sub
  | .fsqrt _ o => dfile0 o && z o.b && z o.c && z o.sub
  | .frcp _ o => dfile0 o && z o.b && z o.c && z o.sub
  | .frsq _ o => dfile0 o && z o.b && z o.c && z o.sub
  | .cvtif _ o => dfile0 o && z o.b && z o.c && zf o.sub 1 3
  | .cvtfi _ o => dfile0 o && z o.b && z o.c && zf o.sub 1 3
  | .cvtfb _ o => dfile0 o && z o.b && z o.c && zf o.sub 1 3
  | .cvtbf _ o => dfile0 o && z o.b && z o.c && zf o.sub 1 3
  | .vredadd _ o => dfileRed o && z o.b && z o.c && z o.sub
  | .vredmax _ o => dfileRed o && z o.b && z o.c && z o.sub
  | .vredmaxu _ o => dfileRed o && z o.b && z o.c && z o.sub
  | .vredmin _ o => dfileRed o && z o.b && z o.c && z o.sub
  | .fredadd _ o => dfileRed o && z o.b && z o.c && z o.sub
  | .fredmax _ o => dfileRed o && z o.b && z o.c && z o.sub
  | .vbcstG _ o => dfile0 o && zf o.a 6 4 && z o.b && z o.c && z o.sub
  | .vbcstLane _ o => dfile0 o && z o.b && zf o.c 6 4 && o.sub == 1
  | .vrotG _ o => dfile0 o && zf o.b 6 4 && z o.c && z o.sub
  | .vrotImm _ o => dfile0 o && z o.b && zf o.c 6 4 && o.sub == 1
  | .vperm _ o => dfile0 o && z o.c && z o.sub
  | .vcmpr _ o => dfile0 o && z o.b && z o.c && zf o.sub 1 3
  | .viota _ o => dfile0 o && z o.a && zf o.b 3 7 && z o.c && z o.sub
  | .vmovs _ o => dfile0 o && z o.b && z o.c && z o.sub
  | .vins _ o => dfile0 o && zf o.a 6 4 && z o.b && zf o.c 6 4 && z o.sub
  | .kand _ o => dfileK o && z o.k && zf o.a 3 7 && zf o.b 3 7 && z o.c && z o.sub
  | .kor _ o => dfileK o && z o.k && zf o.a 3 7 && zf o.b 3 7 && z o.c && z o.sub
  | .knot _ o => dfileK o && z o.k && zf o.a 3 7 && z o.b && z o.c && z o.sub
  | .kpopc _ o => dfileG o && z o.k && zf o.a 3 7 && z o.b && z o.c && z o.sub
  | .mvx _ o => dfile0 o && z o.b && z o.c && zf o.sub 2 2
  | .mvxm _ o => dfile0 o && z o.b && zf o.c 6 4 && zf o.sub 2 2
  | .mvgr _ o => dfileG o && z o.k && z o.b && zf o.c 6 4 && zf o.sub 1 1 && zf o.sub 3 1
  | .mvkKm _ o => dfileK o && z o.b && z o.c && zf o.sub 1 3
  | .mvkMk _ o => dfile0 o && zf o.a 3 7 && z o.b && z o.c && zf o.sub 0 1 && vf o.sub 2 2 1
  | .mvkGk _ o => dfileG o && z o.k && zf o.a 3 7 && z o.b && z o.c && o.sub == 8
  | .mvkKg _ o => dfileK o && zf o.a 6 4 && z o.b && z o.c && o.sub == 12
  | .lds _ o => z o.h && gData o && z o.b && zf o.mod 3 5
  | .sts _ o => z o.h && gData o && z o.b && zf o.mod 2 6
  | .ldsv _ o => z o.h && z o.b && z o.mod
  | .stsv _ o => z o.h && z o.b && z o.mod
  | .ldsvu _ o => z o.h && z o.b && z o.mod
  | .stsvm _ o => z o.h && z o.mod
  | .ldsx _ o => z o.h && z o.mod
  | .stsx _ o => z o.h && z o.mod
  | .ldsm _ o => z o.h && z o.b && zf o.mod 6 2
  | .stsm _ o => z o.h && z o.b && zf o.mod 6 2
  | .ldg _ o => gData o && z o.b && zf o.mod 3 5
  | .stg _ o => gData o && z o.b && zf o.mod 2 6
  | .ldgv _ o => z o.b && z o.mod
  | .stgv _ o => z o.b && z o.mod
  | .stgvm _ o => z o.mod
  | .pfg _ o => noData o && z o.b && zf o.mod 1 7
  | .flg _ o => noData o && z o.b && zf o.mod 1 7
  | .aadd _ o => gData o && atomMod o.mod
  | .afadd _ o => gData o && atomMod o.mod && vf o.mod 5 2 2
  | .amin _ o => gData o && atomMod o.mod
  | .amax _ o => gData o && atomMod o.mod
  | .aminu _ o => gData o && atomMod o.mod
  | .amaxu _ o => gData o && atomMod o.mod
  | .aand _ o => gData o && atomMod o.mod
  | .aor _ o => gData o && atomMod o.mod
  | .axor _ o => gData o && atomMod o.mod
  | .axchg _ o => gData o && atomMod o.mod
  | .acas _ o => gData o && atomMod o.mod
  | .aradd _ o => z o.b && aradMod o.mod
  | .xlt _ o => zf o.d 5 1 && z o.b
  | .xltp _ o => z o.d && zf o.imm 5 27
  | .xrel _ o => zf o.d 5 1 && z o.a && z o.b
  | .xinv _ o => z o.d && z o.b
  | .xpose _ o => dfile0 o && rowDir o.a && rowDir o.d && z o.b && zf o.c 6 4 && zf o.sub 2 2 && z o.k
  | .xcvt _ o => dfile0 o && z o.b && narrowFmt o.c && zf o.sub 2 2
  | .xexp _ o => dfile0 o && zf o.sub 3 1 && xexpHalf o && z o.k
  | .xpack _ o => dfile0 o && zf o.b 6 4 && packFmt o.c && zf o.sub 2 2 && z o.k
  | .xdec _ o => dfile0 o && z o.a && z o.b && z o.c && zf o.sub 2 2 && zf o.sub 0 1 && z o.k
  | .xdcfg _ o => dfile0 o && z o.d && zf o.a 6 4 && zf o.b 6 4 && zf o.c 6 4 && ratioOk o.c && z o.sub && z o.k
  | .xwiden _ o => dfile0 o && z o.b && narrowFmt o.c && zf o.sub 2 2
  | .tcfg _ o => tileType o.sub && !o.last && z o.cellop && !o.fa && z o.a && z o.bs && z o.b
  | .tzero _ o => !o.discard && !o.last && z o.cellop && z o.sub && z o.imm && !o.fa && z o.a && z o.bs && z o.b
  | .tfet _ o => !o.discard && !o.last && z o.cellop && z o.sub && zf o.imm 5 11 && !o.fa && z o.bs
  | .trel _ o => !o.discard && !o.last && z o.cellop && z o.sub && z o.imm && !o.fa && z o.a && z o.bs && z o.b
  | .mma _ o => !o.discard && z o.sub && z o.imm && slotA o && slotB o && (!o.last || o.fa || o.bs == 1)
  | .mmas _ o => !o.discard && z o.imm && z o.cellop && o.fa && slotA o && slotB o && (o.sub == 16 || o.sub == 32)
  | .mmac _ o => !o.discard && z o.sub && z o.imm && z o.cellop && slotA o && o.bs == 2 && (!o.last || o.fa)
  | .tld _ o => !o.discard && !o.last && z o.cellop && z o.sub && z o.imm && !o.fa && z o.bs && z o.b
  | .tst _ o => !o.last && z o.cellop && z o.sub && z o.imm && !o.fa && z o.bs && z o.b
  | .trowv _ o => !o.discard && !o.last && z o.cellop && zf o.imm 13 3 && !o.fa && z o.a && z o.bs && z o.b
  | .tvrow _ o => !o.discard && !o.last && z o.cellop && zf o.imm 13 3 && !o.fa && z o.a && z o.bs && z o.b
  | .agen _ o => !o.discard && !o.last && z o.cellop && z o.sub && z o.imm && z o.t && !o.fa && z o.bs
  | .aproj _ o => !o.discard && !o.last && z o.cellop && z o.sub && z o.imm && z o.t && !o.fa && z o.bs
  | .aseek _ o => !o.discard && !o.last && z o.cellop && z o.sub && z o.t && !o.fa && z o.bs
  | .tswap _ o => !o.discard && !o.last && z o.cellop && z o.sub && z o.imm && z o.bs && zf o.b 2 4 && !o.fa && z o.a
  | .cpy _ o => !o.nofill && copyH o && scopeOk o && zf o.sub 6 4
  | .cpyt _ o => copyH o && scopeOk o && zf o.sub 3 7
  | .cfill _ o => !o.nofill && fillH o && scopeOk o && zf o.sub 1 9
  | .ctwany _ o => !o.cmp && !o.sealed && !o.wait && !o.signal && !o.nofill && !o.acq && !o.rel && z o.scope && z o.tag && z o.c && z o.d && z o.b && z o.sub
  | .ctwall _ o => !o.cmp && !o.sealed && !o.wait && !o.signal && !o.nofill && !o.acq && !o.rel && z o.scope && z o.tag && z o.c && z o.d && z o.b && z o.sub
  | .ctffr _ o => !o.cmp && !o.sealed && !o.wait && !o.signal && !o.nofill && !o.acq && !o.rel && z o.scope && z o.tag && z o.c && z o.b && z o.sub
  | .ctclr _ o => !o.cmp && !o.sealed && !o.wait && !o.signal && !o.nofill && !o.acq && !o.rel && z o.scope && z o.tag && z o.c && z o.d && z o.b && z o.sub
  | .semsig _ o => !o.cmp && !o.sealed && !o.wait && !o.signal && !o.nofill && z o.tag && z o.c && !o.acq && scopeOk o && z o.d && remoteB o && zf o.sub 9 1
  | .semwait _ o => !o.cmp && !o.sealed && !o.wait && !o.signal && !o.nofill && z o.tag && z o.c && !o.rel && scopeOk o && z o.d && z o.b && zf o.sub 8 2
  | .semrd _ o => !o.cmp && !o.sealed && !o.wait && !o.signal && !o.nofill && !o.acq && !o.rel && z o.scope && z o.tag && z o.c && z o.a && z o.b && zf o.sub 8 2
  | .semset _ o => !o.cmp && !o.sealed && !o.wait && !o.signal && !o.nofill && !o.acq && !o.rel && z o.scope && z o.tag && z o.c && z o.d && z o.b && zf o.sub 8 2
  | .screate _ o => !o.cmp && !o.sealed && !o.wait && !o.signal && !o.nofill && !o.acq && !o.rel && z o.scope && z o.tag && segClass o.sub && zf o.sub 3 7
  | .satt _ o => !o.cmp && !o.sealed && !o.wait && !o.signal && !o.nofill && z o.tag && z o.c && o.acq && !o.rel && z o.scope && z o.b && zf o.sub 1 9
  | .sdet _ o => !o.cmp && !o.sealed && !o.wait && !o.signal && !o.nofill && z o.tag && z o.c && !o.acq && o.rel && z o.scope && z o.d && z o.b && z o.sub
  | .sfreeze _ o => !o.cmp && !o.sealed && !o.wait && !o.signal && !o.nofill && !o.acq && !o.rel && z o.scope && z o.tag && z o.c && z o.d && z o.b && z o.sub
  | .sdrop _ o => !o.cmp && !o.sealed && !o.wait && !o.signal && !o.nofill && !o.acq && !o.rel && z o.scope && z o.tag && z o.c && z o.d && z o.b && z o.sub
  | .squery _ o => !o.cmp && !o.sealed && !o.wait && !o.signal && !o.nofill && !o.acq && !o.rel && z o.scope && z o.tag && z o.c && z o.b && z o.sub
  | .phase _ o => !o.cmp && !o.sealed && !o.wait && !o.signal && !o.nofill && z o.tag && z o.c && !o.acq && !o.rel && scope14 o.scope && z o.d && z o.a && z o.b && z o.sub
  | .efence _ o => !o.cmp && !o.sealed && !o.wait && !o.signal && !o.nofill && !o.acq && !o.rel && z o.scope && z o.tag && z o.c && z o.d && z o.a && z o.b && z o.sub
  | .csrr _ o => z o.a && z o.b && zf o.imm 12 20
  | .csrw _ o => z o.d && z o.b && zf o.imm 12 20
  | .csrs _ o => z o.d && z o.b && zf o.imm 12 20
  | .csrc _ o => z o.d && z o.b && zf o.imm 12 20
  | .trap _ o => z o.d && z o.a && z o.b && zf o.imm 16 16
  | .rfe _ o => z o.d && z o.a && z o.b
  | .idle _ o => z o.d && z o.a && z o.b
  | .wpset _ o => watchH o && zf o.imm 19 13
  | .wpclr _ o => z o.d && z o.a && z o.b && zf o.imm 0 16 && zf o.imm 18 14
  | .logctlHw _ o => z o.b && zf o.imm 12 20 && vf o.imm 8 4 0 && logOk o.imm
  | .logctlFlush _ o => z o.b && zf o.imm 12 20 && vf o.imm 8 4 1 && logOk o.imm
  | .logctlMark _ o => z o.b && zf o.imm 12 20 && vf o.imm 8 4 2 && z o.d && markLog o.imm
  | .logctlDrift _ o => z o.b && zf o.imm 12 20 && vf o.imm 8 4 3 && z o.d && zf o.imm 0 8
  | .halt _ o => z o.d && z o.b
  | .dstop _ o => z o.d && z o.a && z o.b
  | .sstart _ _ => true
  | .lsend _ o => z o.d && zf o.sub 14 2
  | .lrecv _ o => z o.d && zf o.sub 14 2
  | .lwait _ o => z o.d && z o.b && z o.c && z o.port && z o.sub
  | .lclk _ o => z o.a && z o.b && z o.c && z o.port && z o.sub
  | .powerOn => true
  | .functionTrained fn _ => fn < 64
  | .clockResync _ => true
  | .powerClockStep _ => true
  | .thermalStepDown die => die < 4
  | .thermalShutdown die => die < 4
  | .lifetimeCounterFlush => true
  | .readiness source => source < 512
  | .attest source _ => source < 512
  | .recordPut source record => source < 512 && record.length ≤ 65536
  | .powerLimit source _ => source < 512
  | .dataWrite r => reqOk 1 r
  | .tailWrite r => reqOk 2 r
  | .qcbFetchDone _ _ => true
  | .qcbFetchTimeout _ => true
  | .dataRead r => reqOk 3 r
  | .chunkPut r => reqOk 4 r
  | .qcbInvalidate r => reqOk 5 r
  | .controlWrite r => reqOk 6 r
  | .controlRead r => reqOk 7 r
  | .give r => reqOk 8 r
  | .take r => reqOk 9 r
  | .map r => reqOk 10 r
  | .unmap r => reqOk 11 r
  | .refuse r => reqOk 13 r
  | .noOperation pasid queue => queueOk pasid queue
  | .launch pasid queue => queueOk pasid queue
  | .launchAdmit part => partOk part
  | .slotLoad pasid queue => queueOk pasid queue
  | .slotRelease pasid queue => queueOk pasid queue
  | .slotReleaseDone slot => slot < 64
  | .slotRestore slot => slot < 64
  | .kernelComplete part => partOk part
  | .firmwareLinkMessage leaf _ => leaf < 24
  | .firmwareLinkError leaf => leaf < 24
  | .iterationAssign part => partOk part
  | .patienceExpiry part => partOk part
  | .segmentLoadDone core _ => coreOk core
  | .bundleIssue core => coreOk core
  | .stillRewriteDone pasid _ => pasid < 2 ^ 20
  | .codePageInDone pasid _ => pasid < 2 ^ 20
  | .pageReplace pasid _ => pasid < 2 ^ 20
  | .partitionStopFreeze part => partOk part
  | .dumpResume part => partOk part
  | .dumpEndKernel part => partOk part
  | .secondaryBubble core => coreOk core
  | .variableResultArrival core _ => coreOk core
  | .leafAnswer core bank => coreOk core && bank < 3
  | .impreciseReportArrival _ => true
  | .preemptRequest part => partOk part
  | .watchdogExpiry part => partOk part
  | .partitionResume part => partOk part
  | .machineCheck _ => true
  | .iterationRetire core bank => coreOk core && bank < 3
  | .secondaryEnd core => coreOk core
  | .epochClose part => partOk part
  | .atomicPerform _ => true
  | .commandStart core _ => coreOk core
  | .commandComplete core _ => coreOk core
  | .remoteSignalArrival _ => true
  | .peerCopyArrival endpoint sender tag core _ _ => endpoint < 512 && coreOk sender && tag < 64 && coreOk core
  | .peerSignalArrival endpoint tag far core sem _ => endpoint < 512 && tag < 64 && coreOk far && coreOk core && sem < 256
  | .linkDeparture core _ => coreOk core
  | .flitArrival port ch index count bytes => port < 16 && ch < 256 && index < count && bytes.length == 256
  | .linkReceiveMiss core _ => coreOk core
  | .fmodeWrite ctx _ => ctxOk ctx
  | .srngWrite ctx _ => ctxOk ctx
  | .skeyWrite ctx _ _ => ctxOk ctx
  | .formatWindowWrite ctx _ _ => ctxOk ctx
  | .logCsrWrite ctx _ _ => ctxOk ctx
  | .csrWrite ctx _ _ => ctxOk ctx
  | .lossOfSupply => true

/-- The guard and prefix of an instruction. -/
def modOf (i : Instr) : Option Mod :=
  match i with
  | .nop => none
  | .add x _ => some x
  | .sub x _ => some x
  | .and x _ => some x
  | .or x _ => some x
  | .xor x _ => some x
  | .andn x _ => some x
  | .orn x _ => some x
  | .sel x _ => some x
  | .shl x _ => some x
  | .shr x _ => some x
  | .sar x _ => some x
  | .rol x _ => some x
  | .min x _ => some x
  | .max x _ => some x
  | .minu x _ => some x
  | .maxu x _ => some x
  | .absd x _ => some x
  | .clz x _ => some x
  | .ctz x _ => some x
  | .popc x _ => some x
  | .sext x _ => some x
  | .zext x _ => some x
  | .addi x _ => some x
  | .movi x _ => some x
  | .movh x _ => some x
  | .fshl x _ => some x
  | .fshr x _ => some x
  | .shadd x _ => some x
  | .bext x _ => some x
  | .bins x _ => some x
  | .cmpEq x _ => some x
  | .cmpNe x _ => some x
  | .cmpLt x _ => some x
  | .cmpLtu x _ => some x
  | .cmpLe x _ => some x
  | .cmpLeu x _ => some x
  | .cmpGt x _ => some x
  | .cmpGtu x _ => some x
  | .cmpGe x _ => some x
  | .cmpGeu x _ => some x
  | .cmpiEq x _ => some x
  | .cmpiNe x _ => some x
  | .cmpiLt x _ => some x
  | .cmpiLtu x _ => some x
  | .cmpiLe x _ => some x
  | .cmpiLeu x _ => some x
  | .cmpiGt x _ => some x
  | .cmpiGtu x _ => some x
  | .cmpiGe x _ => some x
  | .cmpiGeu x _ => some x
  | .mul x _ => some x
  | .mulh x _ => some x
  | .mulhu x _ => some x
  | .div x _ => some x
  | .divu x _ => some x
  | .rem x _ => some x
  | .remu x _ => some x
  | .br x _ => some x
  | .brc x _ => some x
  | .jmp x _ => some x
  | .call x _ => some x
  | .callr x _ => some x
  | .ret x _ => some x
  | .loop x _ => some x
  | .loopr x _ => some x
  | .lexit x _ => some x
  | .pbt x _ => some x
  | .pbtReg x _ => some x
  | .bt x _ => some x
  | .pand x _ => some x
  | .por x _ => some x
  | .pxor x _ => some x
  | .pnot x _ => some x
  | .pmov x _ => some x
  | .vadd x _ => some x
  | .vsub x _ => some x
  | .vmul x _ => some x
  | .vmulh x _ => some x
  | .vmin x _ => some x
  | .vmax x _ => some x
  | .vminu x _ => some x
  | .vmaxu x _ => some x
  | .vabs x _ => some x
  | .vand x _ => some x
  | .vor x _ => some x
  | .vxor x _ => some x
  | .vshl x _ => some x
  | .vshr x _ => some x
  | .vsar x _ => some x
  | .vfshl x _ => some x
  | .vfshr x _ => some x
  | .vclz x _ => some x
  | .vpopc x _ => some x
  | .vcmp x _ => some x
  | .vsel x _ => some x
  | .vgmaxu x _ => some x
  | .fadd x _ => some x
  | .fsub x _ => some x
  | .fmul x _ => some x
  | .fma x _ => some x
  | .fms x _ => some x
  | .fnma x _ => some x
  | .fmin x _ => some x
  | .fmax x _ => some x
  | .fabs x _ => some x
  | .fneg x _ => some x
  | .fcmp x _ => some x
  | .fdiv x _ => some x
  | .fsqrt x _ => some x
  | .frcp x _ => some x
  | .frsq x _ => some x
  | .cvtif x _ => some x
  | .cvtfi x _ => some x
  | .cvtfb x _ => some x
  | .cvtbf x _ => some x
  | .vredadd x _ => some x
  | .vredmax x _ => some x
  | .vredmaxu x _ => some x
  | .vredmin x _ => some x
  | .fredadd x _ => some x
  | .fredmax x _ => some x
  | .vbcstG x _ => some x
  | .vbcstLane x _ => some x
  | .vrotG x _ => some x
  | .vrotImm x _ => some x
  | .vperm x _ => some x
  | .vcmpr x _ => some x
  | .viota x _ => some x
  | .vmovs x _ => some x
  | .vins x _ => some x
  | .kand x _ => some x
  | .kor x _ => some x
  | .knot x _ => some x
  | .kpopc x _ => some x
  | .mvx x _ => some x
  | .mvxm x _ => some x
  | .mvgr x _ => some x
  | .mvkKm x _ => some x
  | .mvkMk x _ => some x
  | .mvkGk x _ => some x
  | .mvkKg x _ => some x
  | .lds x _ => some x
  | .sts x _ => some x
  | .ldsv x _ => some x
  | .stsv x _ => some x
  | .ldsvu x _ => some x
  | .stsvm x _ => some x
  | .ldsx x _ => some x
  | .stsx x _ => some x
  | .ldsm x _ => some x
  | .stsm x _ => some x
  | .ldg x _ => some x
  | .stg x _ => some x
  | .ldgv x _ => some x
  | .stgv x _ => some x
  | .stgvm x _ => some x
  | .pfg x _ => some x
  | .flg x _ => some x
  | .aadd x _ => some x
  | .afadd x _ => some x
  | .amin x _ => some x
  | .amax x _ => some x
  | .aminu x _ => some x
  | .amaxu x _ => some x
  | .aand x _ => some x
  | .aor x _ => some x
  | .axor x _ => some x
  | .axchg x _ => some x
  | .acas x _ => some x
  | .aradd x _ => some x
  | .xlt x _ => some x
  | .xltp x _ => some x
  | .xrel x _ => some x
  | .xinv x _ => some x
  | .xpose x _ => some x
  | .xcvt x _ => some x
  | .xexp x _ => some x
  | .xpack x _ => some x
  | .xdec x _ => some x
  | .xdcfg x _ => some x
  | .xwiden x _ => some x
  | .tcfg x _ => some x
  | .tzero x _ => some x
  | .tfet x _ => some x
  | .trel x _ => some x
  | .mma x _ => some x
  | .mmas x _ => some x
  | .mmac x _ => some x
  | .tld x _ => some x
  | .tst x _ => some x
  | .trowv x _ => some x
  | .tvrow x _ => some x
  | .agen x _ => some x
  | .aproj x _ => some x
  | .aseek x _ => some x
  | .tswap x _ => some x
  | .cpy x _ => some x
  | .cpyt x _ => some x
  | .cfill x _ => some x
  | .ctwany x _ => some x
  | .ctwall x _ => some x
  | .ctffr x _ => some x
  | .ctclr x _ => some x
  | .semsig x _ => some x
  | .semwait x _ => some x
  | .semrd x _ => some x
  | .semset x _ => some x
  | .screate x _ => some x
  | .satt x _ => some x
  | .sdet x _ => some x
  | .sfreeze x _ => some x
  | .sdrop x _ => some x
  | .squery x _ => some x
  | .phase x _ => some x
  | .efence x _ => some x
  | .csrr x _ => some x
  | .csrw x _ => some x
  | .csrs x _ => some x
  | .csrc x _ => some x
  | .trap x _ => some x
  | .rfe x _ => some x
  | .idle x _ => some x
  | .wpset x _ => some x
  | .wpclr x _ => some x
  | .logctlHw x _ => some x
  | .logctlFlush x _ => some x
  | .logctlMark x _ => some x
  | .logctlDrift x _ => some x
  | .halt x _ => some x
  | .dstop x _ => some x
  | .sstart x _ => some x
  | .lsend x _ => some x
  | .lrecv x _ => some x
  | .lwait x _ => some x
  | .lclk x _ => some x
  | .powerOn => none
  | .functionTrained _ _ => none
  | .clockResync _ => none
  | .powerClockStep _ => none
  | .thermalStepDown _ => none
  | .thermalShutdown _ => none
  | .lifetimeCounterFlush => none
  | .readiness _ => none
  | .attest _ _ => none
  | .recordPut _ _ => none
  | .powerLimit _ _ => none
  | .dataWrite _ => none
  | .tailWrite _ => none
  | .qcbFetchDone _ _ => none
  | .qcbFetchTimeout _ => none
  | .dataRead _ => none
  | .chunkPut _ => none
  | .qcbInvalidate _ => none
  | .controlWrite _ => none
  | .controlRead _ => none
  | .give _ => none
  | .take _ => none
  | .map _ => none
  | .unmap _ => none
  | .refuse _ => none
  | .noOperation _ _ => none
  | .launch _ _ => none
  | .launchAdmit _ => none
  | .slotLoad _ _ => none
  | .slotRelease _ _ => none
  | .slotReleaseDone _ => none
  | .slotRestore _ => none
  | .kernelComplete _ => none
  | .firmwareLinkMessage _ _ => none
  | .firmwareLinkError _ => none
  | .iterationAssign _ => none
  | .patienceExpiry _ => none
  | .segmentLoadDone _ _ => none
  | .bundleIssue _ => none
  | .stillRewriteDone _ _ => none
  | .codePageInDone _ _ => none
  | .pageReplace _ _ => none
  | .partitionStopFreeze _ => none
  | .dumpResume _ => none
  | .dumpEndKernel _ => none
  | .secondaryBubble _ => none
  | .variableResultArrival _ _ => none
  | .leafAnswer _ _ => none
  | .impreciseReportArrival _ => none
  | .preemptRequest _ => none
  | .watchdogExpiry _ => none
  | .partitionResume _ => none
  | .machineCheck _ => none
  | .iterationRetire _ _ => none
  | .secondaryEnd _ => none
  | .epochClose _ => none
  | .atomicPerform _ => none
  | .commandStart _ _ => none
  | .commandComplete _ _ => none
  | .remoteSignalArrival _ => none
  | .peerCopyArrival _ _ _ _ _ _ => none
  | .peerSignalArrival _ _ _ _ _ _ => none
  | .linkDeparture _ _ => none
  | .flitArrival _ _ _ _ _ => none
  | .linkReceiveMiss _ _ => none
  | .fmodeWrite _ _ => none
  | .srngWrite _ _ => none
  | .skeyWrite _ _ _ => none
  | .formatWindowWrite _ _ _ => none
  | .logCsrWrite _ _ _ => none
  | .csrWrite _ _ _ => none
  | .lossOfSupply => none

/-- The prefix fields an instruction honours: ext, nfl, sat, rnd. -/
structure Honours where
  ext : Bool
  nfl : Bool
  sat : Bool
  rnd : Bool
  deriving DecidableEq, Repr

/-- Which prefix fields each instruction honours (R92; R148, R152, R155, R157, R167, R187, R206, R209, R251, R274). -/
def honours (i : Instr) : Honours :=
  match i with
  | .nop => ⟨false, false, false, false⟩
  | .add _ _ => ⟨false, false, true, false⟩
  | .sub _ _ => ⟨false, false, true, false⟩
  | .and _ _ => ⟨false, false, false, false⟩
  | .or _ _ => ⟨false, false, false, false⟩
  | .xor _ _ => ⟨false, false, false, false⟩
  | .andn _ _ => ⟨false, false, false, false⟩
  | .orn _ _ => ⟨false, false, false, false⟩
  | .sel _ _ => ⟨false, false, false, false⟩
  | .shl _ _ => ⟨false, false, false, false⟩
  | .shr _ _ => ⟨false, false, false, false⟩
  | .sar _ _ => ⟨false, false, false, false⟩
  | .rol _ _ => ⟨false, false, false, false⟩
  | .min _ _ => ⟨false, false, false, false⟩
  | .max _ _ => ⟨false, false, false, false⟩
  | .minu _ _ => ⟨false, false, false, false⟩
  | .maxu _ _ => ⟨false, false, false, false⟩
  | .absd _ _ => ⟨false, false, false, false⟩
  | .clz _ _ => ⟨false, false, false, false⟩
  | .ctz _ _ => ⟨false, false, false, false⟩
  | .popc _ _ => ⟨false, false, false, false⟩
  | .sext _ _ => ⟨false, false, false, false⟩
  | .zext _ _ => ⟨false, false, false, false⟩
  | .addi _ _ => ⟨true, false, true, false⟩
  | .movi _ _ => ⟨true, false, false, false⟩
  | .movh _ _ => ⟨false, false, false, false⟩
  | .fshl _ _ => ⟨false, false, false, false⟩
  | .fshr _ _ => ⟨false, false, false, false⟩
  | .shadd _ _ => ⟨false, false, true, false⟩
  | .bext _ _ => ⟨false, false, false, false⟩
  | .bins _ _ => ⟨false, false, false, false⟩
  | .cmpEq _ _ => ⟨false, false, false, false⟩
  | .cmpNe _ _ => ⟨false, false, false, false⟩
  | .cmpLt _ _ => ⟨false, false, false, false⟩
  | .cmpLtu _ _ => ⟨false, false, false, false⟩
  | .cmpLe _ _ => ⟨false, false, false, false⟩
  | .cmpLeu _ _ => ⟨false, false, false, false⟩
  | .cmpGt _ _ => ⟨false, false, false, false⟩
  | .cmpGtu _ _ => ⟨false, false, false, false⟩
  | .cmpGe _ _ => ⟨false, false, false, false⟩
  | .cmpGeu _ _ => ⟨false, false, false, false⟩
  | .cmpiEq _ _ => ⟨true, false, false, false⟩
  | .cmpiNe _ _ => ⟨true, false, false, false⟩
  | .cmpiLt _ _ => ⟨true, false, false, false⟩
  | .cmpiLtu _ _ => ⟨true, false, false, false⟩
  | .cmpiLe _ _ => ⟨true, false, false, false⟩
  | .cmpiLeu _ _ => ⟨true, false, false, false⟩
  | .cmpiGt _ _ => ⟨true, false, false, false⟩
  | .cmpiGtu _ _ => ⟨true, false, false, false⟩
  | .cmpiGe _ _ => ⟨true, false, false, false⟩
  | .cmpiGeu _ _ => ⟨true, false, false, false⟩
  | .mul _ _ => ⟨false, false, false, false⟩
  | .mulh _ _ => ⟨false, false, false, false⟩
  | .mulhu _ _ => ⟨false, false, false, false⟩
  | .div _ _ => ⟨false, false, false, false⟩
  | .divu _ _ => ⟨false, false, false, false⟩
  | .rem _ _ => ⟨false, false, false, false⟩
  | .remu _ _ => ⟨false, false, false, false⟩
  | .br _ _ => ⟨false, false, false, false⟩
  | .brc _ _ => ⟨false, false, false, false⟩
  | .jmp _ _ => ⟨false, false, false, false⟩
  | .call _ _ => ⟨false, false, false, false⟩
  | .callr _ _ => ⟨false, false, false, false⟩
  | .ret _ _ => ⟨false, false, false, false⟩
  | .loop _ _ => ⟨false, false, false, false⟩
  | .loopr _ _ => ⟨false, false, false, false⟩
  | .lexit _ _ => ⟨false, false, false, false⟩
  | .pbt _ _ => ⟨false, false, false, false⟩
  | .pbtReg _ _ => ⟨false, false, false, false⟩
  | .bt _ _ => ⟨false, false, false, false⟩
  | .pand _ _ => ⟨false, false, false, false⟩
  | .por _ _ => ⟨false, false, false, false⟩
  | .pxor _ _ => ⟨false, false, false, false⟩
  | .pnot _ _ => ⟨false, false, false, false⟩
  | .pmov _ _ => ⟨false, false, false, false⟩
  | .vadd _ _ => ⟨false, false, true, false⟩
  | .vsub _ _ => ⟨false, false, true, false⟩
  | .vmul _ _ => ⟨false, false, false, false⟩
  | .vmulh _ _ => ⟨false, false, false, false⟩
  | .vmin _ _ => ⟨false, false, false, false⟩
  | .vmax _ _ => ⟨false, false, false, false⟩
  | .vminu _ _ => ⟨false, false, false, false⟩
  | .vmaxu _ _ => ⟨false, false, false, false⟩
  | .vabs _ _ => ⟨false, false, true, false⟩
  | .vand _ _ => ⟨false, false, false, false⟩
  | .vor _ _ => ⟨false, false, false, false⟩
  | .vxor _ _ => ⟨false, false, false, false⟩
  | .vshl _ _ => ⟨false, false, false, false⟩
  | .vshr _ _ => ⟨false, false, false, false⟩
  | .vsar _ _ => ⟨false, false, false, false⟩
  | .vfshl _ _ => ⟨false, false, false, false⟩
  | .vfshr _ _ => ⟨false, false, false, false⟩
  | .vclz _ _ => ⟨false, false, false, false⟩
  | .vpopc _ _ => ⟨false, false, false, false⟩
  | .vcmp _ _ => ⟨false, false, false, false⟩
  | .vsel _ _ => ⟨false, false, false, false⟩
  | .vgmaxu _ _ => ⟨false, false, false, false⟩
  | .fadd _ _ => ⟨false, true, true, true⟩
  | .fsub _ _ => ⟨false, true, true, true⟩
  | .fmul _ _ => ⟨false, true, true, true⟩
  | .fma _ _ => ⟨false, true, true, true⟩
  | .fms _ _ => ⟨false, true, true, true⟩
  | .fnma _ _ => ⟨false, true, true, true⟩
  | .fmin _ _ => ⟨false, true, false, false⟩
  | .fmax _ _ => ⟨false, true, false, false⟩
  | .fabs _ _ => ⟨false, false, false, false⟩
  | .fneg _ _ => ⟨false, false, false, false⟩
  | .fcmp _ _ => ⟨false, true, false, false⟩
  | .fdiv _ _ => ⟨false, true, true, true⟩
  | .fsqrt _ _ => ⟨false, true, true, true⟩
  | .frcp _ _ => ⟨false, true, true, false⟩
  | .frsq _ _ => ⟨false, true, true, false⟩
  | .cvtif _ _ => ⟨false, true, false, true⟩
  | .cvtfi _ _ => ⟨false, true, false, true⟩
  | .cvtfb _ _ => ⟨false, true, true, true⟩
  | .cvtbf _ _ => ⟨false, true, false, false⟩
  | .vredadd _ _ => ⟨false, false, true, false⟩
  | .vredmax _ _ => ⟨false, false, false, false⟩
  | .vredmaxu _ _ => ⟨false, false, false, false⟩
  | .vredmin _ _ => ⟨false, false, false, false⟩
  | .fredadd _ _ => ⟨false, true, true, true⟩
  | .fredmax _ _ => ⟨false, true, false, false⟩
  | .vbcstG _ _ => ⟨false, false, false, false⟩
  | .vbcstLane _ _ => ⟨false, false, false, false⟩
  | .vrotG _ _ => ⟨false, false, false, false⟩
  | .vrotImm _ _ => ⟨false, false, false, false⟩
  | .vperm _ _ => ⟨false, false, false, false⟩
  | .vcmpr _ _ => ⟨false, false, false, false⟩
  | .viota _ _ => ⟨false, false, false, false⟩
  | .vmovs _ _ => ⟨false, false, false, false⟩
  | .vins _ _ => ⟨false, false, false, false⟩
  | .kand _ _ => ⟨false, false, false, false⟩
  | .kor _ _ => ⟨false, false, false, false⟩
  | .knot _ _ => ⟨false, false, false, false⟩
  | .kpopc _ _ => ⟨false, false, false, false⟩
  | .mvx _ _ => ⟨false, false, false, false⟩
  | .mvxm _ _ => ⟨false, false, false, false⟩
  | .mvgr _ _ => ⟨false, false, false, false⟩
  | .mvkKm _ _ => ⟨false, false, false, false⟩
  | .mvkMk _ _ => ⟨false, false, false, false⟩
  | .mvkGk _ _ => ⟨false, false, false, false⟩
  | .mvkKg _ _ => ⟨false, false, false, false⟩
  | .lds _ _ => ⟨true, false, false, false⟩
  | .sts _ _ => ⟨true, false, false, false⟩
  | .ldsv _ _ => ⟨true, false, false, false⟩
  | .stsv _ _ => ⟨true, false, false, false⟩
  | .ldsvu _ _ => ⟨true, false, false, false⟩
  | .stsvm _ _ => ⟨true, false, false, false⟩
  | .ldsx _ _ => ⟨true, false, false, false⟩
  | .stsx _ _ => ⟨true, false, false, false⟩
  | .ldsm _ _ => ⟨true, false, false, false⟩
  | .stsm _ _ => ⟨true, false, false, false⟩
  | .ldg _ _ => ⟨true, false, false, false⟩
  | .stg _ _ => ⟨true, false, false, false⟩
  | .ldgv _ _ => ⟨true, false, false, false⟩
  | .stgv _ _ => ⟨true, false, false, false⟩
  | .stgvm _ _ => ⟨true, false, false, false⟩
  | .pfg _ _ => ⟨true, false, false, false⟩
  | .flg _ _ => ⟨true, false, false, false⟩
  | .aadd _ _ => ⟨true, false, false, false⟩
  | .afadd _ _ => ⟨true, false, false, false⟩
  | .amin _ _ => ⟨true, false, false, false⟩
  | .amax _ _ => ⟨true, false, false, false⟩
  | .aminu _ _ => ⟨true, false, false, false⟩
  | .amaxu _ _ => ⟨true, false, false, false⟩
  | .aand _ _ => ⟨true, false, false, false⟩
  | .aor _ _ => ⟨true, false, false, false⟩
  | .axor _ _ => ⟨true, false, false, false⟩
  | .axchg _ _ => ⟨true, false, false, false⟩
  | .acas _ _ => ⟨true, false, false, false⟩
  | .aradd _ _ => ⟨true, false, false, false⟩
  | .xlt _ _ => ⟨false, false, false, false⟩
  | .xltp _ _ => ⟨false, false, false, false⟩
  | .xrel _ _ => ⟨false, false, false, false⟩
  | .xinv _ _ => ⟨false, false, false, false⟩
  | .xpose _ _ => ⟨false, false, false, false⟩
  | .xcvt _ _ => ⟨false, true, true, true⟩
  | .xexp _ _ => ⟨false, true, true, true⟩
  | .xpack _ _ => ⟨false, true, false, true⟩
  | .xdec _ _ => ⟨false, false, false, false⟩
  | .xdcfg _ _ => ⟨false, false, false, false⟩
  | .xwiden _ _ => ⟨false, true, false, false⟩
  | .tcfg _ _ => ⟨false, false, false, false⟩
  | .tzero _ _ => ⟨false, false, false, false⟩
  | .tfet _ _ => ⟨false, false, false, false⟩
  | .trel _ _ => ⟨false, false, false, false⟩
  | .mma _ _ => ⟨false, false, false, false⟩
  | .mmas _ _ => ⟨false, false, false, false⟩
  | .mmac _ _ => ⟨false, false, false, false⟩
  | .tld _ _ => ⟨false, false, false, false⟩
  | .tst _ _ => ⟨false, false, false, false⟩
  | .trowv _ _ => ⟨false, false, false, false⟩
  | .tvrow _ _ => ⟨false, false, false, false⟩
  | .agen _ _ => ⟨false, false, false, false⟩
  | .aproj _ _ => ⟨false, false, false, false⟩
  | .aseek _ _ => ⟨false, false, false, false⟩
  | .tswap _ _ => ⟨false, false, false, false⟩
  | .cpy _ _ => ⟨false, false, false, false⟩
  | .cpyt _ _ => ⟨false, false, false, false⟩
  | .cfill _ _ => ⟨false, false, false, false⟩
  | .ctwany _ _ => ⟨false, false, false, false⟩
  | .ctwall _ _ => ⟨false, false, false, false⟩
  | .ctffr _ _ => ⟨false, false, false, false⟩
  | .ctclr _ _ => ⟨false, false, false, false⟩
  | .semsig _ _ => ⟨false, false, false, false⟩
  | .semwait _ _ => ⟨false, false, false, false⟩
  | .semrd _ _ => ⟨false, false, false, false⟩
  | .semset _ _ => ⟨false, false, false, false⟩
  | .screate _ _ => ⟨false, false, false, false⟩
  | .satt _ _ => ⟨false, false, false, false⟩
  | .sdet _ _ => ⟨false, false, false, false⟩
  | .sfreeze _ _ => ⟨false, false, false, false⟩
  | .sdrop _ _ => ⟨false, false, false, false⟩
  | .squery _ _ => ⟨false, false, false, false⟩
  | .phase _ _ => ⟨false, false, false, false⟩
  | .efence _ _ => ⟨false, false, false, false⟩
  | .csrr _ _ => ⟨false, false, false, false⟩
  | .csrw _ _ => ⟨false, false, false, false⟩
  | .csrs _ _ => ⟨false, false, false, false⟩
  | .csrc _ _ => ⟨false, false, false, false⟩
  | .trap _ _ => ⟨false, false, false, false⟩
  | .rfe _ _ => ⟨false, false, false, false⟩
  | .idle _ _ => ⟨false, false, false, false⟩
  | .wpset _ _ => ⟨false, false, false, false⟩
  | .wpclr _ _ => ⟨false, false, false, false⟩
  | .logctlHw _ _ => ⟨false, false, false, false⟩
  | .logctlFlush _ _ => ⟨false, false, false, false⟩
  | .logctlMark _ _ => ⟨false, false, false, false⟩
  | .logctlDrift _ _ => ⟨false, false, false, false⟩
  | .halt _ _ => ⟨false, false, false, false⟩
  | .dstop _ _ => ⟨false, false, false, false⟩
  | .sstart _ _ => ⟨false, false, false, false⟩
  | .lsend _ _ => ⟨false, false, false, false⟩
  | .lrecv _ _ => ⟨false, false, false, false⟩
  | .lwait _ _ => ⟨false, false, false, false⟩
  | .lclk _ _ => ⟨false, false, false, false⟩
  | .powerOn => ⟨false, false, false, false⟩
  | .functionTrained _ _ => ⟨false, false, false, false⟩
  | .clockResync _ => ⟨false, false, false, false⟩
  | .powerClockStep _ => ⟨false, false, false, false⟩
  | .thermalStepDown _ => ⟨false, false, false, false⟩
  | .thermalShutdown _ => ⟨false, false, false, false⟩
  | .lifetimeCounterFlush => ⟨false, false, false, false⟩
  | .readiness _ => ⟨false, false, false, false⟩
  | .attest _ _ => ⟨false, false, false, false⟩
  | .recordPut _ _ => ⟨false, false, false, false⟩
  | .powerLimit _ _ => ⟨false, false, false, false⟩
  | .dataWrite _ => ⟨false, false, false, false⟩
  | .tailWrite _ => ⟨false, false, false, false⟩
  | .qcbFetchDone _ _ => ⟨false, false, false, false⟩
  | .qcbFetchTimeout _ => ⟨false, false, false, false⟩
  | .dataRead _ => ⟨false, false, false, false⟩
  | .chunkPut _ => ⟨false, false, false, false⟩
  | .qcbInvalidate _ => ⟨false, false, false, false⟩
  | .controlWrite _ => ⟨false, false, false, false⟩
  | .controlRead _ => ⟨false, false, false, false⟩
  | .give _ => ⟨false, false, false, false⟩
  | .take _ => ⟨false, false, false, false⟩
  | .map _ => ⟨false, false, false, false⟩
  | .unmap _ => ⟨false, false, false, false⟩
  | .refuse _ => ⟨false, false, false, false⟩
  | .noOperation _ _ => ⟨false, false, false, false⟩
  | .launch _ _ => ⟨false, false, false, false⟩
  | .launchAdmit _ => ⟨false, false, false, false⟩
  | .slotLoad _ _ => ⟨false, false, false, false⟩
  | .slotRelease _ _ => ⟨false, false, false, false⟩
  | .slotReleaseDone _ => ⟨false, false, false, false⟩
  | .slotRestore _ => ⟨false, false, false, false⟩
  | .kernelComplete _ => ⟨false, false, false, false⟩
  | .firmwareLinkMessage _ _ => ⟨false, false, false, false⟩
  | .firmwareLinkError _ => ⟨false, false, false, false⟩
  | .iterationAssign _ => ⟨false, false, false, false⟩
  | .patienceExpiry _ => ⟨false, false, false, false⟩
  | .segmentLoadDone _ _ => ⟨false, false, false, false⟩
  | .bundleIssue _ => ⟨false, false, false, false⟩
  | .stillRewriteDone _ _ => ⟨false, false, false, false⟩
  | .codePageInDone _ _ => ⟨false, false, false, false⟩
  | .pageReplace _ _ => ⟨false, false, false, false⟩
  | .partitionStopFreeze _ => ⟨false, false, false, false⟩
  | .dumpResume _ => ⟨false, false, false, false⟩
  | .dumpEndKernel _ => ⟨false, false, false, false⟩
  | .secondaryBubble _ => ⟨false, false, false, false⟩
  | .variableResultArrival _ _ => ⟨false, false, false, false⟩
  | .leafAnswer _ _ => ⟨false, false, false, false⟩
  | .impreciseReportArrival _ => ⟨false, false, false, false⟩
  | .preemptRequest _ => ⟨false, false, false, false⟩
  | .watchdogExpiry _ => ⟨false, false, false, false⟩
  | .partitionResume _ => ⟨false, false, false, false⟩
  | .machineCheck _ => ⟨false, false, false, false⟩
  | .iterationRetire _ _ => ⟨false, false, false, false⟩
  | .secondaryEnd _ => ⟨false, false, false, false⟩
  | .epochClose _ => ⟨false, false, false, false⟩
  | .atomicPerform _ => ⟨false, false, false, false⟩
  | .commandStart _ _ => ⟨false, false, false, false⟩
  | .commandComplete _ _ => ⟨false, false, false, false⟩
  | .remoteSignalArrival _ => ⟨false, false, false, false⟩
  | .peerCopyArrival _ _ _ _ _ _ => ⟨false, false, false, false⟩
  | .peerSignalArrival _ _ _ _ _ _ => ⟨false, false, false, false⟩
  | .linkDeparture _ _ => ⟨false, false, false, false⟩
  | .flitArrival _ _ _ _ _ => ⟨false, false, false, false⟩
  | .linkReceiveMiss _ _ => ⟨false, false, false, false⟩
  | .fmodeWrite _ _ => ⟨false, false, false, false⟩
  | .srngWrite _ _ => ⟨false, false, false, false⟩
  | .skeyWrite _ _ _ => ⟨false, false, false, false⟩
  | .formatWindowWrite _ _ _ => ⟨false, false, false, false⟩
  | .logCsrWrite _ _ _ => ⟨false, false, false, false⟩
  | .csrWrite _ _ _ => ⟨false, false, false, false⟩
  | .lossOfSupply => ⟨false, false, false, false⟩

/-- A prefix holds its default in every field the instruction does not honour, and no reserved rounding code (R92). -/
def prefixOk (i : Instr) : Bool :=
  match modOf i with
  | some { pfx := some p, .. } =>
    let h := honours i
    (h.ext || p.ext == 0) && (h.nfl || !p.nfl) && (h.sat || !p.sat) && (h.rnd || p.rnd == 0) && p.rnd != 7
  | _ => true

end Sys2Proof.Machine
end

