-- ==== Sys2Proof/WellFormed.lean ====
section
/-! DEFINITION. Well-formed instructions: the field values and the prefix that R92 and R105 allow. The checks themselves stand
in Sys2Proof/Machine/Fields.lean. -/
namespace Sys2Proof

/-- The instruction's fields, its prefix and its arguments hold what the spec allows (R92, R105). -/
def Instr.WellFormed (i : Instr) : Prop := Machine.fieldsOk i = true ∧ Machine.prefixOk i = true

end Sys2Proof
end

