-- ==== Sys2Proof/Decode.lean ====
section
/-! DEFINITION. From the units of a code page to bundles and instructions (R88 to R119), refusing by name what the encoding
tables do not allow, and back: the words of an instruction. -/
namespace Sys2Proof
open Sys2Proof.Machine

/-- Why a word or a bundle is refused. Every reason but the last three raises trap 0x01 (R93). -/
inductive Reject where
  /-- the header's low bits or reserved bits (R89) -/
  | header
  /-- the marker word is missing or malformed (R90) -/
  | marker
  /-- the mask names more slots than the count holds, or a word reaches past it -/
  | count
  /-- a header unit stands where a word is expected -/
  | strayHeader
  /-- the count exceeds the slots' words -/
  | leftOver
  /-- an unassigned opcode, or one of another length -/
  | unassigned
  /-- a feature that is not enabled (R13, R92) -/
  | feature
  /-- a reserved bit, an unused field or a reserved field value (R105) -/
  | reserved
  /-- a prefix field that is reserved, or that the instruction does not honour (R91, R92) -/
  | prefixField
  /-- the page's tag does not allow the slot (R96) -/
  | slotOfTag
  /-- a prefix with no word after it in the bundle: trap 0x02 -/
  | orphanPrefix
  /-- two prefixes in a row: trap 0x02 -/
  | twoPrefixes
  /-- the secondary stream does not allow the slot: trap 0x03 (R96) -/
  | slotOfStream
  deriving DecidableEq, Repr

/-- The trap cause of a refusal (R93). -/
def Reject.cause (r : Reject) : BitVec 8 :=
  match r with
  | .orphanPrefix | .twoPrefixes => 0x02
  | .slotOfStream => 0x03
  | _ => 0x01

/-- The slots of R95. -/
inductive Slot where
  | s0 | s1 | sm | br | va | vb | xm | ls | lg | la | xl | tf | mx | en | sy | lk
  deriving DecidableEq, Repr

/-- Slot n of the slot mask (R95). -/
def slotOfNat (n : Nat) : Slot :=
  match n with
  | 0 => .s0 | 1 => .s1 | 2 => .sm | 3 => .br | 4 => .va | 5 => .vb | 6 => .xm | 7 => .ls
  | 8 => .lg | 9 => .la | 10 => .xl | 11 => .tf | 12 => .mx | 13 => .en | 14 => .sy | _ => .lk

/-- The number of a slot (R95). -/
def slotNum (s : Slot) : Nat :=
  match s with
  | .s0 => 0 | .s1 => 1 | .sm => 2 | .br => 3 | .va => 4 | .vb => 5 | .xm => 6 | .ls => 7
  | .lg => 8 | .la => 9 | .xl => 10 | .tf => 11 | .mx => 12 | .en => 13 | .sy => 14 | .lk => 15

/-- The opcode tables of R106 to R119; S0 and S1 share one, VA and VB another. -/
inductive Table where
  | scalar | mulDiv | branch | vector | xmove | scratch | global | atomic | translate | transform | matrix | engine
  | system | link
  deriving DecidableEq, Repr

/-- The opcode table of a slot (R95). -/
def tableOf (s : Slot) : Table :=
  match s with
  | .s0 | .s1 => .scalar
  | .sm => .mulDiv | .br => .branch | .va => .vector | .vb => .vector | .xm => .xmove | .ls => .scratch
  | .lg => .global | .la => .atomic | .xl => .translate | .tf => .transform | .mx => .matrix | .en => .engine
  | .sy => .system | .lk => .link

/-- A slot of each table: the first one. -/
def firstSlot (t : Table) : Slot :=
  match t with
  | .scalar => .s0 | .mulDiv => .sm | .branch => .br | .vector => .va | .xmove => .xm | .scratch => .ls
  | .global => .lg | .atomic => .la | .translate => .xl | .transform => .tf | .matrix => .mx | .engine => .en
  | .system => .sy | .link => .lk

/-! ### Word classes -/

/-- Operands of an SR word (R97). -/
def SR.ofWord (w : Nat) : SR := { d := fld w 8 6, a := fld w 14 6, b := fld w 20 6 }

/-- The SR layout of R97. -/
def SR.word (o : SR) (x : Mod) (op : Nat) : Nat :=
  pack [(2, 0), (6, op), (6, o.d.toNat), (6, o.a.toNat), (6, o.b.toNat), (4, x.pred.toNat), (1, bitOf x.neg), (1, 0)]

/-- Operands of an SI word (R97). -/
def SI.ofWord (w : Nat) : SI := { d := fld w 8 6, a := fld w 14 6, b := fld w 20 6, imm := fld w 32 32 }

/-- The SI layout of R97. -/
def SI.word (o : SI) (x : Mod) (op : Nat) : Nat :=
  pack [(2, 1), (6, op), (6, o.d.toNat), (6, o.a.toNat), (6, o.b.toNat), (4, x.pred.toNat), (1, bitOf x.neg), (1, 0),
    (32, o.imm.toNat)]

/-- Operands of a 64-bit BX word (R101). -/
def BX.ofWord (w : Nat) : BX :=
  { d := fld w 8 6, a := fld w 14 6, b := fld w 20 6, aux := fld w 32 6, anchor := fld w 38 6, page := fld w 44 20 }

/-- The 64-bit BX layout of R101. -/
def BX.word (o : BX) (x : Mod) (op : Nat) : Nat :=
  pack [(2, 1), (6, op), (6, o.d.toNat), (6, o.a.toNat), (6, o.b.toNat), (4, x.pred.toNat), (1, bitOf x.neg), (1, 0),
    (6, o.aux.toNat), (6, o.anchor.toNat), (20, o.page.toNat)]

/-- Operands of a VV word (R98). -/
def VV.ofWord (w : Nat) : VV :=
  { d := fld w 8 10, a := fld w 18 10, b := fld w 28 10, c := fld w 38 10, k := fld w 48 3, sub := fld w 56 4,
    dfile := fld w 60 4 }

/-- The VV layout of R98. -/
def VV.word (o : VV) (x : Mod) (op : Nat) : Nat :=
  pack [(2, 1), (6, op), (10, o.d.toNat), (10, o.a.toNat), (10, o.b.toNat), (10, o.c.toNat), (3, o.k.toNat),
    (4, x.pred.toNat), (1, bitOf x.neg), (4, o.sub.toNat), (4, o.dfile.toNat)]

/-- Operands of a MEM word (R100). -/
def MEM.ofWord (w : Nat) : MEM :=
  { t := fld w 8 10, cl := bit w 18, a := fld w 19 6, b := fld w 25 6, k := fld w 36 3, h := fld w 39 5,
    mod := fld w 44 8, imm := fld w 52 12 }

/-- The MEM layout of R100. -/
def MEM.word (o : MEM) (x : Mod) (op : Nat) : Nat :=
  pack [(2, 1), (6, op), (10, o.t.toNat), (1, bitOf o.cl), (6, o.a.toNat), (6, o.b.toNat), (4, x.pred.toNat),
    (1, bitOf x.neg), (3, o.k.toNat), (5, o.h.toNat), (8, o.mod.toNat), (12, o.imm.toNat)]

/-- Operands of an MXW word (R102). -/
def MXW.ofWord (w : Nat) : MXW :=
  { t := fld w 8 2, a := fld w 10 6, fa := bit w 16, b := fld w 17 6, bs := fld w 23 2, cellop := fld w 25 8,
    last := bit w 38, discard := bit w 39, sub := fld w 40 8, imm := fld w 48 16 }

/-- The MXW layout of R102. -/
def MXW.word (o : MXW) (x : Mod) (op : Nat) : Nat :=
  pack [(2, 1), (6, op), (2, o.t.toNat), (6, o.a.toNat), (1, bitOf o.fa), (6, o.b.toNat), (2, o.bs.toNat),
    (8, o.cellop.toNat), (4, x.pred.toNat), (1, bitOf x.neg), (1, bitOf o.last), (1, bitOf o.discard),
    (8, o.sub.toNat), (16, o.imm.toNat)]

/-- Operands of an ENW word (R103). -/
def ENW.ofWord (w : Nat) : ENW :=
  { d := fld w 8 6, a := fld w 14 6, b := fld w 20 6, tag := fld w 32 6, scope := fld w 38 3, acq := bit w 41,
    rel := bit w 42, cmp := bit w 43, sealed := bit w 44, wait := bit w 45, signal := bit w 46, nofill := bit w 47,
    c := fld w 48 6, sub := fld w 54 10 }

/-- The ENW layout of R103. -/
def ENW.word (o : ENW) (x : Mod) (op : Nat) : Nat :=
  pack [(2, 1), (6, op), (6, o.d.toNat), (6, o.a.toNat), (6, o.b.toNat), (4, x.pred.toNat), (1, bitOf x.neg), (1, 0),
    (6, o.tag.toNat), (3, o.scope.toNat), (1, bitOf o.acq), (1, bitOf o.rel), (1, bitOf o.cmp), (1, bitOf o.sealed),
    (1, bitOf o.wait), (1, bitOf o.signal), (1, bitOf o.nofill), (6, o.c.toNat), (10, o.sub.toNat)]

/-- Operands of an LKW word (R104). -/
def LKW.ofWord (w : Nat) : LKW :=
  { d := fld w 8 6, a := fld w 14 6, b := fld w 20 6, port := fld w 32 4, c := fld w 36 6, sub := fld w 48 16 }

/-- The LKW layout of R104. -/
def LKW.word (o : LKW) (x : Mod) (op : Nat) : Nat :=
  pack [(2, 1), (6, op), (6, o.d.toNat), (6, o.a.toNat), (6, o.b.toNat), (4, x.pred.toNat), (1, bitOf x.neg), (1, 0),
    (4, o.port.toNat), (6, o.c.toNat), (6, 0), (16, o.sub.toNat)]

/-- Where the guard's pred field stands in a word of a table (R97 to R104); neg is the bit above it. -/
def predAt (t : Table) : Nat :=
  match t with
  | .vector | .xmove | .transform => 51
  | .scratch | .global | .atomic => 31
  | .matrix => 33
  | .scalar | .mulDiv | .branch | .translate | .engine | .system | .link => 26

/-- The guard and prefix of a word (R97 to R104). -/
def modIn (t : Table) (pfx : Option Pfx) (w : Nat) : Mod :=
  { pfx := pfx, neg := bit w (predAt t + 4), pred := fld w (predAt t) 4 }

/-- The reserved bits of a word's class are zero: bit 31 of the SR layout, [47:42] of an LKW word (R97, R104). -/
def reservedZero (t : Table) (w : Nat) : Bool :=
  match t with
  | .vector | .xmove | .transform | .scratch | .global | .atomic | .matrix => true
  | .link => !bit w 31 && bits w 42 6 == 0
  | .scalar | .mulDiv | .branch | .translate | .engine | .system => !bit w 31

/-! ### The opcode map -/

/-- The opcode table of R106: what an opcode names, for a word of the length it has. -/
def readSc (long : Bool) (op : Nat) (x : Mod) (w : Nat) : Option Instr :=
  match long, op with
  | false, 0 => some (.add x (SR.ofWord w))
  | false, 1 => some (.sub x (SR.ofWord w))
  | false, 2 => some (.and x (SR.ofWord w))
  | false, 3 => some (.or x (SR.ofWord w))
  | false, 4 => some (.xor x (SR.ofWord w))
  | false, 5 => some (.andn x (SR.ofWord w))
  | false, 6 => some (.orn x (SR.ofWord w))
  | false, 7 => some (.sel x (SR.ofWord w))
  | false, 8 => some (.shl x (SR.ofWord w))
  | false, 9 => some (.shr x (SR.ofWord w))
  | false, 10 => some (.sar x (SR.ofWord w))
  | false, 11 => some (.rol x (SR.ofWord w))
  | false, 12 => some (.min x (SR.ofWord w))
  | false, 13 => some (.max x (SR.ofWord w))
  | false, 14 => some (.minu x (SR.ofWord w))
  | false, 15 => some (.maxu x (SR.ofWord w))
  | false, 16 => some (.absd x (SR.ofWord w))
  | false, 17 => some (.clz x (SR.ofWord w))
  | false, 18 => some (.ctz x (SR.ofWord w))
  | false, 19 => some (.popc x (SR.ofWord w))
  | false, 20 => some (.sext x (SR.ofWord w))
  | false, 21 => some (.zext x (SR.ofWord w))
  | true, 24 => some (.addi x (SI.ofWord w))
  | true, 25 => some (.movi x (SI.ofWord w))
  | true, 26 => some (.movh x (SI.ofWord w))
  | true, 27 => some (.fshl x (SI.ofWord w))
  | true, 28 => some (.fshr x (SI.ofWord w))
  | true, 29 => some (.shadd x (SI.ofWord w))
  | true, 30 => some (.bext x (SI.ofWord w))
  | true, 31 => some (.bins x (SI.ofWord w))
  | false, 32 => some (.cmpEq x (SR.ofWord w))
  | false, 33 => some (.cmpNe x (SR.ofWord w))
  | false, 34 => some (.cmpLt x (SR.ofWord w))
  | false, 35 => some (.cmpLtu x (SR.ofWord w))
  | false, 36 => some (.cmpLe x (SR.ofWord w))
  | false, 37 => some (.cmpLeu x (SR.ofWord w))
  | false, 38 => some (.cmpGt x (SR.ofWord w))
  | false, 39 => some (.cmpGtu x (SR.ofWord w))
  | false, 40 => some (.cmpGe x (SR.ofWord w))
  | false, 41 => some (.cmpGeu x (SR.ofWord w))
  | true, 48 => some (.cmpiEq x (SI.ofWord w))
  | true, 49 => some (.cmpiNe x (SI.ofWord w))
  | true, 50 => some (.cmpiLt x (SI.ofWord w))
  | true, 51 => some (.cmpiLtu x (SI.ofWord w))
  | true, 52 => some (.cmpiLe x (SI.ofWord w))
  | true, 53 => some (.cmpiLeu x (SI.ofWord w))
  | true, 54 => some (.cmpiGt x (SI.ofWord w))
  | true, 55 => some (.cmpiGtu x (SI.ofWord w))
  | true, 56 => some (.cmpiGe x (SI.ofWord w))
  | true, 57 => some (.cmpiGeu x (SI.ofWord w))
  | _, _ => none

/-- The opcode table of R107: what an opcode names, for a word of the length it has. -/
def readMd (long : Bool) (op : Nat) (x : Mod) (w : Nat) : Option Instr :=
  match long, op with
  | false, 0 => some (.mul x (SR.ofWord w))
  | false, 1 => some (.mulh x (SR.ofWord w))
  | false, 2 => some (.mulhu x (SR.ofWord w))
  | false, 3 => some (.div x (SR.ofWord w))
  | false, 4 => some (.divu x (SR.ofWord w))
  | false, 5 => some (.rem x (SR.ofWord w))
  | false, 6 => some (.remu x (SR.ofWord w))
  | _, _ => none

/-- The opcode table of R108: what an opcode names, for a word of the length it has. -/
def readBr (long : Bool) (op : Nat) (x : Mod) (w : Nat) : Option Instr :=
  match long, op with
  | true, 0 => some (.br x (BX.ofWord w))
  | true, 1 => some (.brc x (BX.ofWord w))
  | false, 2 => some (.jmp x (SR.ofWord w))
  | true, 3 => some (.call x (BX.ofWord w))
  | false, 4 => some (.callr x (SR.ofWord w))
  | false, 5 => some (.ret x (SR.ofWord w))
  | true, 6 => some (.loop x (BX.ofWord w))
  | false, 7 => some (.loopr x (SR.ofWord w))
  | false, 8 => some (.lexit x (SR.ofWord w))
  | true, 9 => some (if (BX.ofWord w).page == 0x80000 then .pbtReg x (BX.ofWord w) else .pbt x (BX.ofWord w))
  | false, 10 => some (.bt x (SR.ofWord w))
  | false, 11 => some (.pand x (SR.ofWord w))
  | false, 12 => some (.por x (SR.ofWord w))
  | false, 13 => some (.pxor x (SR.ofWord w))
  | false, 14 => some (.pnot x (SR.ofWord w))
  | false, 15 => some (.pmov x (SR.ofWord w))
  | _, _ => none

/-- The opcode table of R109: what an opcode names, for a word of the length it has. -/
def readVe (long : Bool) (op : Nat) (x : Mod) (w : Nat) : Option Instr :=
  match long, op with
  | true, 0 => some (.vadd x (VV.ofWord w))
  | true, 1 => some (.vsub x (VV.ofWord w))
  | true, 2 => some (.vmul x (VV.ofWord w))
  | true, 3 => some (.vmulh x (VV.ofWord w))
  | true, 4 => some (.vmin x (VV.ofWord w))
  | true, 5 => some (.vmax x (VV.ofWord w))
  | true, 6 => some (.vminu x (VV.ofWord w))
  | true, 7 => some (.vmaxu x (VV.ofWord w))
  | true, 8 => some (.vabs x (VV.ofWord w))
  | true, 9 => some (.vand x (VV.ofWord w))
  | true, 10 => some (.vor x (VV.ofWord w))
  | true, 11 => some (.vxor x (VV.ofWord w))
  | true, 12 => some (.vshl x (VV.ofWord w))
  | true, 13 => some (.vshr x (VV.ofWord w))
  | true, 14 => some (.vsar x (VV.ofWord w))
  | true, 15 => some (.vfshl x (VV.ofWord w))
  | true, 16 => some (.vfshr x (VV.ofWord w))
  | true, 17 => some (.vclz x (VV.ofWord w))
  | true, 18 => some (.vpopc x (VV.ofWord w))
  | true, 19 => some (.vcmp x (VV.ofWord w))
  | true, 20 => some (.vsel x (VV.ofWord w))
  | true, 21 => some (.vgmaxu x (VV.ofWord w))
  | true, 24 => some (.fadd x (VV.ofWord w))
  | true, 25 => some (.fsub x (VV.ofWord w))
  | true, 26 => some (.fmul x (VV.ofWord w))
  | true, 27 => some (.fma x (VV.ofWord w))
  | true, 28 => some (.fms x (VV.ofWord w))
  | true, 29 => some (.fnma x (VV.ofWord w))
  | true, 30 => some (.fmin x (VV.ofWord w))
  | true, 31 => some (.fmax x (VV.ofWord w))
  | true, 32 => some (.fabs x (VV.ofWord w))
  | true, 33 => some (.fneg x (VV.ofWord w))
  | true, 34 => some (.fcmp x (VV.ofWord w))
  | true, 35 => some (.fdiv x (VV.ofWord w))
  | true, 36 => some (.fsqrt x (VV.ofWord w))
  | true, 37 => some (.frcp x (VV.ofWord w))
  | true, 38 => some (.frsq x (VV.ofWord w))
  | true, 40 => some (.cvtif x (VV.ofWord w))
  | true, 41 => some (.cvtfi x (VV.ofWord w))
  | true, 42 => some (.cvtfb x (VV.ofWord w))
  | true, 43 => some (.cvtbf x (VV.ofWord w))
  | true, 44 => some (.vredadd x (VV.ofWord w))
  | true, 45 => some (.vredmax x (VV.ofWord w))
  | true, 46 => some (.vredmaxu x (VV.ofWord w))
  | true, 47 => some (.vredmin x (VV.ofWord w))
  | true, 48 => some (.fredadd x (VV.ofWord w))
  | true, 49 => some (.fredmax x (VV.ofWord w))
  | true, 50 => some (if (VV.ofWord w).sub == 1 then .vbcstLane x (VV.ofWord w) else .vbcstG x (VV.ofWord w))
  | true, 51 => some (if (VV.ofWord w).sub == 1 then .vrotImm x (VV.ofWord w) else .vrotG x (VV.ofWord w))
  | true, 52 => some (.vperm x (VV.ofWord w))
  | true, 53 => some (.vcmpr x (VV.ofWord w))
  | true, 54 => some (.viota x (VV.ofWord w))
  | true, 55 => some (.vmovs x (VV.ofWord w))
  | true, 56 => some (.vins x (VV.ofWord w))
  | true, 57 => some (.kand x (VV.ofWord w))
  | true, 58 => some (.kor x (VV.ofWord w))
  | true, 59 => some (.knot x (VV.ofWord w))
  | true, 60 => some (.kpopc x (VV.ofWord w))
  | _, _ => none

/-- The opcode table of R110: what an opcode names, for a word of the length it has. -/
def readXm (long : Bool) (op : Nat) (x : Mod) (w : Nat) : Option Instr :=
  match long, op with
  | true, 0 => some (.mvx x (VV.ofWord w))
  | true, 1 => some (.mvxm x (VV.ofWord w))
  | true, 2 => some (.mvgr x (VV.ofWord w))
  | true, 3 => some (if (VV.ofWord w).sub == 8 then .mvkGk x (VV.ofWord w) else if (VV.ofWord w).sub == 12 then .mvkKg x (VV.ofWord w)
      else if (VV.ofWord w).sub.extractLsb' 2 2 == 1 then .mvkMk x (VV.ofWord w) else .mvkKm x (VV.ofWord w))
  | _, _ => none

/-- The opcode table of R111: what an opcode names, for a word of the length it has. -/
def readLs (long : Bool) (op : Nat) (x : Mod) (w : Nat) : Option Instr :=
  match long, op with
  | true, 0 => some (.lds x (MEM.ofWord w))
  | true, 1 => some (.sts x (MEM.ofWord w))
  | true, 2 => some (.ldsv x (MEM.ofWord w))
  | true, 3 => some (.stsv x (MEM.ofWord w))
  | true, 4 => some (.ldsvu x (MEM.ofWord w))
  | true, 5 => some (.stsvm x (MEM.ofWord w))
  | true, 6 => some (.ldsx x (MEM.ofWord w))
  | true, 7 => some (.stsx x (MEM.ofWord w))
  | true, 8 => some (.ldsm x (MEM.ofWord w))
  | true, 9 => some (.stsm x (MEM.ofWord w))
  | _, _ => none

/-- The opcode table of R112: what an opcode names, for a word of the length it has. -/
def readLg (long : Bool) (op : Nat) (x : Mod) (w : Nat) : Option Instr :=
  match long, op with
  | true, 0 => some (.ldg x (MEM.ofWord w))
  | true, 1 => some (.stg x (MEM.ofWord w))
  | true, 2 => some (.ldgv x (MEM.ofWord w))
  | true, 3 => some (.stgv x (MEM.ofWord w))
  | true, 4 => some (.stgvm x (MEM.ofWord w))
  | true, 5 => some (.pfg x (MEM.ofWord w))
  | true, 6 => some (.flg x (MEM.ofWord w))
  | _, _ => none

/-- The opcode table of R113: what an opcode names, for a word of the length it has. -/
def readLa (long : Bool) (op : Nat) (x : Mod) (w : Nat) : Option Instr :=
  match long, op with
  | true, 0 => some (.aadd x (MEM.ofWord w))
  | true, 1 => some (.afadd x (MEM.ofWord w))
  | true, 2 => some (.amin x (MEM.ofWord w))
  | true, 3 => some (.amax x (MEM.ofWord w))
  | true, 4 => some (.aminu x (MEM.ofWord w))
  | true, 5 => some (.amaxu x (MEM.ofWord w))
  | true, 6 => some (.aand x (MEM.ofWord w))
  | true, 7 => some (.aor x (MEM.ofWord w))
  | true, 8 => some (.axor x (MEM.ofWord w))
  | true, 9 => some (.axchg x (MEM.ofWord w))
  | true, 10 => some (.acas x (MEM.ofWord w))
  | true, 11 => some (.aradd x (MEM.ofWord w))
  | _, _ => none

/-- The opcode table of R114: what an opcode names, for a word of the length it has. -/
def readXl (long : Bool) (op : Nat) (x : Mod) (w : Nat) : Option Instr :=
  match long, op with
  | false, 0 => some (.xlt x (SR.ofWord w))
  | true, 1 => some (.xltp x (SI.ofWord w))
  | false, 2 => some (.xrel x (SR.ofWord w))
  | false, 3 => some (.xinv x (SR.ofWord w))
  | _, _ => none

/-- The opcode table of R115: what an opcode names, for a word of the length it has. -/
def readTf (long : Bool) (op : Nat) (x : Mod) (w : Nat) : Option Instr :=
  match long, op with
  | true, 0 => some (.xpose x (VV.ofWord w))
  | true, 1 => some (.xcvt x (VV.ofWord w))
  | true, 2 => some (.xexp x (VV.ofWord w))
  | true, 3 => some (.xpack x (VV.ofWord w))
  | true, 4 => some (.xdec x (VV.ofWord w))
  | true, 5 => some (.xdcfg x (VV.ofWord w))
  | true, 6 => some (.xwiden x (VV.ofWord w))
  | _, _ => none

/-- The opcode table of R116: what an opcode names, for a word of the length it has. -/
def readMx (long : Bool) (op : Nat) (x : Mod) (w : Nat) : Option Instr :=
  match long, op with
  | true, 0 => some (.tcfg x (MXW.ofWord w))
  | true, 1 => some (.tzero x (MXW.ofWord w))
  | true, 2 => some (.tfet x (MXW.ofWord w))
  | true, 3 => some (.trel x (MXW.ofWord w))
  | true, 4 => some (.mma x (MXW.ofWord w))
  | true, 5 => some (.mmas x (MXW.ofWord w))
  | true, 6 => some (.mmac x (MXW.ofWord w))
  | true, 7 => some (.tld x (MXW.ofWord w))
  | true, 8 => some (.tst x (MXW.ofWord w))
  | true, 9 => some (.trowv x (MXW.ofWord w))
  | true, 10 => some (.tvrow x (MXW.ofWord w))
  | true, 11 => some (.agen x (MXW.ofWord w))
  | true, 12 => some (.aproj x (MXW.ofWord w))
  | true, 13 => some (.aseek x (MXW.ofWord w))
  | true, 14 => some (.tswap x (MXW.ofWord w))
  | _, _ => none

/-- The opcode table of R117: what an opcode names, for a word of the length it has. -/
def readEn (long : Bool) (op : Nat) (x : Mod) (w : Nat) : Option Instr :=
  match long, op with
  | true, 0 => some (.cpy x (ENW.ofWord w))
  | true, 1 => some (.cpyt x (ENW.ofWord w))
  | true, 2 => some (.cfill x (ENW.ofWord w))
  | true, 3 => some (.ctwany x (ENW.ofWord w))
  | true, 4 => some (.ctwall x (ENW.ofWord w))
  | true, 5 => some (.ctffr x (ENW.ofWord w))
  | true, 6 => some (.ctclr x (ENW.ofWord w))
  | true, 7 => some (.semsig x (ENW.ofWord w))
  | true, 8 => some (.semwait x (ENW.ofWord w))
  | true, 9 => some (.semrd x (ENW.ofWord w))
  | true, 10 => some (.semset x (ENW.ofWord w))
  | true, 11 => some (.screate x (ENW.ofWord w))
  | true, 12 => some (.satt x (ENW.ofWord w))
  | true, 13 => some (.sdet x (ENW.ofWord w))
  | true, 14 => some (.sfreeze x (ENW.ofWord w))
  | true, 15 => some (.sdrop x (ENW.ofWord w))
  | true, 16 => some (.squery x (ENW.ofWord w))
  | true, 17 => some (.phase x (ENW.ofWord w))
  | true, 18 => some (.efence x (ENW.ofWord w))
  | _, _ => none

/-- The opcode table of R118: what an opcode names, for a word of the length it has. -/
def readSy (long : Bool) (op : Nat) (x : Mod) (w : Nat) : Option Instr :=
  match long, op with
  | true, 0 => some (.csrr x (SI.ofWord w))
  | true, 1 => some (.csrw x (SI.ofWord w))
  | true, 2 => some (.csrs x (SI.ofWord w))
  | true, 3 => some (.csrc x (SI.ofWord w))
  | true, 4 => some (.trap x (SI.ofWord w))
  | false, 5 => some (.rfe x (SR.ofWord w))
  | false, 6 => some (.idle x (SR.ofWord w))
  | true, 7 => some (.wpset x (SI.ofWord w))
  | true, 8 => some (.wpclr x (SI.ofWord w))
  | true, 9 => some (if (SI.ofWord w).imm.extractLsb' 8 4 == 1 then .logctlFlush x (SI.ofWord w)
      else if (SI.ofWord w).imm.extractLsb' 8 4 == 2 then .logctlMark x (SI.ofWord w)
      else if (SI.ofWord w).imm.extractLsb' 8 4 == 3 then .logctlDrift x (SI.ofWord w) else .logctlHw x (SI.ofWord w))
  | false, 10 => some (.halt x (SR.ofWord w))
  | false, 11 => some (.dstop x (SR.ofWord w))
  | false, 12 => some (.sstart x (SR.ofWord w))
  | _, _ => none

/-- The opcode table of R119: what an opcode names, for a word of the length it has. -/
def readLk (long : Bool) (op : Nat) (x : Mod) (w : Nat) : Option Instr :=
  match long, op with
  | true, 0 => some (.lsend x (LKW.ofWord w))
  | true, 1 => some (.lrecv x (LKW.ofWord w))
  | true, 2 => some (.lwait x (LKW.ofWord w))
  | true, 3 => some (.lclk x (LKW.ofWord w))
  | _, _ => none

/-- The instruction that a word's opcode names in a table, with the operands of its class (R106 to R119). -/
def readWord (t : Table) (long : Bool) (x : Mod) (w : Nat) : Option Instr :=
  let op := bits w 2 6
  match t with
  | .scalar => readSc long op x w
  | .mulDiv => readMd long op x w
  | .branch => readBr long op x w
  | .vector => readVe long op x w
  | .xmove => readXm long op x w
  | .scratch => readLs long op x w
  | .global => readLg long op x w
  | .atomic => readLa long op x w
  | .translate => readXl long op x w
  | .transform => readTf long op x w
  | .matrix => readMx long op x w
  | .engine => readEn long op x w
  | .system => readSy long op x w
  | .link => readLk long op x w

/-- The prefix fields of R91. -/
def Pfx.ofUnit (u : Nat) : Pfx := { ext := fld u 8 16, nfl := bit u 6, sat := bit u 5, rnd := fld u 2 3 }

/-- A prefix unit (R91). -/
def Pfx.unit (p : Pfx) : Nat :=
  pack [(2, 2), (3, p.rnd.toNat), (1, bitOf p.sat), (1, bitOf p.nfl), (1, 0), (16, p.ext.toNat), (8, 0)]

/-- The reserved bits of a prefix unit are zero (R91). -/
def prefixReservedZero (u : Nat) : Bool := !bit u 7 && bits u 24 8 == 0

/-- The features an instruction belongs to, as bits of `fen` (R13): SPARSE 0, ACCORD 1, LINK 2, SEAL 3, HPK 4. -/
def featuresOf (i : Instr) : Nat :=
  match i with
  | .mmas _ _ => 1
  | .mmac _ _ | .agen _ _ | .aproj _ _ | .aseek _ _ => 2
  | .lsend _ _ | .lrecv _ _ | .lwait _ _ | .lclk _ _ => 4
  | .xdcfg _ _ | .xdec _ _ => 16
  | .cpy _ o | .cpyt _ o | .cfill _ o => (if o.sealed then 8 else 0) + (if o.cmp then 16 else 0)
  | _ => 0

/-- STOCH (R13): the prefix asks for stochastic rounding (R92). -/
def asksStochastic (i : Instr) : Bool :=
  match modOf i with
  | some { pfx := some p, .. } => p.rnd == 6
  | _ => false

/-- Every feature bit of `n` is set in `fen`. -/
def enabled (fen n : Nat) : Bool := n &&& fen == n

/-- The instruction of a word in a slot, with the unit of its prefix if one stands in front; `fen` holds the enabled
features. The order of the refusals is that of R93. -/
def decodeWord (s : Slot) (fen : Nat) (pre : Option Nat) (long : Bool) (w : Nat) : Except Reject Instr :=
  let t := tableOf s
  match readWord t long (modIn t (pre.map Pfx.ofUnit) w) w with
  | none => .error .unassigned
  | some i =>
    if !enabled fen (featuresOf i) then .error .feature
    else if !reservedZero t w || !fieldsOk i then .error .reserved
    else if !(match pre with | none => true | some u => prefixReservedZero u) || !prefixOk i then .error .prefixField
    else if asksStochastic i && !enabled fen 32 then .error .feature
    else .ok i

/-! ### Bundles -/

/-- One instruction of a bundle: its slot, the byte offset of its word in the page, and itself. -/
structure SlotWord where
  slot  : Nat
  off   : Nat
  instr : Instr
  deriving DecidableEq, Repr

/-- A parsed bundle (R89, R90): its length in bytes, its flags, its marker and its instructions in slot order. -/
structure Bundle where
  size   : Nat
  anchor : Bool
  drain  : Bool
  marker : Option Nat
  words  : List SlotWord
  deriving DecidableEq, Repr

/-- A refused bundle: the reason, the offset of the unit that `tval` names (R93), and the slot whose word raised it, or 31. -/
structure Refused where
  reason : Reject
  off    : Nat
  slot   : Nat
  deriving DecidableEq, Repr

/-- The page kinds and streams that decide which slots a bundle may use (R96). -/
structure SlotRules where
  gelxis    : Bool
  secondary : Bool
  fen       : Nat
  deriving DecidableEq, Repr

/-- Whether the page's tag, and then the stream, allow a slot (R96). -/
def slotRefused (r : SlotRules) (s : Slot) : Option Reject :=
  match s with
  | .vb | .xm | .tf | .lk => if r.gelxis then (if r.secondary then some .slotOfStream else none) else some .slotOfTag
  | .va | .mx => if r.secondary then some .slotOfStream else none
  | _ => none

/-- The instruction words of a bundle, slot by slot from `n` upward: `fuel` slots are left, `pos` is the offset of the next
unit and `last` the end of the count (R93). DESIGN CHOICE (log entry 51): a fault where no instruction word stands, behind the count or at a prefix or
a header in a word's place, names the slot of the mask that the word would have had. -/
def parseSlots (r : SlotRules) (unit : Nat → Nat) (mask last : Nat) :
    Nat → Nat → Nat → Except Refused (Nat × List SlotWord)
  | 0, _, pos => .ok (pos, [])
  | fuel + 1, n, pos =>
    if !bit mask n then parseSlots r unit mask last fuel (n + 1) pos
    else if pos == last then .error ⟨.count, pos, n⟩
    else
      let hasPre := bits (unit pos) 0 2 == 2
      let wpos := if hasPre then pos + 4 else pos
      if hasPre && wpos == last then .error ⟨.orphanPrefix, pos, n⟩
      else if hasPre && bits (unit wpos) 0 2 == 2 then .error ⟨.twoPrefixes, wpos, n⟩
      else if bits (unit wpos) 0 2 == 3 then .error ⟨.strayHeader, wpos, n⟩
      else
        let long := bits (unit wpos) 0 2 == 1
        let len := if long then 8 else 4
        if wpos + len > last then .error ⟨.count, wpos, n⟩
        else
          let w := unit wpos + (if long then 2 ^ 32 * unit (wpos + 4) else 0)
          match decodeWord (slotOfNat n) r.fen (if hasPre then some (unit pos) else none) long w with
          | .error e => .error ⟨e, wpos, n⟩
          | .ok i =>
            match slotRefused r (slotOfNat n) with
            | some e => .error ⟨e, wpos, n⟩
            | none =>
              match parseSlots r unit mask last fuel (n + 1) (wpos + len) with
              | .error e => .error e
              | .ok (p, ws) => .ok (p, ⟨n, wpos, i⟩ :: ws)

/-- The parse of the bundle at byte offset `b`, the units of whose page `unit` gives by offset (R93). -/
def parseBundle (r : SlotRules) (unit : Nat → Nat) (b : Nat) : Except Refused Bundle :=
  let h := unit b
  if bits h 0 2 != 3 || bits h 27 5 != 0 then .error ⟨.header, b, 31⟩
  else
    let last := b + 4 + 4 * bits h 5 6
    if bit h 3 && (b + 4 == last || bits (unit (b + 4)) 0 2 != 0) then .error ⟨.marker, b + 4, 31⟩
    else
      let pos := if bit h 3 then b + 8 else b + 4
      match parseSlots r unit (bits h 11 16) last 16 0 pos with
      | .error e => .error e
      | .ok (p, ws) =>
        if p != last then
          if bits (unit p) 0 2 == 2 && p + 4 == last then .error ⟨.orphanPrefix, p, 31⟩ else .error ⟨.leftOver, p, 31⟩
        else
          .ok { size := last - b, anchor := bit h 4, drain := bit h 2,
                marker := if bit h 3 then some (bits (unit (b + 4)) 2 30) else none, words := ws }

/-! ### The words of an instruction -/

/-- The opcode table, length and bits of an instruction's word, written from the encoding tables (R97 to R119). Device steps and the
empty bundle have no word. -/
def wordOf (i : Instr) : Option (Table × Bool × Nat) :=
  match i with
  | .nop => none
  | .add x o => some (.scalar, false, o.word x 0)
  | .sub x o => some (.scalar, false, o.word x 1)
  | .and x o => some (.scalar, false, o.word x 2)
  | .or x o => some (.scalar, false, o.word x 3)
  | .xor x o => some (.scalar, false, o.word x 4)
  | .andn x o => some (.scalar, false, o.word x 5)
  | .orn x o => some (.scalar, false, o.word x 6)
  | .sel x o => some (.scalar, false, o.word x 7)
  | .shl x o => some (.scalar, false, o.word x 8)
  | .shr x o => some (.scalar, false, o.word x 9)
  | .sar x o => some (.scalar, false, o.word x 10)
  | .rol x o => some (.scalar, false, o.word x 11)
  | .min x o => some (.scalar, false, o.word x 12)
  | .max x o => some (.scalar, false, o.word x 13)
  | .minu x o => some (.scalar, false, o.word x 14)
  | .maxu x o => some (.scalar, false, o.word x 15)
  | .absd x o => some (.scalar, false, o.word x 16)
  | .clz x o => some (.scalar, false, o.word x 17)
  | .ctz x o => some (.scalar, false, o.word x 18)
  | .popc x o => some (.scalar, false, o.word x 19)
  | .sext x o => some (.scalar, false, o.word x 20)
  | .zext x o => some (.scalar, false, o.word x 21)
  | .addi x o => some (.scalar, true, o.word x 24)
  | .movi x o => some (.scalar, true, o.word x 25)
  | .movh x o => some (.scalar, true, o.word x 26)
  | .fshl x o => some (.scalar, true, o.word x 27)
  | .fshr x o => some (.scalar, true, o.word x 28)
  | .shadd x o => some (.scalar, true, o.word x 29)
  | .bext x o => some (.scalar, true, o.word x 30)
  | .bins x o => some (.scalar, true, o.word x 31)
  | .cmpEq x o => some (.scalar, false, o.word x 32)
  | .cmpNe x o => some (.scalar, false, o.word x 33)
  | .cmpLt x o => some (.scalar, false, o.word x 34)
  | .cmpLtu x o => some (.scalar, false, o.word x 35)
  | .cmpLe x o => some (.scalar, false, o.word x 36)
  | .cmpLeu x o => some (.scalar, false, o.word x 37)
  | .cmpGt x o => some (.scalar, false, o.word x 38)
  | .cmpGtu x o => some (.scalar, false, o.word x 39)
  | .cmpGe x o => some (.scalar, false, o.word x 40)
  | .cmpGeu x o => some (.scalar, false, o.word x 41)
  | .cmpiEq x o => some (.scalar, true, o.word x 48)
  | .cmpiNe x o => some (.scalar, true, o.word x 49)
  | .cmpiLt x o => some (.scalar, true, o.word x 50)
  | .cmpiLtu x o => some (.scalar, true, o.word x 51)
  | .cmpiLe x o => some (.scalar, true, o.word x 52)
  | .cmpiLeu x o => some (.scalar, true, o.word x 53)
  | .cmpiGt x o => some (.scalar, true, o.word x 54)
  | .cmpiGtu x o => some (.scalar, true, o.word x 55)
  | .cmpiGe x o => some (.scalar, true, o.word x 56)
  | .cmpiGeu x o => some (.scalar, true, o.word x 57)
  | .mul x o => some (.mulDiv, false, o.word x 0)
  | .mulh x o => some (.mulDiv, false, o.word x 1)
  | .mulhu x o => some (.mulDiv, false, o.word x 2)
  | .div x o => some (.mulDiv, false, o.word x 3)
  | .divu x o => some (.mulDiv, false, o.word x 4)
  | .rem x o => some (.mulDiv, false, o.word x 5)
  | .remu x o => some (.mulDiv, false, o.word x 6)
  | .br x o => some (.branch, true, o.word x 0)
  | .brc x o => some (.branch, true, o.word x 1)
  | .jmp x o => some (.branch, false, o.word x 2)
  | .call x o => some (.branch, true, o.word x 3)
  | .callr x o => some (.branch, false, o.word x 4)
  | .ret x o => some (.branch, false, o.word x 5)
  | .loop x o => some (.branch, true, o.word x 6)
  | .loopr x o => some (.branch, false, o.word x 7)
  | .lexit x o => some (.branch, false, o.word x 8)
  | .pbt x o => some (.branch, true, o.word x 9)
  | .pbtReg x o => some (.branch, true, o.word x 9)
  | .bt x o => some (.branch, false, o.word x 10)
  | .pand x o => some (.branch, false, o.word x 11)
  | .por x o => some (.branch, false, o.word x 12)
  | .pxor x o => some (.branch, false, o.word x 13)
  | .pnot x o => some (.branch, false, o.word x 14)
  | .pmov x o => some (.branch, false, o.word x 15)
  | .vadd x o => some (.vector, true, o.word x 0)
  | .vsub x o => some (.vector, true, o.word x 1)
  | .vmul x o => some (.vector, true, o.word x 2)
  | .vmulh x o => some (.vector, true, o.word x 3)
  | .vmin x o => some (.vector, true, o.word x 4)
  | .vmax x o => some (.vector, true, o.word x 5)
  | .vminu x o => some (.vector, true, o.word x 6)
  | .vmaxu x o => some (.vector, true, o.word x 7)
  | .vabs x o => some (.vector, true, o.word x 8)
  | .vand x o => some (.vector, true, o.word x 9)
  | .vor x o => some (.vector, true, o.word x 10)
  | .vxor x o => some (.vector, true, o.word x 11)
  | .vshl x o => some (.vector, true, o.word x 12)
  | .vshr x o => some (.vector, true, o.word x 13)
  | .vsar x o => some (.vector, true, o.word x 14)
  | .vfshl x o => some (.vector, true, o.word x 15)
  | .vfshr x o => some (.vector, true, o.word x 16)
  | .vclz x o => some (.vector, true, o.word x 17)
  | .vpopc x o => some (.vector, true, o.word x 18)
  | .vcmp x o => some (.vector, true, o.word x 19)
  | .vsel x o => some (.vector, true, o.word x 20)
  | .vgmaxu x o => some (.vector, true, o.word x 21)
  | .fadd x o => some (.vector, true, o.word x 24)
  | .fsub x o => some (.vector, true, o.word x 25)
  | .fmul x o => some (.vector, true, o.word x 26)
  | .fma x o => some (.vector, true, o.word x 27)
  | .fms x o => some (.vector, true, o.word x 28)
  | .fnma x o => some (.vector, true, o.word x 29)
  | .fmin x o => some (.vector, true, o.word x 30)
  | .fmax x o => some (.vector, true, o.word x 31)
  | .fabs x o => some (.vector, true, o.word x 32)
  | .fneg x o => some (.vector, true, o.word x 33)
  | .fcmp x o => some (.vector, true, o.word x 34)
  | .fdiv x o => some (.vector, true, o.word x 35)
  | .fsqrt x o => some (.vector, true, o.word x 36)
  | .frcp x o => some (.vector, true, o.word x 37)
  | .frsq x o => some (.vector, true, o.word x 38)
  | .cvtif x o => some (.vector, true, o.word x 40)
  | .cvtfi x o => some (.vector, true, o.word x 41)
  | .cvtfb x o => some (.vector, true, o.word x 42)
  | .cvtbf x o => some (.vector, true, o.word x 43)
  | .vredadd x o => some (.vector, true, o.word x 44)
  | .vredmax x o => some (.vector, true, o.word x 45)
  | .vredmaxu x o => some (.vector, true, o.word x 46)
  | .vredmin x o => some (.vector, true, o.word x 47)
  | .fredadd x o => some (.vector, true, o.word x 48)
  | .fredmax x o => some (.vector, true, o.word x 49)
  | .vbcstG x o => some (.vector, true, o.word x 50)
  | .vbcstLane x o => some (.vector, true, o.word x 50)
  | .vrotG x o => some (.vector, true, o.word x 51)
  | .vrotImm x o => some (.vector, true, o.word x 51)
  | .vperm x o => some (.vector, true, o.word x 52)
  | .vcmpr x o => some (.vector, true, o.word x 53)
  | .viota x o => some (.vector, true, o.word x 54)
  | .vmovs x o => some (.vector, true, o.word x 55)
  | .vins x o => some (.vector, true, o.word x 56)
  | .kand x o => some (.vector, true, o.word x 57)
  | .kor x o => some (.vector, true, o.word x 58)
  | .knot x o => some (.vector, true, o.word x 59)
  | .kpopc x o => some (.vector, true, o.word x 60)
  | .mvx x o => some (.xmove, true, o.word x 0)
  | .mvxm x o => some (.xmove, true, o.word x 1)
  | .mvgr x o => some (.xmove, true, o.word x 2)
  | .mvkKm x o => some (.xmove, true, o.word x 3)
  | .mvkMk x o => some (.xmove, true, o.word x 3)
  | .mvkGk x o => some (.xmove, true, o.word x 3)
  | .mvkKg x o => some (.xmove, true, o.word x 3)
  | .lds x o => some (.scratch, true, o.word x 0)
  | .sts x o => some (.scratch, true, o.word x 1)
  | .ldsv x o => some (.scratch, true, o.word x 2)
  | .stsv x o => some (.scratch, true, o.word x 3)
  | .ldsvu x o => some (.scratch, true, o.word x 4)
  | .stsvm x o => some (.scratch, true, o.word x 5)
  | .ldsx x o => some (.scratch, true, o.word x 6)
  | .stsx x o => some (.scratch, true, o.word x 7)
  | .ldsm x o => some (.scratch, true, o.word x 8)
  | .stsm x o => some (.scratch, true, o.word x 9)
  | .ldg x o => some (.global, true, o.word x 0)
  | .stg x o => some (.global, true, o.word x 1)
  | .ldgv x o => some (.global, true, o.word x 2)
  | .stgv x o => some (.global, true, o.word x 3)
  | .stgvm x o => some (.global, true, o.word x 4)
  | .pfg x o => some (.global, true, o.word x 5)
  | .flg x o => some (.global, true, o.word x 6)
  | .aadd x o => some (.atomic, true, o.word x 0)
  | .afadd x o => some (.atomic, true, o.word x 1)
  | .amin x o => some (.atomic, true, o.word x 2)
  | .amax x o => some (.atomic, true, o.word x 3)
  | .aminu x o => some (.atomic, true, o.word x 4)
  | .amaxu x o => some (.atomic, true, o.word x 5)
  | .aand x o => some (.atomic, true, o.word x 6)
  | .aor x o => some (.atomic, true, o.word x 7)
  | .axor x o => some (.atomic, true, o.word x 8)
  | .axchg x o => some (.atomic, true, o.word x 9)
  | .acas x o => some (.atomic, true, o.word x 10)
  | .aradd x o => some (.atomic, true, o.word x 11)
  | .xlt x o => some (.translate, false, o.word x 0)
  | .xltp x o => some (.translate, true, o.word x 1)
  | .xrel x o => some (.translate, false, o.word x 2)
  | .xinv x o => some (.translate, false, o.word x 3)
  | .xpose x o => some (.transform, true, o.word x 0)
  | .xcvt x o => some (.transform, true, o.word x 1)
  | .xexp x o => some (.transform, true, o.word x 2)
  | .xpack x o => some (.transform, true, o.word x 3)
  | .xdec x o => some (.transform, true, o.word x 4)
  | .xdcfg x o => some (.transform, true, o.word x 5)
  | .xwiden x o => some (.transform, true, o.word x 6)
  | .tcfg x o => some (.matrix, true, o.word x 0)
  | .tzero x o => some (.matrix, true, o.word x 1)
  | .tfet x o => some (.matrix, true, o.word x 2)
  | .trel x o => some (.matrix, true, o.word x 3)
  | .mma x o => some (.matrix, true, o.word x 4)
  | .mmas x o => some (.matrix, true, o.word x 5)
  | .mmac x o => some (.matrix, true, o.word x 6)
  | .tld x o => some (.matrix, true, o.word x 7)
  | .tst x o => some (.matrix, true, o.word x 8)
  | .trowv x o => some (.matrix, true, o.word x 9)
  | .tvrow x o => some (.matrix, true, o.word x 10)
  | .agen x o => some (.matrix, true, o.word x 11)
  | .aproj x o => some (.matrix, true, o.word x 12)
  | .aseek x o => some (.matrix, true, o.word x 13)
  | .tswap x o => some (.matrix, true, o.word x 14)
  | .cpy x o => some (.engine, true, o.word x 0)
  | .cpyt x o => some (.engine, true, o.word x 1)
  | .cfill x o => some (.engine, true, o.word x 2)
  | .ctwany x o => some (.engine, true, o.word x 3)
  | .ctwall x o => some (.engine, true, o.word x 4)
  | .ctffr x o => some (.engine, true, o.word x 5)
  | .ctclr x o => some (.engine, true, o.word x 6)
  | .semsig x o => some (.engine, true, o.word x 7)
  | .semwait x o => some (.engine, true, o.word x 8)
  | .semrd x o => some (.engine, true, o.word x 9)
  | .semset x o => some (.engine, true, o.word x 10)
  | .screate x o => some (.engine, true, o.word x 11)
  | .satt x o => some (.engine, true, o.word x 12)
  | .sdet x o => some (.engine, true, o.word x 13)
  | .sfreeze x o => some (.engine, true, o.word x 14)
  | .sdrop x o => some (.engine, true, o.word x 15)
  | .squery x o => some (.engine, true, o.word x 16)
  | .phase x o => some (.engine, true, o.word x 17)
  | .efence x o => some (.engine, true, o.word x 18)
  | .csrr x o => some (.system, true, o.word x 0)
  | .csrw x o => some (.system, true, o.word x 1)
  | .csrs x o => some (.system, true, o.word x 2)
  | .csrc x o => some (.system, true, o.word x 3)
  | .trap x o => some (.system, true, o.word x 4)
  | .rfe x o => some (.system, false, o.word x 5)
  | .idle x o => some (.system, false, o.word x 6)
  | .wpset x o => some (.system, true, o.word x 7)
  | .wpclr x o => some (.system, true, o.word x 8)
  | .logctlHw x o => some (.system, true, o.word x 9)
  | .logctlFlush x o => some (.system, true, o.word x 9)
  | .logctlMark x o => some (.system, true, o.word x 9)
  | .logctlDrift x o => some (.system, true, o.word x 9)
  | .halt x o => some (.system, false, o.word x 10)
  | .dstop x o => some (.system, false, o.word x 11)
  | .sstart x o => some (.system, false, o.word x 12)
  | .lsend x o => some (.link, true, o.word x 0)
  | .lrecv x o => some (.link, true, o.word x 1)
  | .lwait x o => some (.link, true, o.word x 2)
  | .lclk x o => some (.link, true, o.word x 3)
  | .powerOn => none
  | .functionTrained _ _ => none
  | .clockResync _ => none
  | .powerClockStep _ => none
  | .thermalStepDown _ => none
  | .thermalShutdown _ => none
  | .lifetimeCounterFlush => none
  | .readiness _ => none
  | .attest _ _ => none
  | .recordPut _ _ => none
  | .powerLimit _ _ => none
  | .dataWrite _ => none
  | .tailWrite _ => none
  | .qcbFetchDone _ _ => none
  | .qcbFetchTimeout _ => none
  | .dataRead _ => none
  | .chunkPut _ => none
  | .qcbInvalidate _ => none
  | .controlWrite _ => none
  | .controlRead _ => none
  | .give _ => none
  | .take _ => none
  | .map _ => none
  | .unmap _ => none
  | .refuse _ => none
  | .noOperation _ _ => none
  | .launch _ _ => none
  | .launchAdmit _ => none
  | .slotLoad _ _ => none
  | .slotRelease _ _ => none
  | .slotReleaseDone _ => none
  | .slotRestore _ => none
  | .kernelComplete _ => none
  | .firmwareLinkMessage _ _ => none
  | .firmwareLinkError _ => none
  | .iterationAssign _ => none
  | .patienceExpiry _ => none
  | .segmentLoadDone _ _ => none
  | .bundleIssue _ => none
  | .stillRewriteDone _ _ => none
  | .codePageInDone _ _ => none
  | .pageReplace _ _ => none
  | .partitionStopFreeze _ => none
  | .dumpResume _ => none
  | .dumpEndKernel _ => none
  | .secondaryBubble _ => none
  | .variableResultArrival _ _ => none
  | .leafAnswer _ _ => none
  | .impreciseReportArrival _ => none
  | .preemptRequest _ => none
  | .watchdogExpiry _ => none
  | .partitionResume _ => none
  | .machineCheck _ => none
  | .iterationRetire _ _ => none
  | .secondaryEnd _ => none
  | .epochClose _ => none
  | .atomicPerform _ => none
  | .commandStart _ _ => none
  | .commandComplete _ _ => none
  | .remoteSignalArrival _ => none
  | .peerCopyArrival _ _ _ _ _ _ => none
  | .peerSignalArrival _ _ _ _ _ _ => none
  | .linkDeparture _ _ => none
  | .flitArrival _ _ _ _ _ => none
  | .linkReceiveMiss _ _ => none
  | .fmodeWrite _ _ => none
  | .srngWrite _ _ => none
  | .skeyWrite _ _ _ => none
  | .formatWindowWrite _ _ _ => none
  | .logCsrWrite _ _ _ => none
  | .csrWrite _ _ _ => none
  | .lossOfSupply => none

/-- The units of an instruction: its prefix, then its word, low unit first (R88, R91). -/
def encode (i : Instr) : List Nat :=
  match wordOf i with
  | none => []
  | some (_, long, w) =>
    let body := if long then [w % 2 ^ 32, w / 2 ^ 32] else [w]
    match modOf i with
    | some { pfx := some p, .. } => p.unit :: body
    | _ => body

/-- The instruction that the units of one instruction give in a slot (the inverse of `encode`). -/
def decode (s : Slot) (fen : Nat) (us : List Nat) : Except Reject Instr :=
  let (pre, rest) := match us with
    | u :: r => if bits u 0 2 == 2 then (some u, r) else (none, us)
    | [] => (none, [])
  match rest with
  | [w] => if bits w 0 2 == 0 then decodeWord s fen pre false w else .error .unassigned
  | [w, v] => if bits w 0 2 == 1 then decodeWord s fen pre true (w + 2 ^ 32 * v) else .error .unassigned
  | _ => .error .count

/-- The slots in the order of R95. -/
def allSlots : List Slot :=
  [.s0, .s1, .sm, .br, .va, .vb, .xm, .ls, .lg, .la, .xl, .tf, .mx, .en, .sy, .lk]

/-- Every feature of R13 that the Q9 has. -/
def allFeatures : Nat := 63

/-- The lowest-numbered slot whose opcode table accepts a bare word (a word of itself names no slot, R95). -/
def slotTaking (long : Bool) (w : Nat) (ss : List Slot) : Option Slot :=
  match ss with
  | [] => none
  | s :: r => match decodeWord s allFeatures none long w with
    | .ok _ => some s
    | .error _ => slotTaking long w r

/-- The instruction of a bare word numbered as the opcode table numbers it: the empty bundle, or the word in the
lowest-numbered slot whose table accepts it. -/
def decodeTableWord (nbits w : Nat) : Option Instr :=
  let v := w % 2 ^ nbits
  if v == 3 then some .nop
  else
    let long := bits v 0 2 == 1
    match slotTaking long v allSlots with
    | none => none
    | some s => (decodeWord s allFeatures none long v).toOption

end Sys2Proof
end

