-- ==== Sys2Proof/Machine/Event.lean ====
section
/-! DEFINITION. The steps of the device other than the issue of an instruction, as the schedule of the state holds them: each is a row of the
opcode table, and Instr has a constructor for it. They stand here a second time because Lean's compiler can build a value with fields only
for the first 245 constructors of a type. -/
namespace Sys2Proof.Machine

/-- A device step. -/
inductive Event where
  /-- POWER_ON. -/
  | powerOn
  /-- FUNCTION_TRAINED. -/
  | functionTrained (fn : Nat) (ok : Bool)
  /-- CLOCK_RESYNC. -/
  | clockResync (delta : Int)
  /-- POWER_CLOCK_STEP. -/
  | powerClockStep (up : Bool)
  /-- THERMAL_STEP_DOWN. -/
  | thermalStepDown (die : Nat)
  /-- THERMAL_SHUTDOWN. -/
  | thermalShutdown (die : Nat)
  /-- LIFETIME_COUNTER_FLUSH. -/
  | lifetimeCounterFlush
  /-- READINESS. -/
  | readiness (source : Nat)
  /-- ATTEST. -/
  | attest (source : Nat) (nonce : BitVec 256)
  /-- RECORD_PUT. -/
  | recordPut (source : Nat) (record : List (BitVec 8))
  /-- POWER_LIMIT. -/
  | powerLimit (source : Nat) (limit : Nat)
  /-- A management request of an opcode that R394 does not name; it is no row of the opcode table. -/
  | otherManagement (source : Nat)
  /-- DATA_WRITE. -/
  | dataWrite (r : Req)
  /-- TAIL_WRITE. -/
  | tailWrite (r : Req)
  /-- QCB_FETCH_DONE. -/
  | qcbFetchDone (fetch : Nat) (bytes : List (BitVec 8))
  /-- QCB_FETCH_TIMEOUT. -/
  | qcbFetchTimeout (fetch : Nat)
  /-- DATA_READ. -/
  | dataRead (r : Req)
  /-- CHUNK_PUT. -/
  | chunkPut (r : Req)
  /-- QCB_INVALIDATE. -/
  | qcbInvalidate (r : Req)
  /-- CONTROL_WRITE. -/
  | controlWrite (r : Req)
  /-- CONTROL_READ. -/
  | controlRead (r : Req)
  /-- GIVE. -/
  | give (r : Req)
  /-- TAKE. -/
  | take (r : Req)
  /-- MAP. -/
  | map (r : Req)
  /-- UNMAP. -/
  | unmap (r : Req)
  /-- REFUSE. -/
  | refuse (r : Req)
  /-- NO_OPERATION. -/
  | noOperation (pasid queue : Nat)
  /-- LAUNCH. -/
  | launch (pasid queue : Nat)
  /-- LAUNCH_ADMIT. -/
  | launchAdmit (part : Nat)
  /-- SLOT_LOAD. -/
  | slotLoad (pasid queue : Nat)
  /-- SLOT_RELEASE. -/
  | slotRelease (pasid queue : Nat)
  /-- SLOT_RELEASE_DONE. -/
  | slotReleaseDone (slot : Nat)
  /-- SLOT_RESTORE. -/
  | slotRestore (slot : Nat)
  /-- KERNEL_COMPLETE. -/
  | kernelComplete (part : Nat)
  /-- FIRMWARE_LINK_MESSAGE. -/
  | firmwareLinkMessage (leaf : Nat) (down : Bool)
  /-- FIRMWARE_LINK_ERROR. -/
  | firmwareLinkError (leaf : Nat)
  /-- ITERATION_ASSIGN. -/
  | iterationAssign (part : Nat)
  /-- PATIENCE_EXPIRY. -/
  | patienceExpiry (part : Nat)
  /-- SEGMENT_LOAD_DONE. -/
  | segmentLoadDone (core : Nat) (name : Nat)
  /-- BUNDLE_ISSUE. -/
  | bundleIssue (core : Nat)
  /-- STILL_REWRITE_DONE. -/
  | stillRewriteDone (pasid page : Nat)
  /-- CODE_PAGE_IN_DONE. -/
  | codePageInDone (pasid page : Nat)
  /-- PAGE_REPLACE. -/
  | pageReplace (pasid page : Nat)
  /-- PARTITION_STOP_FREEZE. -/
  | partitionStopFreeze (part : Nat)
  /-- DUMP_RESUME. -/
  | dumpResume (part : Nat)
  /-- DUMP_END_KERNEL. -/
  | dumpEndKernel (part : Nat)
  /-- SECONDARY_BUBBLE. -/
  | secondaryBubble (core : Nat)
  /-- VARIABLE_RESULT_ARRIVAL. -/
  | variableResultArrival (core : Nat) (result : Nat)
  /-- LEAF_ANSWER. -/
  | leafAnswer (core : Nat) (bank : Nat)
  /-- IMPRECISE_REPORT_ARRIVAL. -/
  | impreciseReportArrival (id : Nat)
  /-- PREEMPT_REQUEST. -/
  | preemptRequest (part : Nat)
  /-- WATCHDOG_EXPIRY. -/
  | watchdogExpiry (part : Nat)
  /-- PARTITION_RESUME. -/
  | partitionResume (part : Nat)
  /-- MACHINE_CHECK. -/
  | machineCheck (src : CheckSource)
  /-- ITERATION_RETIRE. -/
  | iterationRetire (core : Nat) (bank : Nat)
  /-- SECONDARY_END. -/
  | secondaryEnd (core : Nat)
  /-- EPOCH_CLOSE. -/
  | epochClose (part : Nat)
  /-- ATOMIC_PERFORM. -/
  | atomicPerform (id : Nat)
  /-- COMMAND_START. -/
  | commandStart (core : Nat) (id : Nat)
  /-- COMMAND_COMPLETE. -/
  | commandComplete (core : Nat) (id : Nat)
  /-- REMOTE_SIGNAL_ARRIVAL. -/
  | remoteSignalArrival (id : Nat)
  /-- PEER_COPY_ARRIVAL. -/
  | peerCopyArrival (endpoint sender tag core offset : Nat) (bytes : List (BitVec 8))
  /-- PEER_SIGNAL_ARRIVAL. -/
  | peerSignalArrival (endpoint tag far core sem : Nat) (inc : BitVec 32)
  /-- LINK_DEPARTURE. -/
  | linkDeparture (core : Nat) (id : Nat)
  /-- FLIT_ARRIVAL. -/
  | flitArrival (port ch index count : Nat) (bytes : List (BitVec 8))
  /-- LINK_RECEIVE_MISS. -/
  | linkReceiveMiss (core : Nat) (id : Nat)
  /-- FMODE_WRITE. -/
  | fmodeWrite (ctx : CtxId) (v : BitVec 64)
  /-- SRNG_WRITE. -/
  | srngWrite (ctx : CtxId) (v : BitVec 64)
  /-- SKEY_WRITE. -/
  | skeyWrite (ctx : CtxId) (n : Nat) (v : BitVec 64)
  /-- FORMAT_WINDOW_WRITE. -/
  | formatWindowWrite (ctx : CtxId) (n : Nat) (v : BitVec 64)
  /-- LOG_CSR_WRITE. -/
  | logCsrWrite (ctx : CtxId) (n : Nat) (v : BitVec 64)
  /-- CSR_WRITE. -/
  | csrWrite (ctx : CtxId) (n : Nat) (v : BitVec 64)
  /-- LOSS_OF_SUPPLY. -/
  | lossOfSupply
  deriving DecidableEq, Repr

end Sys2Proof.Machine
end

