-- ==== Sys2Proof/Machine/Store.lean ====
section
/-! DEFINITION. Sparse data held by number: tables in ascending key order, and byte memories in one canonical form
(addresses strictly rising, no entry equal to zero, which is what an unlisted address reads as; log entry 2). -/
namespace Sys2Proof.Machine

/-- A table: entries in strictly rising key order. -/
abbrev Table (α : Type) := List (Nat × α)

/-- The entry of a key, if it is listed. -/
def tget {α : Type} (t : Table α) (k : Nat) : Option α :=
  match t with
  | [] => none
  | (i, v) :: r => if i == k then some v else tget r k

/-- The entry of a key, or `d` when the key is not listed. -/
def tgetD {α : Type} (t : Table α) (k : Nat) (d : α) : α := (tget t k).getD d

/-- The table with the entry of `k` set to `v`. -/
def tset {α : Type} (t : Table α) (k : Nat) (v : α) : Table α :=
  match t with
  | [] => [(k, v)]
  | (i, w) :: r => if i < k then (i, w) :: tset r k v else if i == k then (k, v) :: r else (k, v) :: (i, w) :: r

/-- The table without the entry of `k`. -/
def tdel {α : Type} (t : Table α) (k : Nat) : Table α :=
  match t with
  | [] => []
  | (i, w) :: r => if i == k then r else (i, w) :: tdel r k

/-- The keys of a table are strictly rising and above `lo`. -/
def risingFrom {α : Type} (lo : Nat) (t : Table α) : Bool :=
  match t with
  | [] => true
  | (i, _) :: r => lo ≤ i && risingFrom (i + 1) r

/-- The keys of a table are strictly rising. -/
def rising {α : Type} (t : Table α) : Bool := risingFrom 0 t

/-- Bytes by address. -/
abbrev Memory := List Host.Cell

/-- What an address that a memory does not list reads as: zero (log entry 2). -/
def unlistedByte : Byte := 0

/-- One byte of a memory. -/
def peek (m : Memory) (a : Nat) : Byte := tgetD m a unlistedByte

/-- A memory after one byte is written. Writing zero removes the entry. -/
def poke (m : Memory) (a : Nat) (b : Byte) : Memory := if b = unlistedByte then tdel m a else tset m a b

/-- The canonical form of a memory: strictly rising addresses, no entry equal to the unlisted byte. -/
def Memory.wf (m : Memory) : Bool := rising m && m.all (fun c => c.2 != unlistedByte)

/-- `n` bytes from address `a` upward. -/
def peeks (m : Memory) (a n : Nat) : List Byte := (List.range n).map (fun i => peek m (a + i))

/-- The little-endian number of `n` bytes at `a` (R3). -/
def peekNat (m : Memory) (a n : Nat) : Nat := natOfBytes (peeks m a n)

/-- A memory after a run of bytes is written from address `a` upward. -/
def pokes (m : Memory) (a : Nat) (bs : List Byte) : Memory :=
  match bs with
  | [] => m
  | b :: r => pokes (poke m a b) (a + 1) r

/-- A memory after the `n` low bytes of `v` are written at `a`, lowest first (R3). -/
def pokeNat (m : Memory) (a n v : Nat) : Memory := pokes m a (bytesOf n v)

/-- A list with its entry `i` replaced. -/
def lset {α : Type} (l : List α) (i : Nat) (v : α) : List α := l.set i v

/-- The entries of a list up to length `n`, padded with `d`. -/
def padTo {α : Type} (n : Nat) (d : α) (l : List α) : List α := l.take n ++ List.replicate (n - l.length) d

end Sys2Proof.Machine
end

