-- ==== Sys2Proof/Machine/State.lean ====
section
/-! DEFINITION. The state of the Quinca Q9: the device (mailbox, queues, slots, partitions, segments, translation, global
memory, power), its 96 cores, and the three contexts of each core. Plain data throughout; INVENTORY.md names the rule of every
field. -/
namespace Sys2Proof.Machine

/-! ### Results in flight -/

/-- A matrix operand resolved at issue (R99, R143): file 0 to 3 is ma0 to ma3, 4 to 7 is mb0 to mb3; `base` and `win` are the
rotating base and the window rows in force. -/
structure MOp where
  file : Nat
  dir  : Nat
  idx  : Nat
  base : Nat
  win  : Nat
  deriving DecidableEq, Repr

/-- A place that an instruction reads or writes, for the schedule rules (R131). `el` is one matrix element: its file, and
64 times its physical row plus its column. -/
inductive Loc where
  | g (n : Nat)
  | p (n : Nat)
  | k (n : Nat)
  | h (n : Nat)
  | bt (n : Nat)
  | el (file idx : Nat)
  | tile (n : Nat)
  | fslot (n : Nat)
  deriving DecidableEq, Repr

/-- One landing of a result. -/
inductive Write where
  /-- g register -/
  | g (n : Nat) (v : Word)
  /-- p register -/
  | p (n : Nat) (v : Bool)
  /-- the bits of `mask` of a k register -/
  | k (n : Nat) (mask v : Word)
  /-- h register -/
  | h (n : Nat) (v : Word128)
  /-- bt register -/
  | bt (n : Nat) (v : Word)
  /-- elements of a matrix file -/
  | els (file : Nat) (vs : List (Nat × Unit32))
  /-- sticky flags of a group of `fflags`: 0 A, 1 B, 2 T, 3 M (R247) -/
  | flags (group bits : Nat)
  /-- a CSR (R362) -/
  | csr (n : Nat) (v : Word)
  /-- bytes of the core's scratchpad (R207) -/
  | sp (bs : List (Nat × Byte))
  /-- bytes of an accumulator tile -/
  | tile (t : Nat) (bs : List (Nat × Byte))
  /-- the whole content of an accumulator tile -/
  | tileAll (t : Nat) (bytes : Memory)
  /-- semaphore set (R303) -/
  | semSet (n : Nat) (v : Nat)
  /-- semaphore addition (R303) -/
  | semAdd (n : Nat) (v : Nat)
  /-- bits of `ctb` cleared (R302) -/
  | ctbClear (mask : Word)
  /-- the acquire point of an atomic at a scope (R330) -/
  | acquire (scope : Nat)
  /-- pins of a fetch slot released, if the slot still holds its tile (R266) -/
  | unpin (slot : Nat)
  deriving DecidableEq, Repr

/-- An operand row of the matrix array (R262, R265): its bytes and, for FP4, the scale and the band scale of each block. -/
structure Row where
  bytes  : List Byte
  scales : List Byte
  bands  : List Nat
  deriving DecidableEq, Repr

/-- An array multiply under way (R267, R276): the tile and its shape at issue, the K steps (R270), the sparse count N or 0, the operand
formats, the codes of the four quarters, and the operand rows captured so far; `aFrom` and `bFrom` are offset and pitch of an operand in
scratchpad, `desc` the offset of a descriptor. -/
structure ArrayJob where
  tile   : Nat
  rows   : Nat
  cols   : Nat
  type   : Nat
  steps  : Nat
  sparse : Nat
  aFmt   : Nat
  bFmt   : Nat
  cells  : List Nat
  aFrom  : Option (Nat × Nat)
  bFrom  : Option (Nat × Nat)
  desc   : Option Nat
  a      : List Row
  b      : List Row
  deriving DecidableEq, Repr

/-- The four CSRs of a format window (R248). -/
structure Window where
  base  : Word
  lim   : Word
  bsc   : Word
  bnd   : Word
  deriving DecidableEq, Repr

/-- A place in the boundary order (R320): gclk, the arithmetic cycle among those of one gclk, then core id, stream and tag. -/
structure Place where
  gclk   : Nat
  round  : Nat
  core   : Nat
  stream : Nat
  sub    : Nat
  deriving DecidableEq, Repr

/-- The latest refresh of a strand at each scope (R322); `.domain` acts as `.device` (R332). -/
structure Seen where
  core   : Option Place
  die    : Option Place
  device : Option Place
  deriving DecidableEq, Repr

/-- A tile fetch (R264): handle, start offset in the page, shape word; the partition, the windows of the die that decode it, and the refreshes of its
strand, all as they were at its issue (R249, R335). -/
structure FetchJob where
  handle : Word128
  off    : Nat
  shape  : Word
  part   : Nat
  wins   : List Window
  seen   : Seen
  deriving DecidableEq, Repr

/-- An accord instruction under way (R279 to R281): which one, the descriptor's offset, the offset and pitch of the tile in scratchpad, and
the count of `ASEEK`. -/
inductive AccordKind where
  | gen | proj | seek
  deriving DecidableEq, Repr

/-- What an in-flight instruction still has to read, beside the writes fixed at issue. -/
inductive Late where
  /-- nothing: every write was fixed at issue -/
  | none
  /-- `MVXM` (R189): operand r is read at age r and written at age r + 2 -/
  | moveRows (src dst : MOp) (n : Nat) (mask : Word)
  /-- `STSM` (R207): operand r is read at age r and stored at age r + 1 -/
  | storeRows (src : MOp) (n off : Nat) (mask : Word)
  /-- `XLT` and `XLTP` (R202): handle register, virtual address, required permissions; the handle is formed when the walk answers -/
  | xlt (h : Nat) (va : Word) (perms : Nat)
  /-- a global load that no own fault stops, its value fixed at issue -/
  | load
  /-- a value-returning atomic (R210), formed when it is performed -/
  | atomic
  /-- `TFET` (R264) into a slot -/
  | fetch (slot : Nat) (job : FetchJob)
  /-- an array multiply whose guard is false: in flight as if true, it writes nothing (R130) -/
  | idleArray
  /-- an array multiply: the operands are captured as R267 times them and the tile lands at the last age -/
  | mma (j : ArrayJob)
  /-- `TLD` (R277): tile, scratchpad offset, length; the bytes are captured beat by beat -/
  | tileLoad (t off len : Nat) (got : List Byte)
  /-- an accord instruction: its operands are read at age 2 -/
  | accord (kind : AccordKind) (desc tile pitch count : Nat)
  /-- a search of `ASEEK` whose result is fixed; its progress is what a stop dump shows (R384) -/
  | sought (desc tile pitch count : Nat)
  deriving DecidableEq, Repr

/-- A scratchpad range that an MX instruction holds in the scoreboard until an age (R268). -/
structure Hold where
  write : Bool
  lo    : Nat
  len   : Nat
  upto  : Nat
  deriving DecidableEq, Repr

/-- A result in flight (R130): the bundle and slot that issued it, its age in cycles, the age of its last landing, how long it
occupies its slot, the places it writes with the age at which each is due, and its landings. `wall` says that it advances in wall cycles
(R133, R135, R86); `holds` are its scratchpad ranges in the scoreboard, `uses` the fetch slots it reads with the age until which it reads
them (R266), `reads` the ranges of scratchpad or device memory that it has loaded (R359). -/
structure Flight where
  id       : Nat
  bundle   : Nat
  slot     : Nat
  age      : Nat
  last     : Nat
  occ      : Nat
  wall     : Bool
  dests    : List (Loc × Nat)
  writes   : List (Nat × Write)
  late     : Late
  holds    : List Hold
  uses     : List (Nat × Nat)
  reads    : List (Nat × Nat)
  /-- completes in variable time (R134) -/
  var      : Bool
  /-- a variable result has arrived -/
  arrived  : Bool
  /-- held in the landing buffer (R85) -/
  buffered : Bool
  /-- the operand that names its matrix destination, in the form of R18 (R131) -/
  code     : Nat
  deriving DecidableEq, Repr

/-! ### Contexts -/

/-- A pending branch (R123): target code pointer and delay bundles remaining. -/
structure Pend where
  target : Word
  delays : Nat
  deriving DecidableEq, Repr

/-- A loop-stack entry (R123): iterations completed, count, byte offset of the body's first bundle, length in bundles. -/
structure LoopEntry where
  index : Nat
  count : Nat
  start : Nat
  len   : Nat
  deriving DecidableEq, Repr

/-- The sequencer (R123): page being issued, byte offset of the next bundle, home page while the page is an annex, pending
branch, loop stack with its top first. `entering` says that the page-entry checks are owed (R68 to R70), `crossing` that a page
edge was crossed and the landing buffer captures at the next issue (R85). -/
structure Seq where
  page     : Nat
  off      : Nat
  home     : Nat
  pend     : Option Pend
  loops    : List LoopEntry
  entering : Bool
  crossing : Bool
  deriving DecidableEq, Repr

/-- The sequencer state a trap sets aside (R352), and what has been done already for the instance of the bundle it was taken at: its marker measured
(R383), its watches judged (R385), its breakpoint met (R384), the schedule advanced (R133), and the trace records that it owes (R380). -/
structure Aside where
  pend  : Option Pend
  loops : List LoopEntry
  measured  : Bool
  skipWatch : Bool
  skipBreak : Bool
  /-- the schedule pipelines have advanced for it (R133) -/
  ticked    : Bool
  /-- trace records that it owes log 0 (R380) -/
  traces    : List Word
  deriving DecidableEq, Repr

/-- A pending report or deferred cause: cause, `tval`, slot, and for a deferred cause the age it is due in schedule cycles.
`wp` is what `wpinfo` takes when a watch report is taken (R386). -/
structure Report where
  cause : Nat
  tval  : Word
  slot  : Nat
  due   : Nat
  wp    : Word
  deriving DecidableEq, Repr

/-- An accumulator tile (R260): rows, columns, type, live bit, bytes. -/
structure Tile where
  rows  : Nat
  cols  : Nat
  type  : Nat
  live  : Bool
  bytes : Memory
  deriving DecidableEq, Repr

/-- The state of a fetch slot (R264). -/
inductive SlotState where
  | empty | fetching | loaded | revoked
  deriving DecidableEq, Repr

/-- A fetch slot (R264): its state, the address and shape it was fetched from, the staged rows with their format and scales, the lines it pins, and how
long the coherence history was when they were staged (R266). -/
structure FSlot where
  state  : SlotState
  handle : Word128
  addr   : Nat
  shape  : Word
  rows   : Nat
  format : Nat
  sparse : Nat
  staged : List Row
  pinned : List Nat
  mark   : Nat
  deriving DecidableEq, Repr

/-- The decoder stream (R257): offset, length, ratio bound, offset of the next block in the stream, schedule cycles since the last delivery,
whether none was made yet, and the next block's bytes as they were when the stream came to it. -/
structure DecStream where
  off   : Nat
  len   : Nat
  ratio : Nat
  next  : Nat
  since : Nat
  first : Bool
  got   : List Byte
  deriving DecidableEq, Repr

/-- A segment attachment of a strand (R59, R306): the copy is that of the segment of its owner, whatever the name comes to mean later. -/
structure Attach where
  name  : Nat
  owner : Nat
  write : Bool
  deriving DecidableEq, Repr

/-- A global store of the strand not yet published (R321, R323): its place in the issue order and its bytes by physical
address. -/
structure OwnStore where
  index : Nat
  bytes : List (Nat × Byte)
  deriving DecidableEq, Repr

/-- Why a parked context waits (R355). -/
inductive Wait where
  /-- trap 0x04: the entry saved as a code pointer (R75) -/
  | still (entry : Word)
  /-- trap 0x0A of a code page (R70) -/
  | codePage (page : Nat)
  /-- trap 0x0A or 0x0B of a handle (R201, R204) -/
  | handle (h : Nat)
  /-- trap 0x10: an attach miss (R62) -/
  | attach (name : Nat) (write : Bool)
  /-- trap 0x20: a full log (R380) -/
  | log (id slice : Nat) (record : List Word)
  deriving DecidableEq, Repr

/-- What a context is doing (R124, R355 to R358, R384). -/
inductive Life where
  /-- holds no iteration and no strand -/
  | empty
  /-- may issue: active, or standby-ready -/
  | ready
  /-- parked, the leaf is at work -/
  | parked (w : Wait)
  /-- parked and refused: the handler is entered when it next becomes active (R355) -/
  | refused (cause : Nat) (tval : Word) (slot : Nat)
  /-- has reached the iteration-end or secondary-end pointer and is retiring (R374) -/
  | ending
  /-- discarded with its kernel, whose end is under way (R354) -/
  | discarded
  deriving DecidableEq, Repr

/-- The CSRs of one log (R378). -/
structure LogRegs where
  /-- physical addresses that the bases were translated to when they were written -/
  pa     : Nat
  spa    : Nat
  base   : Word
  lim    : Word
  hw     : Word
  sbase  : Word
  slim   : Word
  sptr   : Word
  deriving DecidableEq, Repr

/-- What a blocked instruction asks of firmware or of a home slice (R288, R366, R402): a segment to create, freeze or drop, or a watch. -/
inductive Request where
  | create (name size : Nat)
  | freeze (name : Nat)
  | drop (name : Nat)
  | watch (w : Nat)
  deriving DecidableEq, Repr

/-- The request of a context's blocked bundle. -/
inductive Ask where
  | none
  /-- the request was made -/
  | waiting (r : Request)
  /-- it was answered: 0 done, otherwise the reason of the refusal -/
  | answered (r : Request) (reason : Nat)
  deriving DecidableEq, Repr

/-- A context (R139, R351): its registers, its sequencer and what it has in flight. The secondary context uses the g, p, bt, h
registers, the sequencer and the trap registers only (R127). -/
structure Ctx where
  life    : Life
  /-- held in shadow storage after a pre-emption or a swap (R356, R357) -/
  swapped : Bool
  part    : Nat
  pasid   : Nat
  kernel  : Nat
  fresh   : Nat
  ordinal : Nat
  /-- number of the strand that it holds (R43, R318) -/
  strand  : Nat
  epoch   : Nat
  index   : Nat
  seq     : Seq
  aside   : Option Aside
  g       : Table Word
  p       : Table Bool
  k       : Table Word
  h       : Table Word128
  bt      : Table Word
  m       : Table Unit32
  tiles   : Table Tile
  fslots  : Table FSlot
  rba     : Nat
  rbb     : Nat
  rwin    : Word
  fflags  : Word
  fmode   : Word
  srng    : Word
  icfg    : Word
  scyc    : Word
  tcause  : Word
  tval    : Word
  epc     : Word
  hvec    : Word
  tstat   : Word
  tpbt    : Word
  tscr    : Word
  ehome   : Word
  reports  : List Report
  deferred : List Report
  latch   : Bool
  flights : List Flight
  dec     : Option DecStream
  atts    : List Attach
  own     : List OwnStore
  seen    : Seen
  ask     : Ask
  drift   : Nat
  trace   : Bool
  measured : Bool
  /-- wall cycle at which the iteration's first bundle issued, if it has (R383) -/
  firstCyc : Option Nat
  /-- wall cycles of the stall or wait under way, and its cause, for trace records and the stall histogram (R379, R387) -/
  stall   : Nat × Nat
  /-- trace records that found no room in log 0 and are owed to it (R380) -/
  traces  : List Word
  /-- the refresh of the iteration's start is still to be made (R319) -/
  starting : Bool
  log0    : LogRegs
  bkps    : Word
  bkpa    : Word
  wpinfo  : Word
  skipWatch : Bool
  skipBreak : Bool
  /-- the schedule pipelines have advanced for the bundle that is to issue next (R133) -/
  ticked    : Bool
  deriving DecidableEq, Repr

/-! ### Cores -/

/-- The direction or kind of a command, with its staged registers (R147, R287). -/
inductive CmdKind where
  /-- `CPY` (R293): dir; near offset; length; physical base of the far page and its size and the offset in it, or the far core and
  offset; compressed; sealed; key slot -/
  | cpy (dir near len base size off : Nat) (farCore farDev : Nat) (cmp sealed : Bool) (key : Nat)
  /-- `CPYT` (R295, R296); `barred` says that the page's permissions refuse the access -/
  | cpyt (dir near desc base size : Nat) (far : Word) (farCore farDev : Nat) (nofill : Bool) (barred : Bool)
  /-- `CFILL` (R297): scratchpad or global, start, length, pattern -/
  | cfill (global : Bool) (at_ len : Nat) (pattern : Word)
  /-- `LSEND` (R314) -/
  | lsend (port ch buf len t : Nat)
  /-- `LRECV` (R314) -/
  | lrecv (port ch buf len t : Nat)
  deriving DecidableEq, Repr

/-- A range that a command reads or writes (R305): space 0 own scratchpad, 1 far scratchpad of core `core`, 2 global memory. -/
structure Range where
  space : Nat
  core  : Nat
  lo    : Nat
  len   : Nat
  deriving DecidableEq, Repr

/-- An engine command or link transfer accepted and not yet completed (R287). -/
structure Cmd where
  id      : Nat
  bank    : Nat
  tag     : Nat
  kind    : CmdKind
  acq     : Bool
  rel     : Bool
  scope   : Nat
  wait    : Option (Nat × Nat)
  /-- signal: peer device if remote there, core, semaphore, increment (R290) -/
  signal  : Option (Bool × Nat × Nat × Nat)
  reads   : List Range
  writes  : List Range
  started : Bool
  /-- the status it ends with, when that is decided, and the offset of the failing element (R298) -/
  status  : Nat
  failAt  : Nat
  /-- its own refreshes: those of its strand when it was issued, and one made when it starts (R335) -/
  seen    : Seen
  /-- the scratchpad of its core as it was when it started -/
  near    : Memory
  /-- scratchpad bytes that hold an old or a new value until its tag is set (R289): core, offset, the other value -/
  alt     : List (Nat × Nat × Byte)
  /-- flits sent or landed so far, for link transfers -/
  moved   : Nat
  /-- the total flit count of the transfer being received, when its first flit has arrived (R316) -/
  total   : Nat
  /-- part, PASID and kernel of the issuing strand -/
  part    : Nat
  pasid   : Nat
  kernel  : Nat
  /-- wall cycle of its core in which it was issued (R289) -/
  born    : Nat
  deriving DecidableEq, Repr

/-- Copy states of a segment copy (R59). -/
inductive CopyState where
  | loading | clean | dirty | frozen | evicting
  deriving DecidableEq, Repr

/-- An entry of a core's segment directory (R58). -/
structure DirEntry where
  name    : Nat
  owner   : Nat
  off     : Nat
  size    : Nat
  state   : CopyState
  version : Nat
  attach  : Nat
  writers : Nat
  stamp   : Nat
  dirty   : List Nat
  deriving DecidableEq, Repr

/-- A watch (R366): scratchpad or global, start of its 16-byte range (offset, or physical address with its virtual address), byte
mask, whether the slice holds its part, and the bank of the context that set it. -/
structure Watch where
  sp    : Bool
  at_   : Nat
  va    : Word
  mask  : Nat
  slice : Bool
  bank  : Nat
  deriving DecidableEq, Repr

/-- A scratchpad byte that a context of the core landed in this wall cycle, and its value before (R326). -/
structure Stale where
  bank : Nat
  at_  : Nat
  old  : Byte
  deriving DecidableEq, Repr

/-- A core (R44, R124). -/
structure Core where
  active  : Nat
  /-- wall cycles before the primary stream may issue after a bank switch (R355) -/
  hold    : Nat
  /-- wall cycles before the secondary's first bundle may issue (R128) -/
  secHold : Nat
  wcyc    : Word
  secins  : Word
  collide : Nat
  bubble  : Bool
  sp      : Memory
  stale   : List Stale
  sems    : Table Unit32
  ctb     : Word
  tgst    : Table Word
  cmds    : List Cmd
  dir     : List DirEntry
  watches : Table Watch
  log2    : LogRegs
  log3    : LogRegs
  /-- signals added in this cycle: semaphore, and rank in the order of R304 -/
  heard   : List (Nat × Nat)
  /-- the issue run under way: event, bank, length (R379) -/
  run     : Option (Nat × Nat × Nat)
  frozen  : Bool
  b0      : Ctx
  b1      : Ctx
  sec     : Ctx
  deriving DecidableEq, Repr

/-! ### The device -/

/-- Boot stages (R392, R395, R397): powered on but not brought up, bring-up about to verify and start a stage of the firmware, the firmware running, or
only the management service. -/
inductive Boot where
  | off
  | starting (stage : Nat)
  | running | managementOnly
  deriving DecidableEq, Repr

/-- A firmware image of the module flash (R391, R397): its stage, its bytes, and whether its signature verifies. -/
structure FwImage where
  stage : Nat
  bytes : List Byte
  valid : Bool
  deriving DecidableEq, Repr

/-- The module flash (R391): two copies of the configuration record and of each firmware image, lifetime counters as last written, with the corrected-error
counts of each slice and stack (R387). -/
structure Flash where
  recA     : List Byte
  recB     : List Byte
  fwA      : List FwImage
  fwB      : List FwImage
  counters : Table Word
  deriving DecidableEq, Repr

/-- An entry of the partition map (R45): core ids in ascending order, scratchpad bytes, segment area bytes, watchdog in
microseconds. -/
structure PartMap where
  cores    : List Nat
  spSize   : Nat
  segArea  : Nat
  watchdog : Nat
  deriving DecidableEq, Repr

/-- The configuration in use (R392); without a record there is no commanding host. -/
structure Conf where
  seq      : Nat
  features : Nat
  hbmStacks   : Nat
  host     : Option Nat
  power    : Nat
  parts    : Table PartMap
  deriving DecidableEq, Repr

/-- An entry of the measurement log (R397). -/
structure Measure where
  stage  : Nat
  failed : Bool
  length : Nat
  hash   : BitVec 512
  deriving DecidableEq, Repr

/-- A reply or notice of the mailbox (R28, R197, R394): destination endpoint, sequence number, status, data. -/
structure Reply where
  dest   : Nat
  seq    : Nat
  status : Nat
  data   : List Byte
  deriving DecidableEq, Repr

/-- The mailbox (R26 to R28): what it expects of each source, the requests whose sequence turns have become ready, in that order, those held ahead of
their predecessors, and the replies. -/
structure Mbox where
  expect  : Table Nat
  ready   : List Req
  held    : List Req
  replies : List Reply
  deriving DecidableEq, Repr

/-- A queue control block as the scheduler caches it (R31), with its queue and its place in device memory. -/
structure Qcb where
  pasid  : Nat
  queue  : Nat
  addr   : Nat
  head   : Nat
  tail   : Nat
  base   : Nat
  order  : Nat
  part   : Nat
  cap    : Nat
  state  : Nat
  errSt  : Nat
  errIx  : Nat
  deriving DecidableEq, Repr

/-- An object of the queue pool (R30): level-2 table or QCB, its device address, the host address it came from, and the entry that
names it: its address, or for an entry in a table of the pool its offset there and the host address of that table, which may move. -/
structure PoolObj where
  table : Bool
  addr  : Nat
  host  : Nat
  entry : Nat
  under : Option Nat := none
  deriving DecidableEq, Repr

/-- A fetch from the host under way (R30): the object, the entry that names it, the tail writes held for it, and the queues whose commands the scheduler
itself needs it for. -/
structure Fetch where
  id    : Nat
  table : Bool
  host  : Nat
  entry : Nat
  held  : List Req
  wants : List (Nat × Nat) := []
  deriving DecidableEq, Repr

/-- A command taken from the head of a queue and not yet completed (R39): its queue, its ring index, its bytes, the order of the tail write that
announced it, for a launch its loop-nest record as it was read, its address, and the status that it is to complete with once its queue's QCB is
there. -/
structure HeadCmd where
  pasid  : Nat
  queue  : Nat
  index  : Nat
  bytes  : List Byte
  order  : Nat
  record : List Byte
  addr   : Nat := 0
  done   : Option Nat := none
  deriving DecidableEq, Repr

/-- The global scheduler (R30, R39). -/
structure Sched where
  cache   : List Qcb
  pool    : List PoolObj
  fetches : List Fetch
  cmds    : List HeadCmd
  /-- tail writes held until a cached QCB can be dropped (R30) -/
  waiting : List Req
  tailSeq : Nat
  /-- tail writes of each queue whose commands have not all been consumed: their order and their tail values, oldest first -/
  tails   : Table (List (Nat × Nat))
  /-- queues whose QCB the scheduler needs and has no room for yet -/
  wants   : List (Nat × Nat)
  /-- queues whose QCB was found malformed: absent until a QCB invalidate (R31) -/
  bad     : List (Nat × Nat)
  /-- leaves whose command link raised machine check 0x28 at the scheduler (R42) -/
  checks  : List Nat
  deriving DecidableEq, Repr

/-- States of a resident model slot (R35). -/
inductive ModelState where
  | free | loading | resident | restoring | releasing
  deriving DecidableEq, Repr

/-- A resident model slot (R35). -/
structure ModelSlot where
  state  : ModelState
  object : BitVec 256
  image  : Nat
  tag    : Nat
  base   : Nat
  pages  : List (BitVec 256)
  entry  : Word
  segs   : List Nat
  pasid  : Nat
  queue  : Nat
  part   : Nat
  features : Nat
  deriving DecidableEq, Repr

/-- A chunk of the chunk store (R10, R11). -/
structure Chunk where
  hash     : BitVec 256
  bytes    : Memory
  refs     : Nat
  verified : Bool
  deriving DecidableEq, Repr

/-- A segment of the device segment table (R56). Owner 0 to 23 is a partition; 24 + n is model slot n. Class 0 PINNED, 1 RETAINED,
2 KERNEL. -/
structure Segment where
  name    : Nat
  owner   : Nat
  cls     : Nat
  size    : Nat
  image   : Word
  pages   : List Nat
  frozen  : Bool
  version : Nat
  cores   : List Nat
  kernel  : Nat
  lost    : Bool
  deriving DecidableEq, Repr

/-- A message of a command link (R42): its 64 bytes, the low one the permits that it returns, and whether it does nothing else. -/
structure LinkMsg where
  bytes : List Byte
  only  : Bool
  deriving DecidableEq, Repr

/-- One direction of a command link (R42): permits that its sender holds, messages sent and not consumed, oldest first, and messages that wait for a
permit. -/
structure LinkWay where
  permits : Nat
  sent    : List LinkMsg
  waiting : List (List Byte)
  deriving DecidableEq, Repr

/-- A command link between the scheduler and a leaf (R42). -/
structure FwLink where
  down : LinkWay
  up   : LinkWay
  deriving DecidableEq, Repr

/-- A running kernel (R39, R50, R356). -/
structure Kernel where
  id       : Nat
  pasid    : Nat
  queue    : Nat
  index    : Nat
  slot     : Nat
  ordered  : Bool
  record   : Bool
  replay   : Bool
  recBytes : List Byte
  next     : Nat
  patience : Option Nat
  /-- ordinals assigned and not retired -/
  running  : List Nat
  /-- epochs closed -/
  closed   : Nat
  /-- ended by R354: the report's bytes 123 to 96 -/
  report   : Option (List Byte)
  deriving DecidableEq, Repr

/-- What a partition's cores are doing beside running (R356, R357, R384). -/
inductive Halt where
  | none
  /-- pre-emption requested; the watchdog runs -/
  | preempting
  /-- a stop: the gclk of its edge, and the core, bank and kind of the stop -/
  | stopping (gclk core bank kind : Nat)
  /-- stopped by a context, the dump is written, the command word awaits the host; `told` says that the host has written it -/
  | stopped (core bank : Nat) (told : Bool)
  /-- halted by a command-link error (R42) -/
  | halted
  deriving DecidableEq, Repr

/-- A key slot (R301). -/
structure KeySlot where
  key     : BitVec 256
  usable  : Bool
  /-- the next counter value; 2^32 when the key is exhausted -/
  counter : Word
  deriving DecidableEq, Repr

/-- The registers of a partition and its kernel. -/
structure Part where
  kernel : Option Kernel
  halt   : Halt
  rl     : Table Word
  rmode  : Word
  keys   : Table KeySlot
  stctl  : Word
  stdmp  : Word
  stdmpPa : Nat
  log1   : Table LogRegs
  log4   : Table LogRegs
  log5   : LogRegs
  /-- high-water of each sub-buffer of log 4, by 384 times the die plus the slice -/
  hw4    : Table Word
  /-- atomics of the run at each sub-buffer's high-water that replay has used up -/
  run4   : Table Nat
  deriving DecidableEq, Repr

/-- A data mapping (R196, R197): size code 0 to 2; permissions R W A T S in bits 0 to 4. -/
structure DataMap where
  pasid : Nat
  va    : Word
  size  : Nat
  pa    : Nat
  perms : Nat
  host  : Bool
  deriving DecidableEq, Repr

/-- What a code mapping takes its bytes from (R66, R74): a chunk, a BLF unit of a slot, or a native page written by the Still, with its leaf
hash. -/
inductive CodeSrc where
  | chunk (hash : BitVec 256)
  | blf (hash : BitVec 256) (unit : Nat)
  | native (hash : BitVec 256)
  deriving DecidableEq, Repr

/-- A mapped code page (R66, R70, R83): whether its bytes are in device memory, whether its trailer has been checked since the mapping
was installed, the bytes that are to replace it, and the foreign page or unit that a native page stands for (R77). -/
structure CodePage where
  pasid   : Nat
  va      : Nat
  src     : CodeSrc
  present : Bool
  checked : Bool
  bytes   : Memory
  next    : Option (CodeSrc × Memory)
  origin  : Option (CodeSrc × Memory) := none
  deriving DecidableEq, Repr

/-- An entry of the Still's overlay (R77): the key's hash bytes, and the leaf hashes of the native home page and of its annexes. -/
structure Overlay where
  key    : List Byte
  leaves : List (BitVec 256)
  used   : Nat
  deriving DecidableEq, Repr

/-- Who made a write or a publication (R318): a strand, by its core, its bank and its number, or an engine command that acts for it, the host, or the global scheduler. -/
inductive Party where
  | strand (core bank no : Nat)
  | host
  | sched
  deriving DecidableEq, Repr

/-- A publication (R319): by whom, at which scope (0 strand, 1 core, 2 die, 3 device), and its place. -/
structure Pub where
  party : Party
  scope : Nat
  place : Place
  deriving DecidableEq, Repr

/-- A write that has its place in the coherence order (R321). The history lists the latest write first. -/
structure HistEntry where
  party  : Party
  kernel : Nat
  atomic : Bool
  bytes  : List (Nat × Byte)
  pubs   : List Pub
  deriving DecidableEq, Repr

/-- An atomic issued and not performed (R210), or a reduction held for its epoch (R338). -/
structure Atomic where
  id      : Nat
  core    : Nat
  bank    : Nat
  kernel  : Nat
  op      : Nat
  pa      : Nat
  width   : Nat
  operand : Word
  swap    : Word
  dest    : Nat
  flight  : Nat
  acq     : Bool
  scope   : Nat
  epoch   : Nat
  ordinal : Nat
  index   : Nat
  sub     : Nat
  rnd     : Nat
  va      : Word
  /-- refused at its slice because its record did not fit: the leaf performs it (R380) -/
  refused : Bool
  deriving DecidableEq, Repr

/-- An imprecise report on its way to a context (R348, R385): the report and the wall cycle at which its cause landed. -/
structure FlyReport where
  id     : Nat
  core   : Nat
  bank   : Nat
  report : Report
  landed : Nat
  deriving DecidableEq, Repr

/-- A signal on its way to another core (R303, R304). -/
structure Signal where
  id      : Nat
  core    : Nat
  bank    : Nat
  target  : Nat
  sem     : Nat
  inc     : Nat
  deriving DecidableEq, Repr

/-- A watch held at a home slice (R366). -/
structure SliceWatch where
  slice : Nat
  core  : Nat
  w     : Nat
  deriving DecidableEq, Repr

/-- A link port (R314 to R316): its measured delay, and the windows of accepted sends and armed receives. -/
structure Port where
  delay : Word
  sends : List (Nat × Nat)
  recvs : List (Nat × Nat × Nat)
  deriving DecidableEq, Repr

/-- What the device sends over its fabric ports, as the model keeps it (log entry 16): a flit of a scheduled transfer with its framing (R314,
R316), the bytes and the signal of a copy to a peer device (R294, R290), the answer to a peer's copy or signal, and the report of an addition
that was not made (R304); and what the scheduler writes back to host memory (R30). -/
inductive Parcel where
  | flit (port ch index count gclk : Nat) (bytes : List Byte)
  | copy (device sender tag core offset : Nat) (bytes : List Byte)
  | signal (device tag far core sem inc : Nat)
  | answer (device tag status : Nat)
  | overflow (device core sem : Nat)
  | host (addr : Nat) (bytes : List Byte)
  deriving DecidableEq, Repr

/-- How the issue of a bundle came out. -/
inductive Out where
  | idle | ran | trapped | blocked
  deriving DecidableEq, Repr

/-- A decoded instruction waiting to run: its slot, the offset of its word, itself. -/
structure Job where
  slot  : Nat
  off   : Nat
  instr : Instr
  deriving DecidableEq, Repr

/-- The issue register: the context, slot and bundle that the running instruction belongs to. The model's own (log entry 7). -/
structure Cur where
  core   : Nat
  bank   : Nat
  slot   : Nat
  page   : Nat
  home   : Nat
  off    : Nat
  size   : Nat
  gelxis : Bool
  drain  : Bool
  pend0  : Option Pend
  jobs   : List Job
  jobs2  : List Job
  out    : Out
  moved  : Bool
  /-- the whole core stalls in this cycle (R134) -/
  stalled : Bool
  /-- byte offset of the running instruction's word in its page (R93) -/
  word   : Nat
  /-- words of log 3 and of log 5 that the lower slots of a bundle under judgement use in replay (R381) -/
  ahead  : Nat × Nat
  /-- a lower slot of the bundle under judgement blocks: logged decisions of the higher slots come after it -/
  behind : Bool
  /-- slot, `tval` and `wpinfo` of the first precise watch match of the bundle (R385, R386) -/
  hit    : Option (Nat × Word × Word)
  deriving DecidableEq, Repr

/-- The whole machine. -/
structure State where
  powered   : Bool
  boot      : Boot
  ready     : Word
  failed    : Word
  flash     : Flash
  measure   : List Measure
  conf      : Conf
  powerReq  : Option Nat
  clockStep : Nat
  gclk      : Nat
  /-- gclk before the reference cycles of the latest cycle -/
  gclkWas   : Nat
  gclkHold  : Nat
  /-- what of the hold is in force in this arithmetic cycle (R65) -/
  holdNow   : Nat
  gfrac     : Nat
  /-- arithmetic cycles since power-on, and the gclk of the one before this -/
  rounds    : Nat
  roundGclk : Nat
  /-- the latest place taken in the boundary order (R320) -/
  boundary  : Place
  counters  : Table Word
  mbox      : Mbox
  qtroot    : Word
  cc        : Table Word
  sched     : Sched
  slots     : Table ModelSlot
  chunks    : List Chunk
  segs      : List Segment
  links     : Table FwLink
  parts     : Table Part
  maps      : List DataMap
  /-- mappings that the translation caches of cores have used, by core (R202, R203) -/
  cached    : List (Nat × DataMap)
  revSeq    : Nat
  code      : List CodePage
  overlay   : List Overlay
  first     : Memory
  hist      : List HistEntry
  stamp     : Nat
  atomics   : List Atomic
  reds      : List Atomic
  signals   : List Signal
  flying    : List FlyReport
  sliceWatches : List SliceWatch
  windows   : Table Window
  /-- the window values that tile fetches use (R249) -/
  winForce  : Table Window
  /-- window CSR writes waiting for the writer's `PHASE`: core, bank, die, CSR number, value (R249) -/
  winPend   : List (Nat × Nat × Nat × Nat × Word)
  ports     : Table Port
  outbox    : List Parcel
  /-- peer arrivals that replay holds until their turn (R381) -/
  peers     : List Event
  cores     : Table Core
  agenda    : List Event
  turn      : Nat
  issued    : Bool
  free      : Nat
  cur       : Cur
  nextId    : Nat
  deriving DecidableEq, Repr

/-- Reasons the model stops without a next state. -/
inductive Fault where
  /-- raised by `step` when the module has no power and nothing in the schedule restores it (R395): no instruction is fetched. Safe:
  the hardware does nothing either. -/
  | poweredOff
  deriving DecidableEq, Repr

/-- Reasons the model has no meaning for an instruction. -/
inductive Refusal where
  /-- an arm of exec without a meaning yet, by mnemonic; raised by exec only. Safe: nothing is claimed of it. -/
  | notModelled (mnemonic : String)
  deriving DecidableEq, Repr

/-! ### Reset -/

/-- The registers of a log at reset (log entry 1). -/
def LogRegs.reset : LogRegs := { pa := 0, spa := 0, base := 0, lim := 0, hw := 0, sbase := 0, slim := 0, sptr := 0 }

/-- An unconfigured accumulator tile (R260). -/
def Tile.reset : Tile := { rows := 0, cols := 0, type := 0, live := false, bytes := [] }

/-- An empty fetch slot (R264). -/
def FSlot.reset : FSlot :=
  { state := .empty, handle := 0, addr := 0, shape := 0, rows := 0, format := 0, sparse := 0, staged := [], pinned := [], mark := 0 }

/-- A context at reset (R51, R131, R136, R245 to R247, R260, R351; log entry 1). -/
def Ctx.reset : Ctx :=
  { life := .empty, swapped := false, part := 0, pasid := 0, kernel := 0, fresh := 0, ordinal := 0, strand := 0, epoch := 0, index := 0,
    seq := { page := 0, off := 0, home := 0, pend := none, loops := [], entering := true, crossing := false },
    aside := none, g := [], p := [], k := [], h := [], bt := [], m := [], tiles := [], fslots := [],
    rba := 0, rbb := 0, rwin := 0, fflags := 0, fmode := 0, srng := 1, icfg := 0, scyc := 0,
    tcause := 0, tval := 0, epc := 0, hvec := 0, tstat := 0, tpbt := 0, tscr := 0, ehome := 0,
    reports := [], deferred := [], latch := false, flights := [], dec := none, atts := [], own := [],
    seen := { core := none, die := none, device := none }, ask := .none, drift := 0, trace := false, measured := false,
    firstCyc := none, stall := (0, 0), traces := [], starting := false, log0 := LogRegs.reset, bkps := 0, bkpa := 0, wpinfo := 0, skipWatch := false,
    skipBreak := false, ticked := false }

/-- A core at reset (R129, R136; log entries 1 and 5). -/
def Core.reset : Core :=
  { active := 0, hold := 0, secHold := 0, wcyc := 0, secins := 0, collide := 0, bubble := false, sp := [], stale := [], sems := [], ctb := 0,
    tgst := [], cmds := [], dir := [], watches := [], log2 := LogRegs.reset, log3 := LogRegs.reset, heard := [], run := none,
    frozen := false, b0 := Ctx.reset, b1 := Ctx.reset, sec := Ctx.reset }

/-- A partition's registers at reset (log entry 1). -/
def Part.reset : Part :=
  { kernel := none, halt := .none, rl := [], rmode := 0, keys := [], stctl := 0, stdmp := 0, stdmpPa := 0, log1 := [], log4 := [],
    log5 := LogRegs.reset, hw4 := [], run4 := [] }

/-- A key slot at reset (R301). -/
def KeySlot.reset : KeySlot := { key := 0, usable := false, counter := 0 }

/-- A format window at reset (log entry 1). -/
def Window.reset : Window := { base := 0, lim := 0, bsc := 0, bnd := 0 }

/-- An untrained port (R314): its delay reads all ones. -/
def Port.reset : Port := { delay := BitVec.allOnes 64, sends := [], recvs := [] }

/-- A free model slot (R35). -/
def ModelSlot.reset : ModelSlot :=
  { state := .free, object := 0, image := 0, tag := 0, base := 0, pages := [], entry := 0, segs := [], pasid := 0, queue := 0,
    part := 0, features := 0 }

/-- A command link with its sixteen permits each way (R42). -/
def FwLink.reset : FwLink :=
  { down := { permits := 16, sent := [], waiting := [] }, up := { permits := 16, sent := [], waiting := [] } }

/-- The issue register with nothing in it. -/
def Cur.reset : Cur :=
  { core := 0, bank := 0, slot := 0, page := 0, home := 0, off := 0, size := 0, gelxis := true, drain := false, pend0 := none,
    jobs := [], jobs2 := [], out := .idle, moved := false, stalled := false, word := 0, ahead := (0, 0), behind := false, hit := none }

/-- The machine right after reset, before anything is scheduled (R395; log entries 1 to 8): supply present, power-on not yet
performed, memory with nothing listed, every core at its reset. -/
def State.reset : State :=
  { powered := true, boot := .off, ready := 0, failed := 0,
    flash := { recA := [], recB := [], fwA := [], fwB := [], counters := [] }, measure := [],
    conf := { seq := 0, features := 0, hbmStacks := 0, host := none, power := 0, parts := [] }, powerReq := none, clockStep := 0,
    gclk := 0, gclkWas := 0, gclkHold := 0, holdNow := 0, gfrac := 0, rounds := 1, roundGclk := 0,
    boundary := { gclk := 0, round := 0, core := 0, stream := 0, sub := 0 }, counters := [],
    mbox := { expect := [], ready := [], held := [], replies := [] }, qtroot := 0, cc := [],
    sched := { cache := [], pool := [], fetches := [], cmds := [], waiting := [], tailSeq := 0, tails := [], wants := [], bad := [], checks := [] }, slots := [], chunks := [], segs := [],
    links := [], parts := [], maps := [], cached := [], revSeq := 0, code := [], overlay := [], first := [], hist := [], stamp := 0, atomics := [],
    reds := [], signals := [], flying := [], sliceWatches := [], windows := [], winForce := [], winPend := [], ports := [], outbox := [], peers := [], cores := [], agenda := [], turn := 0,
    issued := false, free := 0, cur := Cur.reset, nextId := 1 }

end Sys2Proof.Machine
end

