-- ==== Sys2Proof/Machine/Access.lean ====
section
/-! DEFINITION. Reading and replacing the parts of the state: cores, contexts, partitions, and the acting context. -/
namespace Sys2Proof.Machine

/-- What a meaning answers. -/
abbrev Answer := Host.Outcome State Fault Refusal

/-- Core `n`. -/
def coreAt (s : State) (n : Nat) : Core := tgetD s.cores n Core.reset

/-- Replace core `n`. -/
def setCore (s : State) (n : Nat) (c : Core) : State := { s with cores := tset s.cores n c }

/-- A context of a core: bank 0, bank 1, or the secondary (2). -/
def ctxIn (c : Core) (bank : Nat) : Ctx :=
  match bank with
  | 0 => c.b0
  | 1 => c.b1
  | _ => c.sec

/-- Replace a context of a core. -/
def setCtxIn (c : Core) (bank : Nat) (x : Ctx) : Core :=
  match bank with
  | 0 => { c with b0 := x }
  | 1 => { c with b1 := x }
  | _ => { c with sec := x }

/-- A context of the device. -/
def ctxAt (s : State) (core bank : Nat) : Ctx := ctxIn (coreAt s core) bank

/-- Replace a context of the device. -/
def setCtx (s : State) (core bank : Nat) (x : Ctx) : State := setCore s core (setCtxIn (coreAt s core) bank x)

/-- Change a context of the device. -/
def modCtx (s : State) (core bank : Nat) (f : Ctx → Ctx) : State := setCtx s core bank (f (ctxAt s core bank))

/-- The acting context. -/
def me (s : State) : Ctx := ctxAt s s.cur.core s.cur.bank

/-- The core of the acting context. -/
def myCore (s : State) : Core := coreAt s s.cur.core

/-- Replace the acting context. -/
def setMe (s : State) (x : Ctx) : State := setCtx s s.cur.core s.cur.bank x

/-- Change the acting context. -/
def modMe (s : State) (f : Ctx → Ctx) : State := setMe s (f (me s))

/-- Change the core of the acting context. -/
def modMyCore (s : State) (f : Core → Core) : State := setCore s s.cur.core (f (myCore s))

/-- The registers and kernel of partition `n`. -/
def partAt (s : State) (n : Nat) : Part := tgetD s.parts n Part.reset

/-- Replace a partition. -/
def setPart (s : State) (n : Nat) (p : Part) : State := { s with parts := tset s.parts n p }

/-- Change a partition. -/
def modPart (s : State) (n : Nat) (f : Part → Part) : State := setPart s n (f (partAt s n))

/-- The map entry of a partition, if it is valid (R45). -/
def partMap (s : State) (n : Nat) : Option PartMap := tget s.conf.parts n

/-- The partition a core belongs to (R45). -/
def partOfCore (s : State) (core : Nat) : Option Nat :=
  (s.conf.parts.find? (fun e => e.2.cores.contains core)).map (fun e => e.1)

/-- The cores of a partition, ascending (R53). -/
def coresOf (s : State) (part : Nat) : List Nat :=
  match partMap s part with
  | some m => m.cores
  | none => []

/-- The scratchpad window of a core in bytes (R46). -/
def windowOf (s : State) (core : Nat) : Nat :=
  match partOfCore s core with
  | some p => ((partMap s p).map (fun m => m.spSize)).getD 0
  | none => 0

/-- The end of the program area of a core (R46). -/
def programEnd (s : State) (core : Nat) : Nat :=
  match partOfCore s core with
  | some p => ((partMap s p).map (fun m => m.spSize - m.segArea)).getD 0
  | none => 0

/-- The die of a core (R44). -/
def dieOf (core : Nat) : Nat := core / 48

/-! ### Homes in training, and failed ones (R395) -/

/-- The HBM4E stack of a physical address (R195). -/
def stackOf (pa : Nat) : Nat := pa / 2 ^ 36

/-- A function of the ready word is still in training: it has its bit in neither word. -/
def inTraining (s : State) (fn : Nat) : Bool := !bit s.ready.toNat fn && !bit s.failed.toNat fn

/-- What goes from one die to another can cross the bridge, and meets a failed one (R395). -/
def bridgeReached (s : State) (die other : Nat) : Bool := die == other || !inTraining s 52
def bridgeFailed (s : State) (die other : Nat) : Bool := die != other && bit s.failed.toNat 52

/-- An access from a die reaches the home of an address: neither its stack nor a bridge that the access crosses is still in training (R395). -/
def homeReached (s : State) (die pa : Nat) : Bool :=
  let k := stackOf pa
  !bit s.conf.hbmStacks k || (!inTraining s k && bridgeReached s die (k / 6))

/-- An access from a die meets a failed function on its way: it ends as on an uncorrectable error (R395). -/
def homeFailed (s : State) (die pa : Nat) : Bool :=
  let k := stackOf pa
  bit s.conf.hbmStacks k && (bit s.failed.toNat k || bridgeFailed s die (k / 6))

/-- The address in a trap 0x28 of an error in device memory (R359). -/
def stackError (pa : Nat) : Word := BitVec.ofNat 64 (3 * 2 ^ 60 + pa % 2 ^ 52)

/-- The acting context is the secondary one (R127). -/
def onSecondary (s : State) : Bool := s.cur.bank == 2

/-- Every context of a partition that holds work, as (core, bank). -/
def contextsOf (s : State) (part : Nat) : List (Nat × Nat) :=
  (coresOf s part).flatMap (fun c =>
    ([0, 1, 2].filter (fun b => (ctxAt s c b).life != Life.empty && (ctxAt s c b).part == part)).map (fun b => (c, b)))

/-- Add `n` to a lifetime counter, which saturates (R387). -/
def bump (s : State) (csr n : Nat) : State :=
  let v := (tgetD s.counters csr 0).toNat + n
  { s with counters := tset s.counters csr (if v ≥ 2 ^ 64 then BitVec.allOnes 64 else BitVec.ofNat 64 v) }

/-- The mesh stop of a core: column and row (R44). -/
def stopOf (core : Nat) : Nat × Nat := (core % 48 % 8, core % 48 / 8)

/-- Mesh distance between the stops of two cores (R44). -/
def meshDistance (a b : Nat) : Nat :=
  let (x1, y1) := stopOf a
  let (x2, y2) := stopOf b
  if dieOf a == dieOf b then (if x1 ≥ x2 then x1 - x2 else x2 - x1) + (if y1 ≥ y2 then y1 - y2 else y2 - y1)
  else x1 + y1 + x2 + y2 + 6

/-- The place of a boundary of the acting context (R320): gclk, core id, stream. -/
def myPlace (s : State) : Place :=
  { gclk := s.gclk, round := s.rounds, core := s.cur.core, stream := s.cur.bank, sub := s.stamp }

end Sys2Proof.Machine
end

