-- ==== Sys2Proof/Machine/Flags.lean ====
section
/-! DEFINITION. The sticky flags of `fflags` (R247). -/
namespace Sys2Proof.Machine

/-- The five flags that an operation raises (R247). -/
structure Fl where
  nx : Bool
  uf : Bool
  of : Bool
  dz : Bool
  nv : Bool
  deriving DecidableEq, Repr

/-- No flag. -/
def Fl.none : Fl := { nx := false, uf := false, of := false, dz := false, nv := false }

/-- Invalid. -/
def Fl.invalid : Fl := { Fl.none with nv := true }

/-- The flags of two operations together. -/
def Fl.or (a b : Fl) : Fl :=
  { nx := a.nx || b.nx, uf := a.uf || b.uf, of := a.of || b.of, dz := a.dz || b.dz, nv := a.nv || b.nv }

/-- The flags as bits of a group: NX 0, UF 1, OF 2, DZ 3, NV 4 (R247). -/
def Fl.bits (f : Fl) : Nat := bitOf f.nx + 2 * bitOf f.uf + 4 * bitOf f.of + 8 * bitOf f.dz + 16 * bitOf f.nv

/-- Raise flags in a group of `fflags` (R247): group 0 A at [4:0], 1 B at [12:8], 2 T at [20:16], 3 M at [28:24]. -/
def raise (fflags : Word) (group flags : Nat) : Word := fflags ||| BitVec.ofNat 64 (flags % 32 * 2 ^ (8 * group))

end Sys2Proof.Machine
end

