-- ==== Sys2Proof/Machine/Numbers.lean ====
section
/-! DEFINITION. Numbers to the last bit (R239 to R246): floating-point formats, exact values, correct rounding in every mode, FP4 blocks,
and the stochastic generator. -/
namespace Sys2Proof.Machine

/-! ### Formats and exact values -/

/-- A floating-point format (R240, R244): precision with the hidden bit, exponent of the smallest normal, exponent bits, bias, the
largest finite value as `maxM * 2 ^ maxK`, whether it has infinities, and the canonical NaN. -/
structure Fmt where
  p      : Nat
  emin   : Int
  ebits  : Nat
  bias   : Int
  maxM   : Nat
  maxK   : Int
  hasInf : Bool
  nan    : Nat
  deriving DecidableEq, Repr

def fp32 : Fmt := { p := 24, emin := -126, ebits := 8, bias := 127, maxM := 2 ^ 24 - 1, maxK := 104, hasInf := true, nan := 0x7FC00000 }
def bf16 : Fmt := { p := 8, emin := -126, ebits := 8, bias := 127, maxM := 255, maxK := 120, hasInf := true, nan := 0x7FC0 }
def e5m2 : Fmt := { p := 3, emin := -14, ebits := 5, bias := 15, maxM := 7, maxK := 13, hasInf := true, nan := 0x7E }
def e4m3 : Fmt := { p := 4, emin := -6, ebits := 4, bias := 7, maxM := 14, maxK := 5, hasInf := false, nan := 0x7F }
def fp4 : Fmt := { p := 2, emin := 0, ebits := 2, bias := 1, maxM := 3, maxK := 1, hasInf := false, nan := 0 }

/-- An exact value: NaN (signalling or not), an infinity, or a signed magnitude `m * 2 ^ e`. -/
inductive Val where
  | nan (signalling : Bool)
  | inf (neg : Bool)
  | num (neg : Bool) (m : Nat) (e : Int)
  deriving DecidableEq, Repr

/-- The value of a code (R240). -/
def valueOf (f : Fmt) (code : Nat) : Val :=
  let fb := f.p - 1
  let s := bit code (fb + f.ebits)
  let ex := bits code fb f.ebits
  let fr := bits code 0 fb
  if f.hasInf && ex == 2 ^ f.ebits - 1 then
    if fr == 0 then .inf s else .nan (!bit fr (fb - 1))
  else if f.nan != 0 && !f.hasInf && ex == 2 ^ f.ebits - 1 && fr == 2 ^ fb - 1 then .nan false
  else if ex == 0 then .num s fr (f.emin - fb)
  else .num s (2 ^ fb + fr) ((ex : Int) - f.bias - fb)

/-- The value of an FP32 lane. -/
def val32 (x : BitVec 32) : Val := valueOf fp32 x.toNat

/-- The code of a sign. -/
def signCode (f : Fmt) (neg : Bool) : Nat := if neg then 2 ^ (f.p - 1 + f.ebits) else 0

/-- The code of an infinity, or of the largest finite value where the format has none. -/
def maxCode (f : Fmt) (neg : Bool) : Nat :=
  signCode f neg + 2 ^ (f.p - 1) * ((f.maxK + (f.p - 1 : Nat) + f.bias).toNat) + (f.maxM - 2 ^ (f.p - 1))
def infCode (f : Fmt) (neg : Bool) : Nat :=
  if f.hasInf then signCode f neg + 2 ^ (f.p - 1) * (2 ^ f.ebits - 1) else maxCode f neg

/-! ### Rounding -/

/-- A positive fraction times `2 ^ k`. -/
def scaleUp (n : Nat) (k : Int) : Nat := n * 2 ^ k.toNat

/-- ⌊log2 (n / d)⌋ of a positive fraction. -/
def floorLog (n d : Nat) : Int :=
  let g : Int := (Nat.log2 n : Int) - (Nat.log2 d : Int)
  if scaleUp n (-g) < scaleUp d g then g - 1 else g

/-- The lower multiple, the remainder and the divisor of `(n / d) / 2 ^ k`. -/
def quotient (n d : Nat) (k : Int) : Nat × Nat × Nat :=
  let N := scaleUp n (-k)
  let D := scaleUp d k
  (N / D, N % D, D)

/-- Whether the upper neighbour is taken (R244): mode 1 RNE, 2 RTZ, 3 RUP, 4 RDN, 5 RNA, 6 stochastic with draw `u`. -/
def roundsUp (mode : Nat) (neg : Bool) (lo rem den u : Nat) : Bool :=
  if rem == 0 then false
  else match mode with
    | 1 => 2 * rem > den || (2 * rem == den && lo % 2 == 1)
    | 2 => false
    | 3 => !neg
    | 4 => neg
    | 5 => 2 * rem ≥ den
    | _ => u * den < rem * 2 ^ 32

/-- The code of the magnitude `m * 2 ^ k` with `m < 2 ^ p`, or `m = 2 ^ p`, of a format. -/
def encodeMag (f : Fmt) (m : Nat) (k : Int) : Nat :=
  let (m, k) := if m == 2 ^ f.p then (m / 2, k + 1) else (m, k)
  if m < 2 ^ (f.p - 1) then m
  else 2 ^ (f.p - 1) * ((k + (f.p - 1 : Nat) + f.bias).toNat) + (m - 2 ^ (f.p - 1))

/-- `round_F` of R244 on the magnitude n / d > 0 with a sign: code and flags. `sat` turns an overflow into the largest finite value. -/
def roundFrac (f : Fmt) (mode : Nat) (sat : Bool) (u : Nat) (neg : Bool) (n d : Nat) : Nat × Fl :=
  let e := max (floorLog n d) f.emin
  let k := e - (f.p - 1 : Nat)
  let (lo, rem, den) := quotient n d k
  let up := roundsUp mode neg lo rem den u
  let m := if up then lo + 1 else lo
  let inexact := rem != 0
  let tooBig := k > f.maxK || (k == f.maxK && m > f.maxM)
  if tooBig then
    let toMax := sat || !f.hasInf || mode == 2 || (mode == 3 && neg) || (mode == 4 && !neg)
    (if toMax then maxCode f neg else infCode f neg, { Fl.none with of := true, nx := true })
  else
    let tiny := m < 2 ^ (f.p - 1)
    (signCode f neg + encodeMag f m k, { Fl.none with nx := inexact, uf := tiny && inexact })

/-- `round_F` of an exact value; NaN gives the canonical NaN with invalid if it is signalling, and a zero keeps its sign. -/
def roundVal (f : Fmt) (mode : Nat) (sat : Bool) (u : Nat) (v : Val) : Nat × Fl :=
  match v with
  | .nan sig => (f.nan, { Fl.none with nv := sig })
  | .inf neg => (infCode f neg, Fl.none)
  | .num neg 0 _ => (signCode f neg, Fl.none)
  | .num neg m e => roundFrac f mode sat u neg (scaleUp m e) (scaleUp 1 (-e))

/-- `x` rounded to an integer (R244 with q = 1): the integer and whether it changed. -/
def roundInt (mode u : Nat) (neg : Bool) (m : Nat) (e : Int) : Int × Bool :=
  let (lo, rem, den) := quotient (scaleUp m e) (scaleUp 1 (-e)) 0
  let k := if roundsUp mode neg lo rem den u then lo + 1 else lo
  (if neg then -(k : Int) else (k : Int), rem != 0)

/-! ### Exact arithmetic -/

/-- A signed exact sum kept as `m * 2 ^ e`. -/
structure Dy where
  m : Int
  e : Int
  deriving DecidableEq, Repr

/-- The exact value as a signed dyadic. -/
def dyOf (neg : Bool) (m : Nat) (e : Int) : Dy := { m := if neg then -(m : Int) else m, e := e }

/-- Sum of two dyadics. -/
def dyAdd (a b : Dy) : Dy :=
  let e := min a.e b.e
  { m := a.m * 2 ^ (a.e - e).toNat + b.m * 2 ^ (b.e - e).toNat, e := e }

/-- Product of two dyadics. -/
def dyMul (a b : Dy) : Dy := { m := a.m * b.m, e := a.e + b.e }

/-- a < b. -/
def dyLt (a b : Dy) : Bool := (dyAdd a { b with m := -b.m }).m < 0

/-- Multiply exact values: NaN operands, and 0 times an infinity, give NaN; the second component is invalid. -/
def mulVal (a b : Val) : Val × Bool :=
  match a, b with
  | .nan s, .nan t => (.nan false, s || t)
  | .nan s, _ => (.nan false, s)
  | _, .nan t => (.nan false, t)
  | .inf s, .inf t => (.inf (s != t), false)
  | .inf s, .num t m _ => if m == 0 then (.nan false, true) else (.inf (s != t), false)
  | .num s m _, .inf t => if m == 0 then (.nan false, true) else (.inf (s != t), false)
  | .num s m e, .num t n g => (.num (s != t) (m * n) (e + g), false)

/-- Add exact values under a rounding mode: infinities of both signs give NaN; an exact zero sum is -0 in RDN and +0 otherwise, except
that zeros of one sign keep it (R171). -/
def addVal (mode : Nat) (a b : Val) : Val × Bool :=
  match a, b with
  | .nan s, .nan t => (.nan false, s || t)
  | .nan s, _ => (.nan false, s)
  | _, .nan t => (.nan false, t)
  | .inf s, .inf t => if s == t then (.inf s, false) else (.nan false, true)
  | .inf s, _ => (.inf s, false)
  | _, .inf t => (.inf t, false)
  | .num s m e, .num t n g =>
    let r := dyAdd (dyOf s m e) (dyOf t n g)
    if r.m == 0 then
      (.num (if m == 0 && n == 0 && s == t then s else mode == 4) 0 0, false)
    else (.num (r.m < 0) r.m.natAbs r.e, false)

/-- The value with its sign inverted. -/
def negVal (a : Val) : Val :=
  match a with
  | .nan s => .nan s
  | .inf s => .inf (!s)
  | .num s m e => .num (!s) m e

/-- A signalling NaN. -/
def isSig (a : Val) : Bool := match a with | .nan s => s | _ => false

/-- Any NaN. -/
def isNan (a : Val) : Bool := match a with | .nan _ => true | _ => false

/-- Order of two values that are no NaN; -0 equals +0. -/
def valLt (a b : Val) : Bool :=
  match a, b with
  | .inf s, .inf t => s && !t
  | .inf s, _ => s
  | _, .inf t => !t
  | .num s m e, .num t n g => dyLt (dyOf s m e) (dyOf t n g)
  | _, _ => false

/-- Equality of two values that are no NaN; -0 equals +0. -/
def valEq (a b : Val) : Bool := !isNan a && !isNan b && !valLt a b && !valLt b a

/-- The sign of a value. -/
def negOf (a : Val) : Bool := match a with | .nan _ => false | .inf s => s | .num s _ _ => s

/-- The lesser of two values that are no NaN, with -0 below +0 (R176). -/
def takesFirstMin (a b : Val) : Bool := valLt a b || (valEq a b && (negOf a || !negOf b))

/-! ### Integer square root -/

/-- ⌊√n⌋ by bits from `fuel` downward. -/
def isqrtAux : Nat → Nat → Nat → Nat
  | 0, _, r => r
  | k + 1, n, r => let t := r + 2 ^ k; isqrtAux k n (if t * t ≤ n then t else r)

/-- ⌊√n⌋. -/
def isqrt (n : Nat) : Nat := isqrtAux (Nat.log2 n / 2 + 1) n 0

/-- The square root of m * 2 ^ e as a fraction exact to far below any rounding: twice the root at 96 fraction bits, plus one when a
remainder is left, over 2 ^ 97 (with an even exponent taken out). -/
def sqrtFrac (m : Nat) (e : Int) : Nat × Nat :=
  let odd := e % 2 != 0
  let m' := if odd then 2 * m else m
  let e' := if odd then e - 1 else e
  let big := m' * 2 ^ 192
  let r := isqrt big
  let n := 2 * r + (if r * r == big then 0 else 1)
  let h := e' / 2 - 97
  (scaleUp n h, scaleUp 1 (-h))

/-! ### FP32 operations (R171, R176 to R179): code and flags -/

/-- The canonical NaN of FP32. -/
def nan32 : Nat := 0x7FC00000

/-- Round a value to FP32 with the flags of forming it. -/
def out32 (mode : Nat) (sat : Bool) (u : Nat) (r : Val × Bool) : Nat × Fl :=
  let (c, fl) := roundVal fp32 mode sat u r.1
  (c, { fl with nv := fl.nv || r.2 })

def fAdd (mode : Nat) (sat : Bool) (u : Nat) (a b : Val) : Nat × Fl := out32 mode sat u (addVal mode a b)
def fSub (mode : Nat) (sat : Bool) (u : Nat) (a b : Val) : Nat × Fl := out32 mode sat u (addVal mode a (negVal b))
def fMul (mode : Nat) (sat : Bool) (u : Nat) (a b : Val) : Nat × Fl := out32 mode sat u (mulVal a b)

/-- One rounding of a · b + c, with the product negated and the addend negated as asked. Invalid is raised by 0 · ∞ even when the addend is
a quiet NaN (R171). -/
def fFma (mode : Nat) (sat : Bool) (u : Nat) (negProd negAdd : Bool) (a b c : Val) : Nat × Fl :=
  let p := mulVal a b
  let p' := if negProd then negVal p.1 else p.1
  let c' := if negAdd then negVal c else c
  let r := addVal mode p' c'
  out32 mode sat u (r.1, r.2 || p.2)

/-- Quotient of two values. -/
def fDiv (mode : Nat) (sat : Bool) (u : Nat) (a b : Val) : Nat × Fl :=
  match a, b with
  | .nan s, .nan t => (nan32, { Fl.none with nv := s || t })
  | .nan s, _ => (nan32, { Fl.none with nv := s })
  | _, .nan t => (nan32, { Fl.none with nv := t })
  | .inf _, .inf _ => (nan32, Fl.invalid)
  | .inf s, .num t _ _ => (infCode fp32 (s != t), Fl.none)
  | .num s _ _, .inf t => (signCode fp32 (s != t), Fl.none)
  | .num s m e, .num t n g =>
    if n == 0 then
      if m == 0 then (nan32, Fl.invalid) else (infCode fp32 (s != t), { Fl.none with dz := true })
    else if m == 0 then (signCode fp32 (s != t), Fl.none)
    else
      let k := e - g
      roundFrac fp32 mode sat u (s != t) (scaleUp m k) (scaleUp n (-k))

/-- Square root. -/
def fSqrt (mode : Nat) (sat : Bool) (u : Nat) (a : Val) : Nat × Fl :=
  match a with
  | .nan s => (nan32, { Fl.none with nv := s })
  | .inf s => if s then (nan32, Fl.invalid) else (infCode fp32 false, Fl.none)
  | .num s m e =>
    if m == 0 then (signCode fp32 s, Fl.none)
    else if s then (nan32, Fl.invalid)
    else let (n, d) := sqrtFrac m e; roundFrac fp32 mode sat u false n d

/-- FP32 with a significand of 12 bits (R179): where the result is normal it lies on the 12-bit grid, and below that on the coarser of that
grid and the FP32 grid. -/
def round12 (sat : Bool) (neg : Bool) (n d : Nat) : Nat × Fl :=
  let e := floorLog n d
  let k := max (e - 11) (-149)
  let (lo, rem, den) := quotient n d k
  let m := if roundsUp 1 neg lo rem den 0 then lo + 1 else lo
  let (c, fl) := roundVal fp32 1 sat 0 (.num neg m k)
  let tiny := c % 2 ^ 31 < 2 ^ 23
  (c, { fl with nx := fl.nx || rem != 0, uf := tiny && rem != 0 })

/-- `FRCP` (R179). -/
def fRcp (sat : Bool) (a : Val) : Nat × Fl :=
  match a with
  | .nan s => (nan32, { Fl.none with nv := s })
  | .inf s => (signCode fp32 s, Fl.none)
  | .num s m e =>
    if m == 0 then (infCode fp32 s, { Fl.none with dz := true })
    else round12 sat s (scaleUp 1 (-e)) (scaleUp m e)

/-- `FRSQ` (R179). -/
def fRsq (sat : Bool) (a : Val) : Nat × Fl :=
  match a with
  | .nan s => (nan32, { Fl.none with nv := s })
  | .inf s => if s then (nan32, Fl.invalid) else (0, Fl.none)
  | .num s m e =>
    if m == 0 then (infCode fp32 s, { Fl.none with dz := true })
    else if s then (nan32, Fl.invalid)
    else let (n, d) := sqrtFrac m e; round12 sat false d n

/-- minimumNumber and maximumNumber on codes (R176). -/
def fMinMax (isMax : Bool) (a b : BitVec 32) : Nat × Fl :=
  let x := val32 a
  let y := val32 b
  let fl := { Fl.none with nv := isSig x || isSig y }
  if isNan x && isNan y then (nan32, fl)
  else if isNan x then (b.toNat, fl)
  else if isNan y then (a.toNat, fl)
  else if takesFirstMin x y != isMax then (a.toNat, fl) else (b.toNat, fl)

/-! ### FP4 blocks (R241, R242) -/

/-- The value of an E3M5 block scale. -/
def scaleVal (c : Nat) : Val :=
  if c == 0xFF then .nan false
  else if c / 32 == 0 then .num false (c % 32) (-7)
  else .num false (32 + c % 32) ((c / 32 : Nat) - 8)

/-- The value x · S · B of an FP4 element (R242): NaN first, then an infinite band, which only x = ±0 turns into NaN. -/
def fp4Val (x : Nat) (S B : Val) : Val :=
  match S, B with
  | .nan _, _ => .nan false
  | _, .nan _ => .nan false
  | _, .inf t => (mulVal (valueOf fp4 x) (.inf t)).1
  | S, B => (mulVal (mulVal (valueOf fp4 x) S).1 B).1

/-- Element j of a block of 4 bytes (R241). -/
def fp4Elem (block : Nat) (j : Nat) : Nat := bits block (4 * j) 4

/-! ### The stochastic generator (R246) -/

/-- One step of a 64-bit shift register: the bit out and the new state. -/
def lfsrStep (x : Nat) : Nat × Nat :=
  (x % 2, if x % 2 == 1 then (x / 2) ^^^ 0xD800000000000000 else x / 2)

/-- `n` steps: the bits out, first bit lowest, and the new state. -/
def lfsrSteps : Nat → Nat → Nat × Nat
  | 0, x => (0, x)
  | n + 1, x =>
    let (b, y) := lfsrStep x
    let (r, z) := lfsrSteps n y
    (b + 2 * r, z)

/-- One draw of 32 bits. -/
def draw (x : Nat) : Nat × Nat := lfsrSteps 32 x

end Sys2Proof.Machine
end

