-- ==== Sys2Proof/Machine/Formats.lean ====
section
/-! DEFINITION. Element formats by code (R239 to R243) and the conversions of the transform slot (R253 to R256). -/
namespace Sys2Proof.Machine

/-- Bytes of an element of a format; FP4 is not counted here (R239). -/
def elemBytes (code : Nat) : Nat :=
  match code with
  | 1 | 8 => 4
  | 2 => 2
  | 9 => 8
  | _ => 1

/-- The floating-point format of a code of R239. -/
def fmtOf (code : Nat) : Fmt :=
  match code with
  | 1 => fp32
  | 2 => bf16
  | 3 => e4m3
  | 4 => e5m2
  | _ => fp4

/-- An integer format. -/
def isInt (code : Nat) : Bool := code == 6 || code == 7 || code == 8 || code == 9

/-- The signed value of an integer element (R243). -/
def intOf (code v : Nat) : Int :=
  match code with
  | 6 => sextNat 8 v
  | 7 => (v % 256 : Nat)
  | 8 => sextNat 32 v
  | _ => sextNat 64 v

/-- The little-endian elements of `e` bytes each of a list of bytes. -/
def elems (e n : Nat) (bs : List Byte) : List Nat :=
  match n with
  | 0 => []
  | n + 1 => natOfBytes (bs.take e) :: elems e n (bs.drop e)

/-! ### FP32 to narrower formats (R253) -/

/-- An FP32 value to BF16 or E5M2: NaN is canonical, invalid if signalling. -/
def toNarrow (f : Fmt) (mode : Nat) (sat : Bool) (u : Nat) (x : Val) : Nat × Fl := roundVal f mode sat u x

/-- An FP32 value to E4M3 (R253): a finite overflow gives ±448; an infinity gives ±448 with sat and otherwise a NaN of its sign with invalid. -/
def toE4m3 (mode : Nat) (sat : Bool) (u : Nat) (x : Val) : Nat × Fl :=
  match x with
  | .inf neg => if sat then (maxCode e4m3 neg, Fl.none) else ((if neg then 0xFF else 0x7F), Fl.invalid)
  | x => roundVal e4m3 mode true u x

/-- An FP32 value to an integer of [lo, hi] (R253, R180): NaN gives 0 with invalid, a value outside the nearer limit with invalid. -/
def toInt (lo hi : Int) (mode u : Nat) (x : Val) : Int × Fl :=
  match x with
  | .nan _ => (0, Fl.invalid)
  | .inf neg => (if neg then lo else hi, Fl.invalid)
  | .num neg m e =>
    let (k, ch) := roundInt mode u neg m e
    if k < lo then (lo, Fl.invalid) else if k > hi then (hi, Fl.invalid) else (k, { Fl.none with nx := ch })

/-- One element of `XCVT` (R253): format code, mode, sat, draw, FP32 lane. -/
def narrowElem (code mode : Nat) (sat : Bool) (u : Nat) (x : Unit32) : Nat × Fl :=
  match code with
  | 2 => toNarrow bf16 mode sat u (val32 x)
  | 4 => toNarrow e5m2 mode sat u (val32 x)
  | 3 => toE4m3 mode sat u (val32 x)
  | 6 => let (k, f) := toInt (-128) 127 mode u (val32 x); ((k % 256).toNat, f)
  | _ => let (k, f) := toInt 0 255 mode u (val32 x); ((k % 256).toNat, f)

/-- One element of `XWIDEN` (R254). -/
def widenElem (code v : Nat) : Unit32 × Fl :=
  if isInt code then (BitVec.ofInt 32 (intOf code v), Fl.none)
  else
    let (c, f) := roundVal fp32 1 false 0 (valueOf (fmtOf code) v)
    (BitVec.ofNat 32 c, f)

/-! ### Block quantisation (R256) -/

/-- The largest finite magnitude of a format of `XPACK`. -/
def fMax (code : Nat) : Nat :=
  match code with
  | 5 => 6
  | 3 => 448
  | _ => 57344

/-- The value of a nonzero E3M5 code in units of 2 ^ -7. -/
def scaleUnits (c : Nat) : Nat := if c / 32 == 0 then c % 32 else (32 + c % 32) * 2 ^ (c / 32 - 1)

/-- The smallest E3M5 code, from `c` upward, whose value is at least n / d in units of 2 ^ -7; 0xFE if none. -/
def scaleFrom : Nat → Nat → Nat → Nat → Nat
  | 0, _, _, _ => 0xFE
  | fuel + 1, c, n, d => if c < 0xFE && scaleUnits c * d < n then scaleFrom fuel (c + 1) n d else c

/-- The scale code of a block with greatest magnitude `m * 2 ^ e` (R256). -/
def blockScale (code m : Nat) (e : Int) : Nat :=
  if m == 0 then 0x60
  else scaleFrom 254 1 (scaleUp m (e + 7)) (fMax code * scaleUp 1 (-(e + 7)))

/-- The greater magnitude of two values; an infinity beats all. -/
def absMax (a b : Val) : Val :=
  match a, b with
  | .inf _, _ => .inf false
  | _, .inf _ => .inf false
  | .num _ m e, .num _ n g => if dyLt (dyOf false m e) (dyOf false n g) then .num false n g else .num false m e
  | a, _ => a

/-- One element of a block divided by its scale and rounded (R256). -/
def packElem (code mode u scale : Nat) (x : Val) : Nat × Fl :=
  let f := fmtOf code
  match x with
  | .inf neg => (maxCode f neg, Fl.invalid)
  | .num neg m e =>
    if m == 0 then (signCode f neg, Fl.none)
    else roundFrac f mode true u neg (scaleUp m (e + 7)) (scaleUnits scale * scaleUp 1 (-(e + 7)))
  | .nan _ => (0, Fl.invalid)

end Sys2Proof.Machine
end

