-- ==== Sys2Proof/Machine/Array.lean ====
section
/-! DEFINITION. The arithmetic of the matrix array (R250, R262 to R272): operand rows, exact quarter sums, the four cell operations, sparse A,
the accord generator, projection and search. -/
namespace Sys2Proof.Machine

/-! ### Operand elements -/

/-- The exact values of the elements of an operand row of a floating-point format (R242 for FP4). -/
def rowVals (code : Nat) (r : Row) : List Val :=
  if code == 5 then
    (List.range 256).map (fun x =>
      fp4Val (fp4Elem (natOfBytes ((r.bytes.drop (x / 8 * 4)).take 4)) (x % 8))
        (scaleVal ((r.scales[x / 8]?).getD 0).toNat) (valueOf bf16 ((r.bands[x / 8]?).getD 0)))
  else (elems (elemBytes code) (128 / elemBytes code) r.bytes).map (valueOf (fmtOf code))

/-- The values of the elements of an operand row of an integer format. -/
def rowInts (code : Nat) (r : Row) : List Int := (elems 1 128 r.bytes).map (intOf code)

/-- A dense row: every element is present. -/
def allPresent {α : Type} (l : List α) : List (Option α) := l.map some

/-- Logical elements of K step `st` of a sparse row (R270): `N` stored of each 64, `e` bytes an element; `v` reads a stored element. -/
def sparseStep {α : Type} (N e st : Nat) (r : Row) (v : Nat → α) : List (Option α) :=
  (List.range (128 / e)).map (fun i =>
    let l := st * (128 / e) + i
    let g := l / 64
    let mask := natOfBytes ((r.bytes.drop (128 + 8 * g)).take 8)
    if bit mask (l % 64) then
      some (v (natOfBytes ((r.bytes.drop ((g * N + popcount (l % 64) mask) * e)).take e)))
    else none)

/-- Elements of K step `st` of an A row. -/
def aVals (j : ArrayJob) (r : Row) (st : Nat) : List (Option Val) :=
  if j.sparse == 0 then allPresent (rowVals j.aFmt r)
  else sparseStep j.sparse (elemBytes j.aFmt) st r (valueOf (fmtOf j.aFmt))
def aInts (j : ArrayJob) (r : Row) (st : Nat) : List (Option Int) :=
  if j.sparse == 0 then allPresent (rowInts j.aFmt r) else sparseStep j.sparse 1 st r (intOf j.aFmt)

/-- Quarter `q` of a list of elements (R250). -/
def quarter {α : Type} (l : List α) (q : Nat) : List α := (l.drop (q * (l.length / 4))).take (l.length / 4)

/-! ### Cell operations (R250, R269) -/

/-- An exact quarter value with its invalid flag; a real zero is +0. -/
structure QSum where
  v  : Val
  nv : Bool
  deriving DecidableEq, Repr

/-- Add one term to an exact sum: NaN stays, infinities of both signs give NaN (R250). -/
def qAdd (s : QSum) (t : Val) (tnv : Bool) : QSum :=
  let r := addVal 1 s.v t
  let v := match r.1 with | .num _ 0 _ => Val.num false 0 0 | v => v
  { v := v, nv := s.nv || tnv || r.2 }

/-- Σ a[k] · b[k] over the present elements. -/
def sumMac (a : List (Option Val)) (b : List Val) : QSum :=
  (a.zip b).foldl (fun s e => match e.1 with
    | none => s
    | some x => let p := mulVal x e.2; qAdd s p.1 p.2) ⟨.num false 0 0, false⟩

/-- The magnitude of a value. -/
def absVal (a : Val) : Val :=
  match a with
  | .nan s => .nan s
  | .inf _ => .inf false
  | .num _ m e => .num false m e

/-- Σ |a[k] - b[k]|. -/
def sumAda (a : List (Option Val)) (b : List Val) : QSum :=
  (a.zip b).foldl (fun s e => match e.1 with
    | none => s
    | some x => let p := addVal 1 x (negVal e.2); qAdd s (absVal p.1) p.2) ⟨.num false 0 0, false⟩

/-- max or min over k of a[k] + b[k]. -/
def sumExt (isMax : Bool) (a : List (Option Val)) (b : List Val) : QSum :=
  let r := (a.zip b).foldl (fun (acc : Option Val × Bool) e => match e.1 with
    | none => acc
    | some x =>
      let p := addVal 1 x e.2
      match acc.1 with
      | none => (some p.1, acc.2 || p.2)
      | some m =>
        if isNan m then (some m, acc.2 || p.2)
        else if isNan p.1 then (some p.1, acc.2 || p.2)
        else (some (if takesFirstMin m p.1 != isMax then m else p.1), acc.2 || p.2)) (none, false)
  ⟨r.1.getD (.num false 0 0), r.2⟩

/-- One quarter applied to a floating-point tile element (R250, R269): its code and flags. -/
def applyQuarter (type cell : Nat) (c : Nat) (a : List (Option Val)) (b : List Val) : Nat × Fl :=
  let f := if type == 2 then bf16 else fp32
  let cv := valueOf f c
  match cell with
  | 0 | 1 =>
    let s := if cell == 0 then sumMac a b else sumAda a b
    let (r, f1) := roundVal fp32 1 false 0 s.v
    let t := addVal 1 (valueOf fp32 r) cv
    let (d, f2) := roundVal f 1 false 0 t.1
    (d, (f1.or f2).or { Fl.none with nv := s.nv || t.2 })
  | _ =>
    let isMax := cell == 2
    let s := sumExt isMax a b
    let (r, f1) := roundVal fp32 1 false 0 s.v
    let rv := valueOf fp32 r
    let fl := f1.or { Fl.none with nv := s.nv || isSig cv }
    if isNan rv || isNan cv then (f.nan, fl)
    else
      let m := if takesFirstMin rv cv != isMax then rv else cv
      let (d, f2) := roundVal f 1 false 0 m
      (d, fl.or f2)

/-- One quarter applied to an INT32 tile element. -/
def applyQuarterInt (cell : Nat) (c : Int) (a : List (Option Int)) (b : List Int) : Int :=
  let terms := (a.zip b).filterMap (fun e => e.1.map (fun x => (x, e.2)))
  match cell with
  | 0 => sextNat 32 (wrap32 (c + (terms.map (fun e => e.1 * e.2)).sum)).toNat
  | 1 => sextNat 32 (wrap32 (c + (terms.map (fun e => ((e.1 - e.2).natAbs : Int))).sum)).toNat
  | 2 => terms.foldl (fun m e => max m (e.1 + e.2)) c
  | _ => terms.foldl (fun m e => min m (e.1 + e.2)) c

/-- One K step applied to an element. -/
def applyStep (j : ArrayJob) (c : Nat × Fl) (a b : Row) (st : Nat) : Nat × Fl :=
  if j.type == 8 then
    let av := aInts j a st
    let bv := rowInts j.bFmt b
    let r := (List.range 4).foldl (fun c q => applyQuarterInt ((j.cells[q]?).getD 0) c (quarter av q) (quarter bv q)) (sextNat 32 c.1)
    ((wrap32 r).toNat, c.2)
  else
    let av := aVals j a st
    let bv := rowVals j.bFmt b
    (List.range 4).foldl (fun c q =>
      let r := applyQuarter j.type ((j.cells[q]?).getD 0) c.1 (quarter av q) (quarter bv q)
      (r.1, c.2.or r.2)) c

/-- An operand row of zeros, for a row that was not captured. -/
def zeroRow : Row := { bytes := List.replicate 128 0, scales := [], bands := [] }

/-- The result of a multiply on the bytes of its tile (R276): the new bytes and the flags of group M. -/
def multiply (j : ArrayJob) (old : Memory) : Memory × Fl :=
  let e := elemBytes j.type
  (List.range (j.rows * j.cols)).foldl (fun (acc : Memory × Fl) x =>
    let a := (j.a[x / j.cols]?).getD zeroRow
    let c0 := peekNat acc.1 (x * e) e
    let r := (List.range j.steps).foldl (fun c st =>
      applyStep j c a ((j.b[st * j.cols + x % j.cols]?).getD zeroRow) st) (c0, acc.2)
    (pokeNat acc.1 (x * e) e r.1, r.2)) (old, Fl.none)

/-! ### The accord generator (R271, R272) -/

/-- A descriptor (R271): seed, J, format, K, N, and the coefficients c[j][n] at j * N + n. -/
structure Accord where
  seed  : Nat
  J     : Nat
  fmt   : Nat
  K     : Nat
  N     : Nat
  coef  : List Nat
  deriving DecidableEq, Repr

/-- The descriptor in a run of bytes. -/
def accordOf (bs : List Byte) : Accord :=
  let at_ := fun (o n : Nat) => natOfBytes ((bs.drop o).take n)
  let J := at_ 8 1
  let N := at_ 12 2
  { seed := at_ 0 8, J := J, fmt := at_ 9 1, K := at_ 10 2, N := N, coef := elems 2 (J * N) (bs.drop 64) }

/-- Bytes of a descriptor. -/
def accordBytes (d : Accord) : Nat := 64 + 2 * d.J * d.N

/-- `n` consecutive runs of 128 output bits of the generator (R272). -/
def bitRows : Nat → Nat → List Nat
  | 0, _ => []
  | n + 1, x => let (r, y) := lfsrSteps 128 x; r :: bitRows n y

/-- bit(j, k, n) of a list of runs. -/
def accBit (rows : List Nat) (j k n : Nat) : Bool := bit ((rows[j * 128 + k]?).getD 0) n

/-- An accumulation in FP32. -/
def acc32 (acc : Nat × Fl) (t : Val) : Nat × Fl :=
  let r := addVal 1 (valueOf fp32 acc.1) t
  let (c, f) := roundVal fp32 1 false 0 r.1
  (c, (acc.2.or f).or { Fl.none with nv := r.2 })

/-- A value with its sign inverted when a bit is set. -/
def signBy (b : Bool) (v : Val) : Val := if b then negVal v else v

/-- w[k][n] of a descriptor (R272): the code in the B format and the flags. -/
def weight (d : Accord) (rows : List Nat) (k n : Nat) : Nat × Fl :=
  let acc := (List.range d.J).foldl (fun acc j =>
    acc32 acc (signBy (accBit rows j k n) (valueOf bf16 ((d.coef[j * d.N + n]?).getD 0)))) (0, Fl.none)
  match d.fmt with
  | 1 => acc
  | 3 => let (c, f) := toE4m3 1 true 0 (valueOf fp32 acc.1); (c, acc.2.or f)
  | f => let (c, fl) := toNarrow (fmtOf f) 1 true 0 (valueOf fp32 acc.1); (c, acc.2.or fl)

/-- The operand rows of the descriptor's weight tile in the B layout, row n holding w[0..K-1][n], and the flags. -/
def weightRows (d : Accord) : List Row × Fl :=
  let rows := bitRows (d.J * 128) d.seed
  (List.range d.N).foldl (fun (acc : List Row × Fl) n =>
    let ws := (List.range d.K).map (fun k => weight d rows k n)
    (acc.1 ++ [{ bytes := ws.flatMap (fun w => bytesOf (elemBytes d.fmt) w.1), scales := [], bands := [] }],
      ws.foldl (fun f w => f.or w.2) acc.2)) ([], Fl.none)

/-- The values of a tile of scratchpad rows, w[k][n] at row n, element k. -/
def tileVals (fmt : Nat) (rows : List Row) : List (List Val) := rows.map (rowVals fmt)

/-- c[j][n] of a projection (R280): the BF16 code and the flags. -/
def project (d : Accord) (bits : List Nat) (w : List (List Val)) (j n : Nat) : Nat × Fl :=
  let col := (w[n]?).getD []
  let acc := (List.range 4).foldl (fun (acc : Nat × Fl) q =>
    let s := (List.range (d.K / 4)).foldl (fun s i =>
      let k := q * (d.K / 4) + i
      qAdd s (signBy (accBit bits j k n) ((col[k]?).getD (.num false 0 0))) false) ⟨.num false 0 0, false⟩
    let sg := col.any isSig
    let (r, f) := roundVal fp32 1 false 0 s.v
    acc32 (acc.1, (acc.2.or f).or { Fl.none with nv := s.nv || sg }) (valueOf fp32 r)) (0, Fl.none)
  let v := match valueOf fp32 acc.1 with
    | .num s m e => .num s m (e - (Nat.log2 d.K : Nat))
    | v => v
  let (c, f) := roundVal bf16 1 false 0 v
  (c, acc.2.or f)

/-- The coefficients of a projection at j * N + n. -/
def projectAll (d : Accord) (bits : List Nat) (w : List (List Val)) : List Nat × Fl :=
  let cs := (List.range (d.J * d.N)).map (fun x => project d bits w (x / d.N) (x % d.N))
  (cs.map (fun c => c.1), cs.foldl (fun f c => f.or c.2) Fl.none)

/-- The square of a value. -/
def sqVal (v : Val) : Val := (mulVal v v).1

/-- The residual of a candidate (R281). -/
def residual (d : Accord) (target cand : List (List Val)) : Nat × Fl :=
  (List.range d.N).foldl (fun acc n =>
    (List.range 4).foldl (fun (acc : Nat × Fl) q =>
      let s := (List.range (d.K / 4)).foldl (fun s i =>
        let k := q * (d.K / 4) + i
        let t := addVal 1 ((((target[n]?).getD [])[k]?).getD (.num false 0 0)) (negVal ((((cand[n]?).getD [])[k]?).getD (.num false 0 0)))
        qAdd s (sqVal t.1) t.2) ⟨.num false 0 0, false⟩
      let (r, f) := roundVal fp32 1 false 0 s.v
      acc32 (acc.1, (acc.2.or f).or { Fl.none with nv := s.nv }) (valueOf fp32 r)) acc) (0, Fl.none)

/-- A seed tried by `ASEEK`: seed, coefficients, residual, flags. -/
structure Trial where
  seed  : Nat
  coef  : List Nat
  res   : Nat
  flags : Fl
  deriving DecidableEq, Repr

/-- Try one seed. -/
def tryTrial (d : Accord) (target : List (List Val)) (seed : Nat) : Trial :=
  let bits := bitRows (d.J * 128) seed
  let (cf, f1) := projectAll d bits target
  let (rows, f2) := weightRows { d with seed := seed, coef := cf }
  let (r, f3) := residual d target (tileVals d.fmt rows)
  { seed := seed, coef := cf, res := r, flags := (f1.or f2).or f3 }

/-- a is better than b (R281): NaN counts as greater than every number and equal to NaN. -/
def trialBetter (a b : Trial) : Bool :=
  let x := valueOf fp32 a.res
  let y := valueOf fp32 b.res
  let lt := if isNan x then false else if isNan y then true else valLt x y
  let eq := if isNan x then isNan y else valEq x y
  lt || (eq && a.seed < b.seed)

/-- The search of `ASEEK` (R281): `count` seeds from `s`, skipping 0. -/
def seek (d : Accord) (target : List (List Val)) : Nat → Nat → Option Trial → Option Trial
  | 0, _, best => best
  | count + 1, s, best =>
    let s := if s == 0 then 1 else s
    let t := tryTrial d target s
    seek d target count ((s + 1) % 2 ^ 64) (match best with
      | none => some t
      | some b => if trialBetter t b then some t else some b)

end Sys2Proof.Machine
end

