-- ==== Sys2Proof/Machine/Operands.lean ====
section
/-! DEFINITION. Reading operands: registers with the unspecified window of R131, matrix operands in their four directions and with
rotating rows (R99, R139 to R143), guards, lane masks and immediates (R92, R97). -/
namespace Sys2Proof.Machine

/-! ### Places -/

/-- A number for each place, to apply free values to. -/
def locCode (l : Loc) : Nat :=
  match l with
  | .g n => n
  | .p n => 64 + n
  | .k n => 80 + n
  | .h n => 96 + n
  | .bt n => 128 + n
  | .tile n => 136 + n
  | .fslot n => 140 + n
  | .el f i => 1024 + 4096 * f + i

/-- Old value or one of the values in flight (R131): the values are those a read may obtain, the stored one first. -/
def window {α : Type} (s : State) (l : Loc) (stored : α) (flying : List α) : α :=
  match flying with
  | [] => stored
  | _ =>
    let all := stored :: flying
    (all[Config.pick s.free (locCode l + 2 ^ 20 * (3 * s.cur.core + s.cur.bank)) % all.length]?).getD stored

/-- The landings of a flight still to come. -/
def toLand (f : Flight) : List Write := (f.writes.filter (fun e => f.age < e.1)).map (fun e => e.2)

/-- The results of earlier bundles that are in flight: those of the bundle now issuing have age 0 and are not seen by it (R130). -/
def flying (x : Ctx) : List Flight := x.flights.filter (fun f => 0 < f.age)

/-! ### Registers (R139) -/

/-- g[n] as an instruction issuing now reads it; g0 is zero. -/
def regG (s : State) (n : Nat) : Word :=
  if n = 0 then 0
  else window s (.g n) (tgetD (me s).g n 0)
    ((flying (me s)).flatMap (fun f => (toLand f).filterMap (fun w => match w with
      | .g m v => if m = n then some v else none
      | _ => none)))

/-- p[n] as an instruction issuing now reads it; p0 is true. -/
def regP (s : State) (n : Nat) : Bool :=
  if n = 0 then true
  else window s (.p n) (tgetD (me s).p n false)
    ((flying (me s)).flatMap (fun f => (toLand f).filterMap (fun w => match w with
      | .p m v => if m = n then some v else none
      | _ => none)))

/-- k[n] as an instruction issuing now reads it; k0 is all ones. -/
def regK (s : State) (n : Nat) : Word :=
  if n = 0 then BitVec.allOnes 64
  else
    let old := tgetD (me s).k n 0
    window s (.k n) old
      ((flying (me s)).flatMap (fun f => (toLand f).filterMap (fun w => match w with
        | .k m mask v => if m = n then some ((old &&& ~~~mask) ||| (v &&& mask)) else none
        | _ => none)))

/-- h[n] as an instruction issuing now reads it. -/
def regH (s : State) (n : Nat) : Word128 :=
  window s (.h n) (tgetD (me s).h n 0)
    ((flying (me s)).flatMap (fun f => (toLand f).filterMap (fun w => match w with
      | .h m v => if m = n then some v else none
      | _ => none)))

/-- bt[n] as an instruction issuing now reads it. -/
def regBt (s : State) (n : Nat) : Word := tgetD (me s).bt n 0

/-! ### Matrix operands -/

/-- The window rows of a two-bit code of `rwin` (R142). -/
def windowRows (code : Nat) : Nat :=
  match code with
  | 0 => 64
  | 1 => 32
  | 2 => 16
  | _ => 8

/-- A matrix operand of a cluster (0 A, 1 B) resolved with the bases in force (R99, R142, R143). -/
def matOp (x : Ctx) (cluster : Nat) (f : BitVec 10) : MOp :=
  let n := f.toNat
  { file := 4 * cluster + n % 4, dir := bits n 2 2, idx := bits n 4 6,
    base := if cluster = 0 then x.rba else x.rbb, win := windowRows (bits x.rwin.toNat (2 * cluster) 2) }

/-- The same operand with its index advanced by `r` modulo 64 (R189). -/
def advance (o : MOp) (r : Nat) : MOp := { o with idx := (o.idx + r) % 64 }

/-- Row and column of lane `i` of an operand before rotation (R140). -/
def laneCell (o : MOp) (i : Nat) : Nat × Nat :=
  match o.dir with
  | 0 => (o.idx, i)
  | 1 => (i, o.idx)
  | 2 => (i, (i + o.idx) % 64)
  | _ => (i, (o.idx + 64 - i) % 64)

/-- The physical row of a row of a file: rows of matrix 3 below the window rotate (R142). -/
def physRow (o : MOp) (row : Nat) : Nat :=
  if o.file % 4 = 3 ∧ row < o.win then (row + o.base) % o.win else row

/-- The element that lane `i` of an operand names: 64 times its physical row plus its column. -/
def laneEl (o : MOp) (i : Nat) : Nat := 64 * physRow o (laneCell o i).1 + (laneCell o i).2

/-- The lanes of a row. -/
def lanes : List Nat := List.range 64

/-- The table key of an element of a file. -/
def elKey (file idx : Nat) : Nat := 4096 * file + idx

/-- What the results in flight of a context may hold for an element: the value where it was fixed at issue, a free value where it still
depends on later reads. -/
def flyingEls (s : State) (x : Ctx) (file idx : Nat) : List Unit32 :=
  (flying x).flatMap (fun f =>
    let known := (toLand f).filterMap (fun w => match w with
      | .els g vs => if g = file then (vs.find? (fun e => e.1 == idx)).map (fun e => e.2) else none
      | _ => none)
    let unknown := f.late != .none && f.late != .load && f.dests.any (fun d => d.1 == .el file idx && f.age < d.2)
    if unknown then (Config.freeWord s.free (locCode (.el file idx))).setWidth 32 :: known else known)

/-- One element of a file of the acting context, as an instruction issuing now reads it. -/
def readEl (s : State) (file idx : Nat) : Unit32 :=
  window s (.el file idx) (tgetD (me s).m (elKey file idx) 0) (flyingEls s (me s) file idx)

/-- The 64 lanes of a matrix operand. -/
def readOp (s : State) (o : MOp) : List Unit32 := lanes.map (fun i => readEl s o.file (laneEl o i))

/-- An element's stored value, for reads that a result in flight makes after its issue. -/
def storedEl (x : Ctx) (file idx : Nat) : Unit32 := tgetD x.m (elKey file idx) 0

/-- Lane `i` of a list of lanes. -/
def lane (v : List Unit32) (i : Nat) : Unit32 := (v[i]?).getD 0

/-- Lane `i` is on in a mask (R140). -/
def laneOn (mask : Word) (i : Nat) : Bool := bit mask.toNat i

/-- The landing of lanes of an operand under a mask: each lane that is on takes its value (R140). -/
def lanesOut (o : MOp) (mask : Word) (v : Nat → Unit32) : Write :=
  .els o.file ((lanes.filter (laneOn mask)).map (fun i => (laneEl o i, v i)))

/-- The places a matrix operand names. -/
def opLocs (o : MOp) : List Loc := lanes.map (fun i => .el o.file (laneEl o i))

/-! ### Guards, masks, immediates -/

/-- The guard of an instruction (R97): its predicate, negated when neg is set. -/
def guardOn (s : State) (x : Mod) : Bool := regP s x.pred.toNat != x.neg

/-- The cluster of the slot that issues a VV word (R99): VB is cluster B. -/
def clusterOf (s : State) : Nat := if s.cur.slot = 5 then 1 else 0

/-- A prefix is in front and its sat is set (R91). -/
def satOf (x : Mod) : Bool := match x.pfx with | some p => p.sat | none => false

/-- A prefix is in front and its nfl is set (R91). -/
def nflOf (x : Mod) : Bool := match x.pfx with | some p => p.nfl | none => false

/-- The immediate of an instruction that honours ext (R92): the field sign-extended, or under a prefix ext above it. -/
def immExt (x : Mod) (w : Nat) (field : Nat) : Int :=
  match x.pfx with
  | some p => sextNat (w + 16) (field % 2 ^ w + 2 ^ w * p.ext.toNat)
  | none => sextNat w field

/-- The rounding mode of an instruction (R171, R245): its prefix's rnd, or the mode in force; 1 RNE to 6 stochastic. -/
def modeOf (s : State) (x : Mod) : Nat :=
  let r := match x.pfx with | some p => p.rnd.toNat | none => 0
  let m := if r = 0 then (me s).fmode.toNat % 8 else r
  if m = 0 then 1 else m

end Sys2Proof.Machine
end

