-- ==== Sys2Proof/Machine/Coherence.lean ====
section
/-! DEFINITION. Global memory under the phase consistency model (R318 to R335): the coherence history, publications, refreshes,
and what a load of a party returns for each byte. -/
namespace Sys2Proof.Machine

/-- Places compare by their keys in turn (R320). -/
def placeLe (a b : Place) : Bool :=
  if a.gclk != b.gclk then a.gclk < b.gclk
  else if a.round != b.round then a.round < b.round
  else if a.core != b.core then a.core < b.core
  else if a.stream != b.stream then a.stream < b.stream
  else a.sub ≤ b.sub

/-- The later of two refreshes. -/
def laterPlace (a : Option Place) (b : Place) : Option Place :=
  match a with
  | none => some b
  | some p => if placeLe p b then some b else some p

/-- Whether party `t` belongs to the instance of party `p` at a scope (R318; 0 strand, 1 core, 2 die, 3 and above device). -/
def inInstance (p t : Party) (scope : Nat) : Bool :=
  match scope with
  | 0 => p == t
  | 1 => match p, t with
    | .strand c _ _, .strand d _ _ => c == d
    | a, b => a == b
  | 2 => match p, t with
    | .strand c _ _, .strand d _ _ => dieOf c == dieOf d
    | .strand c _ _, .sched => dieOf c == 0
    | .sched, .strand c _ _ => dieOf c == 0
    | a, b => a == b
  | _ => true

/-- The strand that a context holds, as a party (R318): a new strand on the same context is another party. -/
def partyOf (s : State) (core bank : Nat) : Party := .strand core bank (ctxAt s core bank).strand

/-- The refreshes of a party: its latest place at each scope (R322). A refresh at a wide scope is no refresh at a narrower one. -/
def refreshAt (seen : Seen) (scope : Nat) : Option Place :=
  match scope with
  | 1 => seen.core
  | 2 => seen.die
  | 3 => seen.device
  | _ => none

/-- A publication is visible to a refresh of `t` at `scope` (R322). -/
def pubVisible (t : Party) (seen : Seen) (scope : Nat) (p : Pub) : Bool :=
  match refreshAt seen scope with
  | none => false
  | some q => inInstance p.party t p.scope && inInstance t p.party scope && placeLe p.place q

/-- A write of the history is among the visible writes of `t` (R322). -/
def entryVisible (t : Party) (seen : Seen) (e : HistEntry) : Bool :=
  e.pubs.any (fun p => pubVisible t seen 1 p || pubVisible t seen 2 p || pubVisible t seen 3 p)

/-- The byte a write holds for an address, if it covers it. -/
def byteIn (bs : List (Nat × Byte)) (a : Nat) : Option Byte := (bs.find? (fun e => e.1 == a)).map (fun e => e.2)

/-- The latest byte of the history that satisfies `ok`, or the byte present at the first bring-up (R323). -/
def histByte (first : Memory) (hist : List HistEntry) (ok : HistEntry → Bool) (a : Nat) : Byte :=
  match hist with
  | [] => peek first a
  | e :: r =>
    match byteIn e.bytes a with
    | some b => if ok e then b else histByte first r ok a
    | none => histByte first r ok a

/-- The byte at the home slice: the latest in the coherence order (R330). -/
def homeByte (s : State) (a : Nat) : Byte := histByte s.first s.hist (fun _ => true) a

/-- The latest own store of a strand that is not yet published and covers a byte (R323). -/
def ownByte (own : List OwnStore) (a : Nat) : Option Byte :=
  match own with
  | [] => none
  | e :: r =>
    match ownByte r a with
    | some b => some b
    | none => byteIn e.bytes a

/-- The byte a global load of a strand returns (R323): its own unpublished store, or the latest in the coherence order among its
visible writes and its own stores. -/
def loadByte (s : State) (t : Party) (x : Ctx) (a : Nat) : Byte :=
  match ownByte x.own a with
  | some b => b
  | none => histByte s.first s.hist (fun e => (e.party == t && !e.atomic) || entryVisible t x.seen e) a

/-- `n` bytes of a global load of the strand in (core, bank). -/
def loadBytes (s : State) (core bank a n : Nat) : List Byte :=
  (List.range n).map (fun i => loadByte s (partyOf s core bank) (ctxAt s core bank) (a + i))

/-- A byte read by a party that refreshes at `scope` as it reads and has no own stores (R333, R335). -/
def freshByte (s : State) (t : Party) (scope : Nat) (now : Place) (a : Nat) : Byte :=
  let seen : Seen :=
    { core := if scope == 1 then some now else none, die := if scope == 2 then some now else none,
      device := if scope ≥ 3 then some now else none }
  histByte s.first s.hist (fun e => entryVisible t seen e) a

/-- Add a publication to the writes of a party that lie in the history already (R319). -/
def republish (who : Party) (p : Pub) (hist : List HistEntry) : List HistEntry :=
  hist.map (fun e => if e.party == who then { e with pubs := e.pubs ++ [p] } else e)

/-- The writes of one publication take places in issue order (R321): unpublished stores, oldest first, go to the front of the history
one by one. -/
def enterHistory (who : Party) (kernel : Nat) (p : Pub) (own : List OwnStore) (hist : List HistEntry) : List HistEntry :=
  match own with
  | [] => hist
  | e :: r =>
    enterHistory who kernel p r ({ party := who, kernel := kernel, atomic := false, bytes := e.bytes, pubs := [p] } :: hist)

/-- The next place tag: every boundary takes its own (R320). -/
def nextStamp (s : State) : State := { s with stamp := s.stamp + 1 }

/-- The scope of a publication as the history keeps it: `.domain` acts as `.device` (R332). -/
def memScope (scope : Nat) : Nat := if scope ≥ 3 then 3 else scope

/-- Two contexts of a core hold strands of one iteration: its primary one and a secondary one that it started (R43, R128). -/
def sameIteration (x y : Ctx) : Bool := x.kernel == y.kernel && x.ordinal == y.ordinal && y.life != .empty

/-- Change a context together with the other strands of its iteration: the epoch and the issue order are the iteration's (R338). -/
def modIteration (s : State) (core bank : Nat) (f : Ctx → Ctx) : State :=
  let x := ctxAt s core bank
  [0, 1, 2].foldl (fun s b => if b == bank || sameIteration x (ctxAt s core b) then modCtx s core b f else s) s

/-- A publishing boundary of the strand in (core, bank) at `scope` and `place` (R319, R321): it covers the stores that `before` picks. -/
def publishOf (s : State) (core bank scope : Nat) (place : Place) (before : OwnStore → Bool) : State :=
  let x := ctxAt s core bank
  let who := partyOf s core bank
  let p : Pub := { party := who, scope := memScope scope, place := place }
  let s := nextStamp { s with hist := enterHistory who x.kernel p (x.own.filter before) (republish who p s.hist) }
  let s := setCtx s core bank { x with own := x.own.filter (fun o => !before o) }
  if scope ≥ 3 then modIteration s core bank (fun x => { x with epoch := x.epoch + 1 }) else s

/-- A publishing boundary that covers every store the strand has issued. -/
def publish (s : State) (core bank scope : Nat) (place : Place) : State := publishOf s core bank scope place (fun _ => true)

/-- A refreshing boundary of the strand in (core, bank) at `scope` and `place` (R322). -/
def refresh (s : State) (core bank scope : Nat) (place : Place) : State :=
  modCtx (nextStamp s) core bank (fun x =>
    { x with seen :=
      { core := if scope == 1 then laterPlace x.seen.core place else x.seen.core,
        die := if scope == 2 then laterPlace x.seen.die place else x.seen.die,
        device := if scope ≥ 3 then laterPlace x.seen.device place else x.seen.device } })

/-- A global store of the acting context: private until it is published (R194, R323). -/
def storeGlobal (s : State) (bs : List (Nat × Byte)) : State :=
  modMe s (fun x => { x with own := x.own ++ [{ index := x.index, bytes := bs }] })

/-- A write published at once by a party (an atomic, a host write, an engine write with `.rel`): it takes the next place in the coherence
order (R321, R330). -/
def writeHome (s : State) (who : Party) (kernel : Nat) (atomic : Bool) (scope : Nat) (place : Place)
    (bs : List (Nat × Byte)) : State :=
  nextStamp { s with hist :=
    { party := who, kernel := kernel, atomic := atomic, bytes := bs,
      pubs := [{ party := who, scope := memScope scope, place := place }] } :: s.hist }

/-- The place of a boundary of a core in this arithmetic cycle (R320): by its stream, and an engine command by its tag after the strands. -/
def corePlace (s : State) (core stream : Nat) : Place :=
  { gclk := s.gclk, round := s.rounds, core := core, stream := stream, sub := s.stamp }

/-- A place after everything that has been placed and before everything still to come: behind the core that had its turn last. -/
def afterCore (s : State) (stream : Nat) : Place :=
  if s.turn == 0 then { gclk := s.roundGclk, round := s.rounds - 1, core := 95, stream := stream, sub := s.stamp }
  else { corePlace s (s.turn - 1) stream with sub := s.stamp }

/-- The place of what R320 gives no key: the global scheduler, the firmware, an atomic as it is performed and an acquire point. It comes as it
happens (log entry 45). -/
def nowPlace (s : State) : Place := afterCore s 100

/-- The place of a host request: last in its gclk (R320). -/
def hostPlace (s : State) : Place := { afterCore s 0 with core := 97 }

/-- The place of a boundary of an engine command (R320): after the strands of its core, by tag. -/
def enginePlace (s : State) (tag : Nat) : Place := afterCore s (3 + tag)

/-- The core whose turn was last. -/
def lastCore (s : State) : Nat := if s.turn == 0 then 95 else s.turn - 1

/-- A boundary that the schedule places may take a place now: it is not before one that has been taken (R320). -/
def placeOpen (s : State) (p : Place) : Bool := placeLe s.boundary p

/-- A boundary has taken its place. -/
def takePlace (s : State) (p : Place) : State := { s with boundary := p }

/-- gclk moves on when this arithmetic cycle ends. A strand's boundary waits for the last cycle of its gclk, so that those of lower cores at the same
gclk come before it (R320, R65). -/
def gclkMoves (s : State) : Bool := s.holdNow < (s.gfrac + 30) / (30 - s.clockStep % 21)

/-- The arithmetic cycle of the core that had its turn last is the last of its gclk. -/
def roundMoved (s : State) : Bool := if s.turn == 0 then s.roundGclk < s.gclk else gclkMoves s

/-- A write of the global scheduler's firmware, published at the device (R27, R31). -/
def schedWrite (s : State) (a : Nat) (bs : List Byte) : State :=
  writeHome s .sched 0 false 3 (nowPlace s) ((List.range bs.length).zip bs |>.map (fun e => (a + e.1, e.2)))

/-- A host write, published at the device in mailbox order (R333). -/
def hostWrite (s : State) (a : Nat) (bs : List Byte) : State :=
  writeHome s .host 0 false 3 (hostPlace s) ((List.range bs.length).zip bs |>.map (fun e => (a + e.1, e.2)))

/-- Bytes that the host or the scheduler reads at the device-scope ordering point (R27, R333). -/
def deviceBytes (s : State) (a n : Nat) : List Byte :=
  (List.range n).map (fun i => freshByte s .host 3 { corePlace s 98 0 with sub := s.stamp } (a + i))

/-- A little-endian number read at the device-scope ordering point. -/
def deviceNat (s : State) (a n : Nat) : Nat := natOfBytes (deviceBytes s a n)

/-- Kernel completion publishes every global write of the kernel at the device (R319, R334). -/
def publishKernel (s : State) (kernel : Nat) : State :=
  let p : Pub := { party := .sched, scope := 3, place := nowPlace s }
  nextStamp { s with hist := s.hist.map (fun e => if e.kernel == kernel then { e with pubs := e.pubs ++ [p] } else e) }

end Sys2Proof.Machine
end

