-- ==== Sys2Proof/Machine/Csr.lean ====
section
/-! DEFINITION. The special registers (R361): which exist, what a read returns, and the effect of a write that has passed its checks
(R245, R246, R249, R301, R351, R362, R378, R384). -/
namespace Sys2Proof.Machine

/-! ### Data mappings -/

/-- Bytes of a page by its size code (R196). -/
def pageBytes (size : Nat) : Nat :=
  match size with
  | 0 => 2 ^ 16
  | 1 => 2 ^ 21
  | _ => 2 ^ 30

/-- The data mapping that covers a virtual address in a space (R196). -/
def findMap (s : State) (pasid : Nat) (va : Word) : Option DataMap :=
  s.maps.find? (fun m => m.pasid == pasid && va.toNat / pageBytes m.size == m.va.toNat / pageBytes m.size)

/-- The physical address of a virtual one under a mapping. -/
def mappedAddr (m : DataMap) (va : Word) : Nat := m.pa + va.toNat % pageBytes m.size

/-- The physical address of a byte of a device-owned page with W set, as the log and dump registers need it (R378). -/
def writablePa (s : State) (pasid : Nat) (va : Word) : Option Nat :=
  if !canonicalVa va then none
  else match findMap s pasid va with
    | none => none
    | some m => if m.host || !bit m.perms 1 then none else some (mappedAddr m va)
where
  /-- Bits [63:57] copy bit 56 (R196). -/
  canonicalVa (va : Word) : Bool := bits va.toNat 57 7 == (if bit va.toNat 56 then 127 else 0)

/-! ### Numbers of the registers -/

/-- The log and field that a CSR number of 0x140 to 0x16F names (R378). -/
def logCsr (n : Nat) : Option (Nat × Nat) :=
  if 0x140 ≤ n && n < 0x170 && (n - 0x140) % 8 < 6 then some ((n - 0x140) / 8, (n - 0x140) % 8) else none

/-- A register that each primary context holds and the secondary does not (R361, R384). -/
def primaryCsr (n : Nat) : Bool :=
  (0x010 ≤ n && n ≤ 0x016) || n == 0x018 || (0x140 ≤ n && n < 0x146) || n == 0x182 || n == 0x183

/-- A register number of R361 that exists. -/
def csrExists (n : Nat) : Bool :=
  n ≤ 0x007 || (0x010 ≤ n && n ≤ 0x016) || (0x018 ≤ n && n ≤ 0x01C) || n == 0x020 || (0x030 ≤ n && n ≤ 0x04F)
    || (0x050 ≤ n && n ≤ 0x05F) || (0x060 ≤ n && n ≤ 0x067) || (0x080 ≤ n && n ≤ 0x0C7) || (0x100 ≤ n && n ≤ 0x11F)
    || (logCsr n).isSome || n == 0x170 || n == 0x171 || (0x180 ≤ n && n ≤ 0x183) || (0x1C0 ≤ n && n ≤ 0x1FF)

/-- A register that programs may write (R351, R361, R378, R384); `skey` is written and never read. -/
def csrWritable (n : Nat) : Bool :=
  n == 0x003 || n == 0x006 || (0x010 ≤ n && n ≤ 0x016) || (0x030 ≤ n && n ≤ 0x04F) || (0x100 ≤ n && n ≤ 0x11F)
    || (logCsr n).isSome || (0x180 ≤ n && n ≤ 0x183)

/-! ### Reading -/

/-- A field of a log's registers (R378). -/
def logField (l : LogRegs) (f : Nat) : Word :=
  match f with
  | 0 => l.base
  | 1 => l.lim
  | 2 => l.hw
  | 3 => l.sbase
  | 4 => l.slim
  | _ => l.sptr

/-- The registers of a log, as a context of a core sees them (R377). -/
def logRegs (s : State) (core bank log : Nat) : LogRegs :=
  let x := ctxAt s core bank
  match log with
  | 0 => x.log0
  | 1 => tgetD (partAt s x.part).log1 (dieOf core) LogRegs.reset
  | 2 => (coreAt s core).log2
  | 3 => (coreAt s core).log3
  | 4 => tgetD (partAt s x.part).log4 (dieOf core) LogRegs.reset
  | _ => (partAt s x.part).log5

/-- A format window of a die (R248). -/
def windowAt (s : State) (die w : Nat) : Window := tgetD s.windows (8 * die + w) Window.reset

/-- One of the four CSRs of a window (R248). -/
def windowField (w : Window) (f : Nat) : Word :=
  match f with
  | 0 => w.base
  | 1 => w.lim
  | 2 => w.bsc
  | _ => w.bnd

/-- The index of a core in its partition (R53). -/
def partIndex (s : State) (part core : Nat) : Nat := ((coresOf s part).filter (fun c => c < core)).length

/-- The value a read of a CSR returns in a context of a core (R361, R362). -/
def csrValue (s : State) (core bank n : Nat) : Word :=
  let c := coreAt s core
  let x := ctxIn c bank
  let p := partAt s x.part
  match n with
  | 0x000 => x.tcause | 0x001 => x.tval | 0x002 => x.epc | 0x003 => x.hvec | 0x004 => x.tstat | 0x005 => x.tpbt
  | 0x006 => x.tscr | 0x007 => x.ehome
  | 0x010 => x.fflags | 0x011 => x.fmode | 0x012 => x.srng | 0x013 => x.icfg | 0x014 => x.rwin
  | 0x015 => BitVec.ofNat 64 x.rba | 0x016 => BitVec.ofNat 64 x.rbb | 0x018 => x.scyc
  | 0x019 => c.wcyc | 0x01A => c.secins | 0x01B => BitVec.ofNat 64 s.conf.features
  | 0x01C => BitVec.ofNat 64 (core + 2 ^ 8 * x.part + 2 ^ 16 * partIndex s x.part core)
  | 0x020 => c.ctb
  | 0x170 => p.rmode | 0x171 => x.wpinfo | 0x180 => p.stctl | 0x181 => p.stdmp | 0x182 => x.bkps | 0x183 => x.bkpa
  | n =>
    if 0x050 ≤ n && n ≤ 0x05F then (tgetD s.ports (n - 0x050) Port.reset).delay
    else if 0x060 ≤ n && n ≤ 0x067 then (tgetD p.keys (n - 0x060) KeySlot.reset).counter
    else if 0x080 ≤ n && n ≤ 0x0BF then tgetD c.tgst (n - 0x080) 0
    else if 0x0C0 ≤ n && n ≤ 0x0C7 then tgetD p.rl (n - 0x0C0) 0
    else if 0x100 ≤ n && n ≤ 0x11F then windowField (windowAt s (dieOf core) ((n - 0x100) / 4)) ((n - 0x100) % 4)
    else match logCsr n with
      | some (4, 2) => tgetD p.hw4 (384 * dieOf core) 0
      | some (l, f) => logField (logRegs s core bank l) f
      | none => if 0x1C0 ≤ n && n ≤ 0x1FF then tgetD s.counters n 0 else 0

/-! ### Writing -/

/-- Write a field of a log's registers (R378): a new base or limit puts the high-water at the base, a new spill base puts the spill
pointer there. -/
def logFieldSet (l : LogRegs) (f : Nat) (v : Word) (pa : Nat) : LogRegs :=
  match f with
  | 0 => { l with base := v, hw := v, pa := pa }
  | 1 => { l with lim := v, hw := l.base }
  | 2 => { l with hw := v }
  | 3 => { l with sbase := v, sptr := v, spa := pa }
  | 4 => { l with slim := v }
  | _ => { l with sptr := v }

/-- Replace the registers of a log. -/
def setLogRegs (s : State) (core bank log : Nat) (l : LogRegs) : State :=
  let part := (ctxAt s core bank).part
  match log with
  | 0 => modCtx s core bank (fun x => { x with log0 := l })
  | 1 => modPart s part (fun p => { p with log1 := tset p.log1 (dieOf core) l })
  | 2 => setCore s core { coreAt s core with log2 := l }
  | 3 => setCore s core { coreAt s core with log3 := l }
  | 4 => modPart s part (fun p => { p with log4 := tset p.log4 (dieOf core) l })
  | _ => modPart s part (fun p => { p with log5 := l })

/-- The bits of a log CSR that hold (R378): bases and limits are 4 KiB aligned, the next record's address is a multiple of 8. DESIGN CHOICE (log entry 26):
R378 says what the addresses are and not what a write of another one does; its low bits are dropped, as reserved bits are. -/
def logMask (f : Nat) : Word := if f == 2 || f == 5 then ~~~(7 : Word) else ~~~(0xFFF : Word)

/-- The writing of a log CSR (R378). -/
def writeLogCsr (s : State) (core bank log f : Nat) (v : Word) : State :=
  let v := v &&& logMask f
  let l := logRegs s core bank log
  let pa := (writablePa s (ctxAt s core bank).pasid v).getD 0
  let l' := logFieldSet l f v pa
  let s := setLogRegs s core bank log l'
  if log == 4 && f < 2 then
    -- the 384 sub-buffers of log 4, in whole records (R378)
    let sub := (l'.lim.toNat - l'.base.toNat) / 384 / 16 * 16
    modPart s (ctxAt s core bank).part (fun p =>
      let put := fun (t : Table Word) (i : Nat) => tset t (384 * dieOf core + i) (l'.base + BitVec.ofNat 64 (sub * i))
      { p with hw4 := (List.range 384).foldl put p.hw4 })
  else s

/-- The defined bits of the four window CSRs (R248); the owner field is the device's. -/
def windowMask (f : Nat) : Word :=
  match f with
  | 0 => 0x000FFFFFFFFFF80F
  | 1 => 0x000FFFFFFFFFF000
  | 2 => 0x000FFFFFFFFFFFFF
  | _ => 0x000FFFFFFFFFFFFF

/-- A window's base with a partition as its owner. -/
def ownedBase (own : Nat) (v : Word) : Word := (v &&& windowMask 0) ||| BitVec.ofNat 64 (16 * own)

/-- The writing of a window CSR with the writer's partition as owner, in force for fetches only after the writer's next `PHASE` at
die scope or wider (R249): a read returns it at once, so the CSR holds it and the fetch path keeps the value it had. -/
def writeWindowCsr (s : State) (core bank n : Nat) (v : Word) : State :=
  let w := (n - 0x100) / 4
  let f := (n - 0x100) % 4
  let key := 8 * dieOf core + w
  let old := tgetD s.windows key Window.reset
  let own := (ctxAt s core bank).part
  let base := ownedBase own (if f == 0 then v else old.base)
  let new : Window :=
    { base := base, lim := if f == 1 then v &&& windowMask 1 else old.lim,
      bsc := if f == 2 then v &&& windowMask 2 else old.bsc, bnd := if f == 3 then v &&& windowMask 3 else old.bnd }
  { s with windows := tset s.windows key new, winPend := s.winPend ++ [(core, bank, dieOf core, n, windowField new f)] }

/-- The writing of a key quarter (R301): quarter 3 makes the key usable and zeroes its counter. -/
def writeKey (s : State) (part n : Nat) (v : Word) : State :=
  let slot := (n - 0x030) / 4
  let q := (n - 0x030) % 4
  modPart s part (fun p =>
    let k := tgetD p.keys slot KeySlot.reset
    let cleared := k.key &&& ~~~((BitVec.allOnes 64).setWidth 256 <<< (64 * q))
    let key := cleared ||| (v.setWidth 256 <<< (64 * q))
    let k' : KeySlot := if q == 3 then { key := key, usable := true, counter := 0 } else { k with key := key }
    { p with keys := tset p.keys slot k' })

/-- The writing of `fmode` (R245). -/
def writeFmode (s : State) (core bank : Nat) (v : Word) : State :=
  let m := v.toNat % 8
  if m == 7 || (m == 6 && !enabled s.conf.features 32) then s
  else modCtx s core bank (fun x => { x with fmode := BitVec.ofNat 64 m })

/-- The writing of `srng` (R246). -/
def writeSrng (s : State) (core bank : Nat) (v : Word) : State :=
  modCtx s core bank (fun x => { x with srng := if v = 0 then 1 else v })

/-- The writing of a register that has no behaviour of its own: reserved bits stay zero (R4, R131, R142, R247, R351, R384). -/
def writePlainCsr (s : State) (core bank n : Nat) (v : Word) : State :=
  match n with
  | 0x003 => modCtx s core bank (fun x => { x with hvec := v })
  | 0x006 => modCtx s core bank (fun x => { x with tscr := v })
  | 0x010 => modCtx s core bank (fun x => { x with fflags := v &&& 0x1F1F1F1F })
  | 0x013 => modCtx s core bank (fun x => { x with icfg := v &&& 1 })
  | 0x014 => modCtx s core bank (fun x => { x with rwin := v &&& 15 })
  | 0x015 => modCtx s core bank (fun x => { x with rba := v.toNat % 64 })
  | 0x016 => modCtx s core bank (fun x => { x with rbb := v.toNat % 64 })
  | 0x180 => modPart s (ctxAt s core bank).part (fun p => { p with stctl := v &&& 1 })
  | 0x181 =>
    let va := v &&& 0xFFFFFFFFFFFFF000
    let pa := (writablePa s (ctxAt s core bank).pasid va).getD 0
    modPart s (ctxAt s core bank).part (fun p => { p with stdmp := va, stdmpPa := pa })
  | 0x182 => modCtx s core bank (fun x => { x with bkps := v &&& 0x8000FFFFFFFFFFFF, skipBreak := false })
  | 0x183 => modCtx s core bank (fun x => { x with bkpa := v &&& 0xFFFFFFFFFFFFFFFD, skipBreak := false })
  | _ => s

/-- The pending window writes of a strand come into force for tile fetches, each with the owner that it wrote (R249). -/
def applyWindows (s : State) (core bank : Nat) : State :=
  let put := fun (t : Table Window) (e : Nat × Nat × Nat × Nat × Word) =>
    let key := 8 * e.2.2.1 + (e.2.2.2.1 - 0x100) / 4
    let w := tgetD t key Window.reset
    let w := { w with base := ownedBase (ctxAt s core bank).part w.base }
    tset t key (match (e.2.2.2.1 - 0x100) % 4 with
      | 0 => { w with base := e.2.2.2.2 }
      | 1 => { w with lim := e.2.2.2.2 }
      | 2 => { w with bsc := e.2.2.2.2 }
      | _ => { w with bnd := e.2.2.2.2 })
  let mine := fun (e : Nat × Nat × Nat × Nat × Word) => e.1 == core && e.2.1 == bank
  { s with winForce := (s.winPend.filter mine).foldl put s.winForce, winPend := s.winPend.filter (fun e => !mine e) }

/-- The effect of a CSR write that has passed its checks (R362). -/
def writeCsr (s : State) (core bank n : Nat) (v : Word) : State :=
  if n == 0x011 then writeFmode s core bank v
  else if n == 0x012 then writeSrng s core bank v
  else if 0x030 ≤ n && n ≤ 0x04F then writeKey s (ctxAt s core bank).part n v
  else if 0x100 ≤ n && n ≤ 0x11F then writeWindowCsr s core bank n v
  else match logCsr n with
    | some (l, f) => writeLogCsr s core bank l f v
    | none => writePlainCsr s core bank n v

end Sys2Proof.Machine
end

