-- ==== Sys2Proof/Machine/Logs.lean ====
section
/-! DEFINITION. The logs (R377 to R382): whether a log is configured, whether a record fits, appending one, and reading the next one in
replay. -/
namespace Sys2Proof.Machine

/-- A log is configured when its limit differs from its base (R377). -/
def logConfigured (l : LogRegs) : Bool := l.base != l.lim

/-- The kernel of a partition runs in record mode, or in replay mode (R376). -/
def recording (s : State) (part : Nat) : Bool := bit (partAt s part).rmode.toNat 1
def replaying (s : State) (part : Nat) : Bool := bit (partAt s part).rmode.toNat 2

/-- A log takes records now: log 0 in every mode, the others in record mode (R377). -/
def logActive (s : State) (core bank log : Nat) : Bool :=
  logConfigured (logRegs s core bank log) && (log == 0 || recording s (ctxAt s core bank).part)

/-- The bytes of a record's words (R379). -/
def recordBytes (ws : List Word) : List Byte := ws.flatMap (fun w => bytesOf 8 w.toNat)

/-- A record of `n` words fits below the limit (R380). -/
def recordFits (l : LogRegs) (n : Nat) : Bool := l.hw.toNat + 8 * n ≤ l.lim.toNat

/-- Append a record that fits to a log (R379): its bytes go to the buffer and the high-water moves past them. -/
def appendLog (s : State) (l : LogRegs) (ws : List Word) : State × LogRegs :=
  (schedWrite s (l.pa + (l.hw.toNat - l.base.toNat)) (recordBytes ws), { l with hw := l.hw + BitVec.ofNat 64 (8 * ws.length) })

/-- Append a record that fits to the log that a context writes. -/
def appendRecord (s : State) (core bank log : Nat) (ws : List Word) : State :=
  let r := appendLog s (logRegs s core bank log) ws
  setLogRegs r.1 core bank log r.2

/-- Write a record if the log takes one and it fits. -/
def record (s : State) (core bank log : Nat) (ws : List Word) : State :=
  if logActive s core bank log && recordFits (logRegs s core bank log) ws.length then appendRecord s core bank log ws else s

/-- A record that the log should take does not fit: trap 0x20 (R380). -/
def recordFull (s : State) (core bank log n : Nat) : Bool :=
  logActive s core bank log && !recordFits (logRegs s core bank log) n

/-- The leaf's service of a full log (R380): the records from `lbase` to `lhw` go to the spill area, `lhw` returns to the base, and the record
that did not fit is written. None when the spill area lacks room. -/
def spillLog (s : State) (core bank log : Nat) (ws : List Word) : Option State :=
  let l := logRegs s core bank log
  let n := l.hw.toNat - l.base.toNat
  if l.sptr.toNat + n > l.slim.toNat then none
  else
    let s := schedWrite s (l.spa + (l.sptr.toNat - l.sbase.toNat)) (deviceBytes s l.pa n)
    let s := setLogRegs s core bank log { l with sptr := l.sptr + BitVec.ofNat 64 n, hw := l.base }
    some (if ws.isEmpty then s else appendRecord s core bank log ws)

/-- Word `i` from the next record of a log on in replay (R381): what the buffer does not hold stands in the spill area (R380); none when the log is
used up. -/
def wordOfLog (s : State) (l : LogRegs) (i : Nat) : Option Word :=
  let o := l.hw.toNat - l.base.toNat + 8 * i
  let n := l.lim.toNat - l.base.toNat
  if o + 8 ≤ n then some (BitVec.ofNat 64 (deviceNat s (l.pa + o) 8))
  else if l.sptr.toNat + (o - n) + 8 ≤ l.slim.toNat then
    some (BitVec.ofNat 64 (deviceNat s (l.spa + (l.sptr.toNat - l.sbase.toNat) + (o - n)) 8))
  else none

/-- The same for the log that a context reads. -/
def nextWord (s : State) (core bank log i : Nat) : Option Word := wordOfLog s (logRegs s core bank log) i

/-- Words of a record by its kind (R379). -/
def recordWords (kind : Nat) : Nat :=
  match kind with
  | 3 | 4 | 5 | 8 => 2
  | _ => 1

/-- A log `n` bytes further on in replay (R381). The leaf refills a buffer that is used up from `lsptr` (R380): what is left of the spill area, at most a
buffer of it, comes to lie up to `llim` (log entry 52). -/
def stepLog (s : State) (l : LogRegs) (n : Nat) : State × LogRegs :=
  let hw := l.hw.toNat + n
  let size := l.lim.toNat - l.base.toNat
  let left := min size (l.slim.toNat - l.sptr.toNat)
  if hw < l.lim.toNat || left == 0 then (s, { l with hw := BitVec.ofNat 64 hw })
  else
    (schedWrite s (l.pa + (size - left)) (deviceBytes s (l.spa + (l.sptr.toNat - l.sbase.toNat)) left),
      { l with hw := BitVec.ofNat 64 (l.base.toNat + (size - left) + (hw - l.lim.toNat)), sptr := l.sptr + BitVec.ofNat 64 left })

/-- Step past the next record of a context's log in replay. -/
def consumeRecord (s : State) (core bank log : Nat) : State :=
  match nextWord s core bank log 0 with
  | none => s
  | some w =>
    let r := stepLog s (logRegs s core bank log) (8 * recordWords (bits w.toNat 60 4))
    setLogRegs r.1 core bank log r.2

/-- Words of a log that the lower slots of the bundle under judgement use. -/
def aheadOf (s : State) (log : Nat) : Nat := if log == 3 then s.cur.ahead.1 else if log == 5 then s.cur.ahead.2 else 0

/-- The divergence value of R382: log id and byte offset of the record in its buffer. -/
def divergence (s : State) (core bank log : Nat) : Word :=
  let l := logRegs s core bank log
  BitVec.ofNat 64 (log + 256 * (l.hw.toNat - l.base.toNat + 8 * aheadOf s log))

/-- Word 0 of a result, report or mark record (R379): kind, context, code in [55:48], low 48 bits of `scyc`. -/
def stampWord (kind bank code : Nat) (scyc : Word) : Word :=
  BitVec.ofNat 64 (pack [(48, scyc.toNat), (8, code), (2, 0), (2, bank), (4, kind)])

/-! ### Decisions that are logged and replayed (R376, R381, R382) -/

/-- How a logged decision comes out: it goes on with a value, it waits for its turn, or replay diverges. -/
inductive Gate where
  | go (s : State) (v : Word)
  | hold
  | diverge (tval : Word)
  deriving DecidableEq, Repr

/-- The log is read for a context's kernel (R377). -/
def readsLog (s : State) (core bank log : Nat) : Bool :=
  replaying s (ctxAt s core bank).part && logConfigured (logRegs s core bank log)

/-- A result instruction (R317, R381): code 0 `CTFFR`, 1 `LCLK`, 2 `SEMRD`, 3 `SQUERY`. Recorded, or supplied from the log: it waits until its live
value equals the logged one, `LCLK` until gclk reaches it. -/
def resultGate (s : State) (core bank code : Nat) (live : Word) : Gate :=
  let word := stampWord 3 bank code (ctxAt s core bank).scyc
  if readsLog s core bank 3 then
    if s.cur.behind then .hold
    else match nextWord s core bank 3 (aheadOf s 3), nextWord s core bank 3 (aheadOf s 3 + 1) with
    | some w, some v =>
      if w != word then .diverge (divergence s core bank 3)
      else if (if code == 1 then v.toNat ≤ live.toNat else live == v) then .go (consumeRecord s core bank 3) v
      else .hold
    | _, _ => .diverge (divergence s core bank 3)
  else .go (record s core bank 3 [word, live]) live

/-- The record of a boundary (R379): scope, context or 3, core id, `scyc` or tag. -/
def boundaryWord (scope ctx core low : Nat) : Word := BitVec.ofNat 64 (pack [(48, low), (7, core), (2, ctx), (3, scope), (4, 7)])

/-- A record of log 5 against a boundary `word` that is not its own (R381, R382): neither kind of the log, or the same context at another `scyc` or
scope, which no later record can mend; any other boundary or arrival is one that comes first. -/
def foreignRecord (w word : Word) (ctx : Nat) : Bool :=
  let kind := bits w.toNat 60 4
  (kind != 6 && kind != 7) || (kind == 7 && ctx != 3 && bits w.toNat 48 9 == bits word.toNat 48 9)

/-- A boundary takes its turn (R381): `ctx` is the bank, or 3 for an engine command, and `low` its `scyc` or tag. -/
def boundaryGate (s : State) (core bank scope ctx low : Nat) : Gate :=
  let word := boundaryWord scope ctx core low
  if readsLog s core bank 5 then
    if s.cur.behind then .hold
    else match nextWord s core bank 5 (aheadOf s 5) with
    | some w =>
      if w == word then .go (consumeRecord s core bank 5) 0
      else if foreignRecord w word ctx then .diverge (divergence s core bank 5)
      else .hold
    | none => .diverge (divergence s core bank 5)
  else .go (record s core bank 5 [word]) 0

/-- A program mark on log 3 in replay is compared with the log (R382); otherwise it is written. -/
def markGate (s : State) (core bank log : Nat) (v : Word) : Gate :=
  let word := stampWord 8 bank 0 (ctxAt s core bank).scyc
  if log == 3 && readsLog s core bank 3 then
    if s.cur.behind then .hold
    else match nextWord s core bank 3 (aheadOf s 3), nextWord s core bank 3 (aheadOf s 3 + 1) with
    | some w, some u => if w == word && u == v then .go (consumeRecord s core bank 3) v else .diverge (divergence s core bank 3)
    | _, _ => .diverge (divergence s core bank 3)
  else .go (record s core bank log [word, v]) v

end Sys2Proof.Machine
end

