-- ==== Sys2Proof/Machine/Reports.lean ====
section
/-! DEFINITION. Imprecise reports and watches (R348, R366, R385, R386). -/
namespace Sys2Proof.Machine

/-- Let a report set out for a context (R348). -/
def sendReport (s : State) (core bank : Nat) (r : Report) : State :=
  let f : FlyReport := { id := s.nextId, core := core, bank := bank, report := r, landed := (coreAt s core).wcyc.toNat }
  { s with flying := s.flying ++ [f], nextId := s.nextId + 1 }

/-- Deferred causes stand in the order in which they fall due (R350). -/
def insertDue (r : Report) : List Report → List Report
  | [] => [r]
  | e :: l => if e.due ≤ r.due then e :: insertDue r l else r :: e :: l

/-- A report reaches its context (R348, R374, R386): held pending, or dropped when eight are pending or the context holds nothing. -/
def landReport (s : State) (f : FlyReport) : State :=
  let x := ctxAt s f.core f.bank
  let skid := (coreAt s f.core).wcyc.toNat - f.landed
  let r := if f.report.cause == 0x22 then { f.report with wp := f.report.wp ||| BitVec.ofNat 64 (skid % 256 * 2 ^ 40) }
    else f.report
  if x.life == .empty then bump s 0x1C9 1
  else if x.reports.length ≥ 8 then
    bump (setCtx s f.core f.bank { x with tstat := x.tstat ||| 0x100, latch := true }) 0x1C9 1
  else setCtx s f.core f.bank { x with reports := x.reports ++ [r], latch := true }

/-- The most wall cycles that a report is on its way: 96 for a watch (R385), 512 for an overflow (R304). -/
def reportBound (cause : Nat) : Nat := if cause == 0x22 then 96 else 512

/-- A report has been on its way for as long as it may be, and arrives before the next wall cycle of its core (R304, R385). -/
def reportDue (s : State) (f : FlyReport) : Bool := f.landed + reportBound f.report.cause ≤ (coreAt s f.core).wcyc.toNat

/-- The reports that may be on their way to a core no longer reach their contexts. -/
def landReports (s : State) (core : Nat) : State :=
  let due := fun (f : FlyReport) => f.core == core && reportDue s f
  (s.flying.filter due).foldl landReport { s with flying := s.flying.filter (fun f => !due f) }

/-- The bytes of a watch's range that a write touches, as a mask of 16 bits (R385). -/
def watchHit (w : Watch) (addrs : List Nat) : Nat :=
  (addrs.filter (fun a => w.at_ ≤ a && a < w.at_ + 16 && bit w.mask (a - w.at_))).foldl
    (fun m a => if bit m (a - w.at_) then m else m + 2 ^ (a - w.at_)) 0

/-- What `wpinfo` takes (R386) before the skid: endpoint, tag, kind, writing core, matched bytes. -/
def watchInfo (endpoint tag kind core matched : Nat) : Word :=
  BitVec.ofNat 64 (pack [(16, matched), (7, core), (2, kind), (6, tag), (9, endpoint)])

/-- The watch reports of a write that a home slice sees (R385): one for each watch whose slice part it matches, in ascending core and watch
number. -/
def sliceReports (s : State) (endpoint tag kind core : Nat) (addrs : List Nat) : State :=
  s.cores.foldl (fun s e => e.2.watches.foldl (fun s w =>
    let hit := watchHit w.2 addrs
    if w.2.sp || !w.2.slice || hit == 0 then s
    else sendReport s e.1 w.2.bank
      { cause := 0x22, tval := BitVec.ofNat 64 (w.2.at_ / 16 * 16 + 4 * w.1), slot := 31, due := 0,
        wp := watchInfo endpoint tag kind core hit }) s) s

/-- The watch reports of a write of a copy engine into a core's scratchpad (R385). -/
def scratchReports (s : State) (target endpoint tag kind core : Nat) (addrs : List Nat) : State :=
  (coreAt s target).watches.foldl (fun s w =>
    let hit := watchHit w.2 addrs
    if !w.2.sp || hit == 0 then s
    else sendReport s target w.2.bank
      { cause := 0x22, tval := BitVec.ofNat 64 (w.2.at_ / 16 * 16 + 4 * w.1), slot := 31, due := 0,
        wp := watchInfo endpoint tag kind core hit }) s

/-- The first watch of a core that a store of its own contexts matches: its number and the matched bytes (R385). -/
def ownHit (c : Core) (sp : Bool) (addrs : List Nat) : Option (Nat × Nat) :=
  (c.watches.find? (fun w => w.2.sp == sp && watchHit w.2 addrs != 0)).map (fun w => (w.1, watchHit w.2 addrs))

end Sys2Proof.Machine
end

