-- ==== Sys2Proof/Machine/AtomicUnit.lean ====
section
/-! DEFINITION. Performing atomics at their home slice (R210 to R212, R330, R331, R338 to R340). -/
namespace Sys2Proof.Machine

/-- The memory value after an atomic (R211): `op` is the opcode, `w` the width in bits, `m` the old value, `x` the operand, `c` the
compare value of `ACAS`. `ARADD` is op 11 for words and op 12 for FP32. -/
def atomicValue (op w m x c : Nat) : Nat :=
  match op with
  | 0 | 11 => (m + x) % 2 ^ w
  | 1 | 12 => (fAdd 1 false 0 (valueOf fp32 m) (valueOf fp32 x)).1
  | 2 => if sextNat w m ≤ sextNat w x then m else x
  | 3 => if sextNat w m ≥ sextNat w x then m else x
  | 4 => min m x
  | 5 => max m x
  | 6 => m &&& x
  | 7 => m ||| x
  | 8 => m ^^^ x
  | 9 => x
  | _ => if m == c then x else m

/-- The little-endian number at the home slice. -/
def homeNat (s : State) (a n : Nat) : Nat := natOfBytes ((List.range n).map (fun i => homeByte s (a + i)))

/-- The home slice of a physical address (R195): die and slice. -/
def sliceOf (pa : Nat) : Nat × Nat := (pa / 2 ^ 36 / 6, pa / 256 % 384)

/-- A non-returning reduction (R338): `ARADD`, and `AFADD` and `AADD` with t = g0. -/
def isReduction (a : Atomic) : Bool := a.op == 11 || a.op == 12 || ((a.op == 0 || a.op == 1) && a.dest == 0)

/-- Ordered, record or replay mode is in force for a partition (R338). -/
def holdsReductions (s : State) (part : Nat) : Bool := (partAt s part).rmode.toNat % 8 != 0

/-- The flight of an atomic takes its returned value, due as the flight says (R210); an acquire follows at the due cycle (R330). -/
def giveReturn (s : State) (a : Atomic) (old : Nat) : State :=
  modCtx s a.core a.bank (fun x => { x with flights := x.flights.map (fun f =>
    if f.id == a.flight then
      { f with late := .none, writes := [(f.last, .g a.dest (BitVec.ofNat 64 old))] ++
          (if a.acq then [(f.last, .acquire a.scope)] else []) }
    else f) })

/-- Perform an atomic indivisibly at its home slice, as the party of its strand; its write is published at its scope as it is performed (R330). -/
def performAtomic (s : State) (a : Atomic) : State :=
  let n := a.width / 8
  let old := homeNat s a.pa n
  let new := atomicValue a.op a.width old (a.operand.toNat % 2 ^ a.width) (a.swap.toNat % 2 ^ a.width)
  let s := writeHome s (partyOf s a.core a.bank) a.kernel true a.scope (nowPlace s)
    ((List.range n).zip (bytesOf n new) |>.map (fun e => (a.pa + e.1, e.2)))
  let s := sliceReports s 0 0 2 a.core ((List.range n).map (fun i => a.pa + i))
  let s := { s with atomics := s.atomics.filter (fun b => b.id != a.id) }
  if a.dest != 0 then giveReturn s a old
  else if a.acq then refresh s a.core a.bank a.scope (nowPlace s)
  else s

/-- Hold a reduction at its home slice for its epoch (R338). -/
def holdReduction (s : State) (a : Atomic) : State :=
  let s := { s with atomics := s.atomics.filter (fun b => b.id != a.id), reds := s.reds ++ [a] }
  if a.acq then refresh s a.core a.bank a.scope (nowPlace s) else s

/-! ### The order of value-returning atomics (R331, R379 to R381) -/

/-- The sub-buffer of a slice in log 4 of its die: key of the slice, start, end and high-water (R378). -/
structure SliceLog where
  key   : Nat
  start : Nat
  limit : Nat
  hw    : Nat
  deriving DecidableEq, Repr

/-- Log 4 of a die for a partition. -/
def orderLog (s : State) (part die : Nat) : LogRegs := tgetD (partAt s part).log4 die LogRegs.reset

/-- The sub-buffer that an atomic's record belongs to. -/
def sliceLog (s : State) (part pa : Nat) : SliceLog :=
  let (die, slice) := sliceOf pa
  let l := orderLog s part die
  let sub := (l.lim.toNat - l.base.toNat) / 384 / 16 * 16
  let start := l.base.toNat + sub * slice
  { key := 384 * die + slice, start := start, limit := start + sub,
    hw := (tgetD (partAt s part).hw4 (384 * die + slice) (BitVec.ofNat 64 start)).toNat }

/-- Word 1 of an atomic run: context and core id. -/
def requesterWord (a : Atomic) : Nat := pack [(7, a.core), (2, a.bank)]

/-- The two words of a sub-buffer at a virtual address of it. -/
def runAt (s : State) (l : LogRegs) (va : Nat) : Nat × Nat :=
  (deviceNat s (l.pa + (va - l.base.toNat)) 8, deviceNat s (l.pa + (va - l.base.toNat) + 8) 8)

/-- A run record is one of an atomic's requester at its address. -/
def sameRun (a : Atomic) (w : Nat × Nat) : Bool := bits w.1 60 4 == 5 && bits w.1 0 52 == a.pa && w.2 == requesterWord a

/-- What log 4 says of an atomic: nothing, its run grows, a record fits, none fits, its turn, not yet, or no longer (R382). -/
inductive AtomicTurn where
  | free | longer | room | full | mine | wait | diverged
  deriving DecidableEq, Repr

/-- The turn of an atomic at its slice. -/
def turnOfAtomic (s : State) (a : Atomic) : AtomicTurn :=
  let part := (ctxAt s a.core a.bank).part
  let l := orderLog s part (sliceOf a.pa).1
  let b := sliceLog s part a.pa
  if a.dest == 0 || !logConfigured l then .free
  else if replaying s part then
    (if b.hw + 16 > b.limit || bits (runAt s l b.hw).1 60 4 != 5 then .diverged else if sameRun a (runAt s l b.hw) then .mine else .wait)
  else if !recording s part then .free
  else if b.start + 16 ≤ b.hw && sameRun a (runAt s l (b.hw - 16)) && bits (runAt s l (b.hw - 16)).1 52 8 < 255 then .longer
  else if b.hw + 16 ≤ b.limit then .room else .full

/-- The record of an atomic: its run grows by one, or begins. -/
def logAtomic (s : State) (a : Atomic) : State :=
  let part := (ctxAt s a.core a.bank).part
  let l := orderLog s part (sliceOf a.pa).1
  let b := sliceLog s part a.pa
  let put := fun (va n : Nat) => schedWrite s (l.pa + (va - l.base.toNat)) (bytesOf 8 (pack [(52, a.pa), (8, n), (4, 5)]) ++ bytesOf 8 (requesterWord a))
  match turnOfAtomic s a with
  | .longer => put (b.hw - 16) (bits (runAt s l (b.hw - 16)).1 52 8 + 1)
  | .room => modPart (put b.hw 0) part (fun p => { p with hw4 := tset p.hw4 b.key (BitVec.ofNat 64 (b.hw + 16)) })
  | _ => s

/-- A logged atomic has had its turn in replay. A sub-buffer that is used up is filled again from the spill area (R380). -/
def useAtomic (s : State) (a : Atomic) : State :=
  let part := (ctxAt s a.core a.bank).part
  let die := (sliceOf a.pa).1
  let l := orderLog s part die
  let b := sliceLog s part a.pa
  let used := tgetD (partAt s part).run4 b.key 0 + 1
  if used ≤ bits (runAt s l b.hw).1 52 8 then modPart s part (fun p => { p with run4 := tset p.run4 b.key used })
  else
    let n := min (b.limit - b.start) (l.slim.toNat - l.sptr.toNat)
    let again := b.hw + 32 > b.limit && n != 0
    let s := if again then schedWrite s (l.pa + (b.start - l.base.toNat)) (deviceBytes s (l.spa + (l.sptr.toNat - l.sbase.toNat)) n) else s
    modPart s part (fun p =>
      { p with run4 := tset p.run4 b.key 0
               hw4 := tset p.hw4 b.key (BitVec.ofNat 64 (if again then b.start else b.hw + 16))
               log4 := if again then tset p.log4 die { l with sptr := l.sptr + BitVec.ofNat 64 n } else p.log4 })

/-- An atomic that is refused at its slice is not performed: a cause falls due at its due bundle (R380, R382), which says which atomic it is. -/
def refuseAtomic (s : State) (a : Atomic) (cause : Nat) (tval : Word) : State :=
  let x := ctxAt s a.core a.bank
  let due := ((x.flights.find? (fun f => f.id == a.flight)).map (fun f => f.last - f.age)).getD 0
  let s := { s with atomics := s.atomics.map (fun b => if b.id == a.id then { b with refused := true } else b) }
  modCtx s a.core a.bank (fun x =>
    { x with deferred := insertDue { cause := cause, tval := tval, slot := 9, due := due, wp := BitVec.ofNat 64 a.id } x.deferred })

/-- The `tval` of a divergence that an atomic meets in log 4 (R382): the log, and the byte offset of the record in its buffer. -/
def orderTval (s : State) (a : Atomic) : Word :=
  let part := (ctxAt s a.core a.bank).part
  BitVec.ofNat 64 (4 + 256 * ((sliceLog s part a.pa).hw - (orderLog s part (sliceOf a.pa).1).base.toNat))

/-- A deferred trap 0x28 of a context for a result in flight, or for an atomic without one (R346, R359). -/
def deferAt (s : State) (core bank : Nat) (addr : Word) (slot due : Nat) : State :=
  modCtx s core bank (fun x =>
    { x with deferred := insertDue { cause := 0x28, tval := addr, slot := slot, due := due, wp := 0 } x.deferred })

/-- An atomic that met an error is not performed: its destination keeps its old value, and the cause is due with it (R359). -/
def spoilAtomic (s : State) (core bank : Nat) (addr : Word) (a : Atomic) : State :=
  let s := { s with atomics := s.atomics.filter (fun b => b.id != a.id) }
  match (ctxAt s core bank).flights.find? (fun f => f.id == a.flight) with
  | some f =>
    let spoil := fun (g : Flight) => if g.id == f.id then { g with writes := [], late := .none } else g
    deferAt (modCtx s core bank (fun x => { x with flights := x.flights.map spoil })) core bank addr f.slot (f.last - f.age)
  | none => deferAt s core bank addr 9 0

/-- An earlier atomic of its strand to the same bytes has been refused: this one comes after it (R331). -/
def behindRefused (s : State) (a : Atomic) : Bool :=
  s.atomics.any (fun b => b.refused && b.id < a.id && b.core == a.core && b.bank == a.bank && b.pa < a.pa + a.width / 8 && a.pa < b.pa + b.width / 8)

/-- Perform an atomic, hold it, or refuse it while its record does not fit (R338, R339, R380); in replay one whose turn has not come waits (R381), and so
does one whose home is in training; one whose home has failed meets an error (R395). A refused one waits for the leaf. -/
def settleAtomic (s : State) (a : Atomic) : State :=
  if a.refused || !homeReached s (dieOf a.core) a.pa then s
  else if homeFailed s (dieOf a.core) a.pa then spoilAtomic s a.core a.bank (stackError a.pa) a
  else if isReduction a && holdsReductions s (ctxAt s a.core a.bank).part then holdReduction s a
  else if behindRefused s a then refuseAtomic s a 0x20 (BitVec.ofNat 64 (4 + 256 * (sliceOf a.pa).2))
  else match turnOfAtomic s a with
    | .full => refuseAtomic s a 0x20 (BitVec.ofNat 64 (4 + 256 * (sliceOf a.pa).2))
    | .diverged => refuseAtomic s a 0x23 (orderTval s a)
    | .longer | .room => performAtomic (logAtomic s a) a
    | .mine => performAtomic (useAtomic s a) a
    | .free => performAtomic s a
    | .wait => s

/-- The atomics of a strand not yet performed or held, in issue order. -/
def atomicsOf (s : State) (core bank : Nat) : List Atomic := s.atomics.filter (fun a => a.core == core && a.bank == bank)

/-- Perform or hold every atomic of a strand that can be now, in issue order (R210, R347). -/
def settleAtomics (s : State) (core bank : Nat) : State := (atomicsOf s core bank).foldl settleAtomic s

/-- Some atomic of a strand has still to wait for its turn in replay, or for its home, whatever is performed now (R381, R395). -/
def atomicsWait (s : State) (core bank : Nat) : Bool :=
  !(atomicsOf s core bank).isEmpty && (atomicsOf (settleAtomics s core bank) core bank).any (fun a => !a.refused)

end Sys2Proof.Machine
end

