-- ==== Sys2Proof/Machine/Pages.lean ====
section
/-! DEFINITION. Code pages: mappings, trailers, anchors, bundle boundaries, and the resolution of code pointers (R22, R23, R66 to R74,
R154, R400). -/
namespace Sys2Proof.Machine

/-- The iteration-end pointer (R51, R400). -/
def iterationEnd : Word := 0xFF00000000000000

/-- The secondary-end pointer (R128, R400). -/
def secondaryEnd : Word := 0xFF00000000000040

/-- The end page of the reserved code range (R400). -/
def endPage : Nat := 0xFF00000000000000

/-- Bits [63:57] copy bit 56 (R22, R196). -/
def canonical (va : Word) : Bool :=
  let n := va.toNat
  bits n 57 7 == (if bit n 56 then 127 else 0)

/-- The code mapping of a page in a space (R70). -/
def codePage (s : State) (pasid va : Nat) : Option CodePage :=
  s.code.find? (fun c => c.va == va && (c.pasid == pasid || va ≥ endPage))

/-- The physical address at which a code page stands in device memory: a free value, one for each chunk and BLF unit (R10, R70; log entry 24). -/
def codePhys (c : CodePage) : Nat :=
  4096 * (match c.src with
    | .chunk h | .native h => Config.codePlace h 0
    | .blf h unit => Config.codePlace h (unit + 1))

/-- A physical range touches a code page that is in device memory (R10, R28). -/
def touchesCode (s : State) (a n : Nat) : Bool := s.code.any (fun c => c.present && codePhys c < a + n && a < codePhys c + 4096)

/-- Byte `n` of the trailer of a page, and wider fields (R66). -/
def trailerNat (m : Memory) (n len : Nat) : Nat := peekNat m (3840 + n) len

/-- The magic, tag, flags, anchor count, bundle length and annex link of a page (R66). -/
def pageMagic (m : Memory) : Nat := trailerNat m 0 4
def pageTag (m : Memory) : Nat := trailerNat m 4 1
def pageFlags (m : Memory) : Nat := trailerNat m 5 1
def pageAnchors (m : Memory) : Nat := trailerNat m 6 1
def pageLength (m : Memory) : Nat := trailerNat m 8 2
def pageAnnex (m : Memory) : Nat := trailerNat m 16 8

/-- Kind and word offset of anchor `i` of a trailer (R66). -/
def anchorKind (m : Memory) (i : Nat) : Nat := trailerNat m (24 + 2 * i) 2 / 4096
def anchorWord (m : Memory) (i : Nat) : Nat := trailerNat m (24 + 2 * i) 2 % 4096

/-- The 32-bit unit at a byte offset of a page. -/
def unitAt (m : Memory) (off : Nat) : Nat := peekNat m off 4

/-- The boundaries that the walk of R68 visits from `b` to the bundle length `len`: none when a unit is no header or the walk passes
the length. -/
def walk (m : Memory) (len : Nat) : Nat → Nat → Option (List Nat)
  | 0, _ => none
  | fuel + 1, b =>
    if b == len then some []
    else if b > len || bits (unitAt m b) 0 2 != 3 then none
    else (walk m len fuel (b + 4 + 4 * bits (unitAt m b) 5 6)).map (fun r => b :: r)

/-- The boundaries of a page (R68). -/
def boundaries (m : Memory) : Option (List Nat) := walk m (pageLength m) 961 0

/-- The offset after `n` bundles from offset `b` on. -/
def skipBundles (m : Memory) (b n : Nat) : Nat :=
  match n with
  | 0 => b
  | n + 1 => skipBundles m (b + 4 + 4 * bits (unitAt m b) 5 6) n

/-- The annex pages of a chain after a home page, at most three (R71). -/
def annexChain (s : State) (pasid : Nat) : Nat → Memory → List CodePage
  | 0, _ => []
  | fuel + 1, m =>
    if pageAnnex m == 0 then []
    else match codePage s pasid (pageAnnex m) with
      | none => []
      | some c => c :: annexChain s pasid fuel c.bytes

/-- The page of a chain and the byte offset in it that a word offset names (R66). -/
def anchorPlace (s : State) (pasid : Nat) (home : CodePage) (word : Nat) : Option (CodePage × Nat) :=
  if word < 960 then some (home, 4 * word)
  else match (annexChain s pasid 3 home.bytes)[word / 960 - 1]? with
    | some c => some (c, 4 * (word % 960))
    | none => none

/-- `n` bytes of a memory are all zero: no other byte is listed there. -/
def zeroBytes (m : Memory) (a n : Nat) : Bool := m.all (fun e => e.1 < a || a + n ≤ e.1 || e.2 == 0)

/-- An anchor of a trailer names a header with A set among the boundaries of its page (R68). -/
def anchorOk (s : State) (pasid : Nat) (c : CodePage) (i : Nat) : Bool :=
  let w := anchorWord c.bytes i
  anchorKind c.bytes i < 4 && w < 3840 && !(pageTag c.bytes == 0x2A && w ≥ 960) &&
    (match anchorPlace s pasid c w with
    | none => false
    | some (p, off) =>
      (match boundaries p.bytes with
      | none => false
      | some bs => bs.contains off && bit (unitAt p.bytes off) 4))

/-- The checks of R68 on a page's trailer; `asAnnex` says how it is reached (R71). -/
def trailerOk (s : State) (pasid : Nat) (c : CodePage) (asAnnex : Bool) : Bool :=
  let m := c.bytes
  let n := pageAnchors m
  pageMagic m == 0x47503951
    && zeroBytes m (3840 + 7) 1 && zeroBytes m (3840 + 10) 6 && zeroBytes m (3840 + 152) 104
    && pageFlags m < 8 && n ≤ 64 && zeroBytes m (3840 + 24 + 2 * n) (2 * (64 - n))
    && pageAnnex m % 4096 == 0
    && (List.range n).all (anchorOk s pasid c)
    && 4 ≤ pageLength m && pageLength m ≤ 3840 && pageLength m % 4 == 0 && (boundaries m).isSome
    && bit (pageFlags m) 0 == asAnnex
    && !(pageTag m == 0x2A && pageAnnex m != 0)

/-- Anchor records of a BLF unit (R16, R17): the kind of each id. -/
def blfAnchors (m : Memory) : List (Nat × Nat) :=
  let start := 64 + 8 * peekNat m 10 2
  (List.range (peekNat m 12 4)).filterMap (fun i =>
    let w := peekNat m (start + 16 * i) 2
    if w / 2 ^ 14 == 1 then some (bits w 0 6, bits w 10 4) else none)

/-- A page that the Still has yet to schedule from a BLF unit (R74). -/
def isBlf (c : CodePage) : Bool :=
  match c.src with
  | .blf _ _ => true
  | _ => false

/-- How many anchors a page has: of its trailer, or of the provisional trailer of its BLF unit (R74). -/
def anchorCount (c : CodePage) : Nat := if isBlf c then peekNat c.bytes 16 2 else pageAnchors c.bytes

/-- The kind of anchor `id` of a page, if it has that anchor: an id below the page's anchor count (R23, R66, R74). -/
def kindOf (c : CodePage) (id : Nat) : Option Nat :=
  if anchorCount c ≤ id then none
  else if isBlf c then ((blfAnchors c.bytes).find? (fun e => e.1 == id)).map (fun e => e.2)
  else some (anchorKind c.bytes id)

/-- A code pointer (R22). -/
def codePointer (va id : Nat) : Word := BitVec.ofNat 64 (va + 64 * id)

/-- A refused transfer: cause and `tval`. -/
structure BadTarget where
  cause : Nat
  tval  : Word
  deriving DecidableEq, Repr

/-- Holding the trailer of a page for a transfer (R70, R154): unmapped is 0x0A, malformed 0x01. The device's own end page passes. -/
def holdTrailer (s : State) (pasid va : Nat) : Except BadTarget (Option CodePage) :=
  if va == endPage then .ok none
  else match codePage s pasid va with
    | none => .error ⟨0x0A, BitVec.ofNat 64 (va + 0xFFF)⟩
    | some c =>
      if !c.present then .error ⟨0x0A, BitVec.ofNat 64 (va + 0xFFF)⟩
      else if isBlf c || c.checked then
        (if !isBlf c && bit (pageFlags c.bytes) 0 then .error ⟨0x01, BitVec.ofNat 64 va⟩ else .ok (some c))
      else if trailerOk s pasid c false then .ok (some c) else .error ⟨0x01, BitVec.ofNat 64 va⟩

/-- A page passes as an annex (R68, R71): it is flagged as one, and its trailer has been checked or passes its check. -/
def annexOk (s : State) (pasid : Nat) (a : CodePage) : Bool := bit (pageFlags a.bytes) 0 && (a.checked || trailerOk s pasid a true)

/-- What is wrong with the page that an anchor of a held page leads to, where that is one of its annexes: its chunks are not there (R70), or it does not
pass as an annex (R68). -/
def badAnnex (s : State) (pasid : Nat) (page : Option CodePage) (id : Nat) : Option BadTarget :=
  match page with
  | none => none
  | some c =>
    if isBlf c then none
    else match anchorPlace s pasid c (anchorWord c.bytes id) with
      | none => some ⟨0x01, BitVec.ofNat 64 c.va⟩
      | some (p, _) =>
        if p.va == c.va then none
        else if !p.present then some ⟨0x0A, BitVec.ofNat 64 (p.va + 0xFFF)⟩
        else if annexOk s pasid p then none
        else some ⟨0x01, BitVec.ofNat 64 p.va⟩

/-- The kind of an anchor, with the end page's two return points (R400). -/
def heldKind (page : Option CodePage) (id : Nat) : Option Nat :=
  match page with
  | none => if id < 2 then some 2 else none
  | some c => kindOf c id

/-- The check of a code pointer under R23, for a transfer that accepts `kinds`. -/
def checkPointer (s : State) (pasid : Nat) (ptr : Word) (kinds : List Nat) : Except BadTarget Word :=
  let n := ptr.toNat
  if n % 64 != 0 || !canonical ptr then .error ⟨0x06, ptr⟩
  else match holdTrailer s pasid (n / 4096 * 4096) with
    | .error e => .error e
    | .ok page =>
      match heldKind page (bits n 6 6) with
      | none => .error ⟨0x06, ptr⟩
      | some k =>
        if !kinds.contains k then .error ⟨0x06, ptr⟩
        else match badAnnex s pasid page (bits n 6 6) with
          | some e => .error e
          | none => .ok ptr

/-- The resolution of an encoded target (R154): page displacement from the home page, anchor id, accepted kinds. -/
def checkTarget (s : State) (pasid home : Nat) (page : BitVec 20) (id : Nat) (kinds : List Nat) : Except BadTarget Word :=
  let va := BitVec.ofInt 64 ((home : Int) + page.toInt * 4096)
  if !canonical va then .error ⟨0x06, va⟩
  else match holdTrailer s pasid va.toNat with
    | .error e => .error e
    | .ok held =>
      match heldKind held id with
      | none => .error ⟨0x06, va + BitVec.ofNat 64 (64 * id)⟩
      | some k =>
        if !kinds.contains k then .error ⟨0x06, va + BitVec.ofNat 64 (64 * id)⟩
        else match badAnnex s pasid held id with
          | some e => .error e
          | none => .ok (codePointer va.toNat id)

/-- Where a code pointer leads now: the page and byte offset of its anchor's bundle (R84). The end page's anchors lie at offset 0. -/
def placeOf (s : State) (pasid : Nat) (ptr : Word) : Option (Nat × Nat) :=
  let va := ptr.toNat / 4096 * 4096
  if va == endPage then some (va, bits ptr.toNat 6 6 * 4)
  else match codePage s pasid va with
    | none => none
    | some c => if isBlf c then some (va, 0)
      else (anchorPlace s pasid c (anchorWord c.bytes (bits ptr.toNat 6 6))).map (fun e => (e.1.va, e.2))

/-- Mark a page as checked (R68). -/
def markChecked (s : State) (pasid va : Nat) : State :=
  { s with code := s.code.map (fun c => if c.va == va && (c.pasid == pasid || va ≥ endPage) then { c with checked := true } else c) }

end Sys2Proof.Machine
end

