-- ==== Sys2Proof/Machine/Translate.lean ====
section
/-! DEFINITION. Handles: their fields, the checks of an access, translation and revocation (R196 to R202, R205). -/
namespace Sys2Proof.Machine

/-- Fields of a handle (R198). -/
def hState (h : Word128) : Nat := bits h.toNat 120 2
def hReason (h : Word128) : Nat := bits h.toNat 122 6
def hSeq (h : Word128) : Nat := bits h.toNat 96 24
def hVpage (h : Word128) : Nat := bits h.toNat 52 41
def hBase (h : Word128) : Nat := bits h.toNat 16 36 * 2 ^ 16
def hCause (h : Word128) : Nat := bits h.toNat 8 8
def hSize (h : Word128) : Nat := bits h.toNat 5 2
def hSealed (h : Word128) : Bool := bit h.toNat 4
def hPerms (h : Word128) : Nat := bits h.toNat 0 4

/-- The virtual address of a handle's page, its top bits copying bit 56 (R198, R201). -/
def hVa (h : Word128) : Nat :=
  let v := hVpage h * 2 ^ 16
  if bit v 56 then v + 127 * 2 ^ 57 else v

/-- A handle built from its fields (R198): permissions R W A T S, size, owner, cause, physical base, virtual address, sequence, state,
reason. -/
def mkHandle (perms size : Nat) (owner : Bool) (cause pbase va seq state reason : Nat) : Word128 :=
  BitVec.ofNat 128 (pack [(5, perms), (2, size), (1, bitOf owner), (8, cause), (36, pbase / 2 ^ 16), (41, va / 2 ^ 16), (3, 0),
    (24, seq), (2, state), (6, reason)])

/-- The handle that a translation writes (R198, R202): its vpage is that of the page translated, whatever its size; `need` holds the permissions `XLTP` requires. A code page gives a handle without permissions,
so that whatever names it traps (R10, R199). -/
def translate (s : State) (pasid : Nat) (va : Word) (need : Nat) : Word128 :=
  let v := va.toNat
  let seq := s.revSeq % 2 ^ 24
  if bits v 57 7 != (if bit v 56 then 127 else 0) then mkHandle 0 0 false 0x0C 0 v seq 3 0x08
  else match findMap s pasid va with
    | none =>
      match codePage s pasid (v / 4096 * 4096) with
      | none => mkHandle 0 0 false 0x0A 0 v seq 3 0
      | some c =>
        -- a code page is mapped with R, W, A, T and S clear (R10, R199)
        let pbase := codePhys c % 2 ^ 52
        if need != 0 then mkHandle 0 0 false 0x0C pbase v seq 3 0x04 else mkHandle 0 0 false 0 pbase v seq 1 0
    | some m =>
      let page := v / pageBytes m.size * pageBytes m.size
      if m.host then mkHandle m.perms m.size true 0x0B m.pa page seq 3 0
      else if need &&& m.perms != need then mkHandle m.perms m.size false 0x0C m.pa page seq 3 0x04
      else mkHandle m.perms m.size false 0 m.pa page seq 1 0

/-- A mapping of a space covers an address. -/
def covers (m : DataMap) (pasid : Nat) (va : Word) : Bool :=
  m.pasid == pasid && m.va.toNat / pageBytes m.size == va.toNat / pageBytes m.size

/-- The translation cache of a core still holds an entry of a larger page beside the one in force, both mapping the address to the same byte
(R203): how long it lingers after the page was split is free. -/
def sizesClash (s : State) (core pasid : Nat) (va : Word) : Bool :=
  match findMap s pasid va with
  | none => false
  | some m => s.cached.any (fun e =>
      e.1 == core && covers e.2 pasid va && m.size < e.2.size && mappedAddr e.2 va == mappedAddr m va
        && Config.pick s.free va.toNat % 2 == 1)

/-- A translation by a core looks in its cache (R202, R203): a match of two sizes is counted, and the entry used is cached. -/
def useCache (s : State) (core pasid : Nat) (va : Word) : State :=
  let s := if sizesClash s core pasid va then bump s 0x1C3 1 else s
  match findMap s pasid va with
  | none => s
  | some m => if s.cached.contains (core, m) then s else { s with cached := s.cached ++ [(core, m)] }

/-- A core drops its cached translations of an address (R202). -/
def dropCached (s : State) (core pasid : Nat) (va : Word) : State :=
  { s with cached := s.cached.filter (fun e => !(e.1 == core && covers e.2 pasid va)) }

/-- A refused access: cause and `tval`. -/
structure Bad where
  cause : Nat
  tval  : Word
  deriving DecidableEq, Repr

/-- The `tval` of traps 0x08, 0x0A and 0x0B (R201): the handle's page and its number. -/
def handleTval (h : Word128) (n : Nat) : Word := BitVec.ofNat 64 (hVa h / 2 ^ 16 * 2 ^ 16 + n % 32)

/-- A `tval` with a reason in [63:57] (R205). -/
def reasonTval (reason low : Nat) : Word := BitVec.ofNat 64 (low % 2 ^ 57 + 2 ^ 57 * reason)

/-- The `tval` of 0x09 and 0x0C for an access of a page at an offset (R205). -/
def accessTval (h : Word128) (off reason : Nat) : Word := reasonTval reason (hVa h + off)

/-- Steps 1 and 2 of R199: the state of the handle. -/
def checkState (h : Word128) (n off : Nat) : Option Bad :=
  match hState h with
  | 1 => none
  | 3 =>
    if hCause h == 0x0C then some ⟨0x0C, accessTval h off (hReason h)⟩ else some ⟨hCause h, handleTval h n⟩
  | _ => some ⟨0x08, handleTval h n⟩

/-- Steps 3 to 6 of R199: `off` and `len` in the page, the alignment, S, and the permission bit (0 R, 1 W, 2 A, 3 T). -/
def checkAccess (h : Word128) (off len align perm : Nat) : Option Bad :=
  if off + len > pageBytes (hSize h) then some ⟨0x09, accessTval h off 0⟩
  else if off % align != 0 then some ⟨0x0C, accessTval h off 0x03⟩
  else if hSealed h then some ⟨0x0C, accessTval h off 0x05⟩
  else if !bit (hPerms h) perm then some ⟨0x0C, accessTval h off (if hPerms h == 0 then 0x06 else 0x04)⟩
  else none

/-- The whole check of R199. -/
def checkHandle (h : Word128) (n off len align perm : Nat) : Option Bad :=
  match checkState h n off with
  | some b => some b
  | none => checkAccess h off len align perm

/-- A handle maps a page of a space (R200). -/
def mapsPage (h : Word128) (va : Nat) (size : Nat) : Bool :=
  (hState h == 1 || hState h == 3) && hVa h / pageBytes size == va / pageBytes size

/-- A handle with its state set to revoked (R200). -/
def revoked (h : Word128) : Word128 := (h &&& ~~~((3 : Word128) <<< 120)) ||| ((2 : Word128) <<< 120)

/-- Revocation of a page (R200): the sequence advances, every handle that maps the page is revoked in every context of the space, fetch
slots that pin lines of it are revoked and their pins released (R266), and watches on it are cleared (R366). -/
def revokePage (s : State) (pasid : Nat) (m : DataMap) : State :=
  let lo := m.pa
  let hi := m.pa + pageBytes m.size
  let hit := fun (x : Ctx) (h : Word128) => x.pasid == pasid && hState h == 1 && mapsPage h m.va.toNat m.size
  let fixCtx := fun (x : Ctx) =>
    { x with h := x.h.map (fun e => (e.1, if hit x e.2 then revoked e.2 else e.2)),
             fslots := x.fslots.map (fun e => (e.1,
               if e.2.pinned.any (fun l => lo ≤ 256 * l && 256 * l < hi) then
                 { e.2 with state := .revoked, staged := [], pinned := [] } else e.2)) }
  let fixCore := fun (c : Core) =>
    { c with b0 := fixCtx c.b0, b1 := fixCtx c.b1, sec := fixCtx c.sec,
             watches := c.watches.filter (fun w => w.2.sp || !(lo ≤ w.2.at_ && w.2.at_ < hi)) }
  let clearedSlice := fun (sw : SliceWatch) =>
    match tget (coreAt s sw.core).watches sw.w with
    | some w => !(lo ≤ w.at_ && w.at_ < hi)
    | none => false
  { s with revSeq := s.revSeq + 1, cores := s.cores.map (fun e => (e.1, fixCore e.2)),
           sliceWatches := s.sliceWatches.filter clearedSlice }

end Sys2Proof.Machine
end

