-- ==== Sys2Proof/Machine/Segments.lean ====
section
/-! DEFINITION. Named segments (R56 to R63, R306 to R310, R401): the directory, attachments, releases, write-back, eviction and the moves
of copies that a leaf controller makes. -/
namespace Sys2Proof.Machine

/-- The owner number of a partition, and of a model slot (R56). -/
def slotOwner (slot : Nat) : Nat := 24 + slot

/-- The model slot that the kernel of a partition runs from, if a kernel runs. -/
def kernelSlot (s : State) (part : Nat) : Option Nat := (partAt s part).kernel.map (fun k => k.slot)

/-- The owners in which a strand of a partition looks up a name, in order (R56). -/
def ownersOf (s : State) (part : Nat) : List Nat :=
  match kernelSlot s part with
  | some n => [part, slotOwner n]
  | none => [part]

/-- The segment of an owner by name. -/
def segOwned (s : State) (owner name : Nat) : Option Segment := s.segs.find? (fun g => g.owner == owner && g.name == name)

/-- The first result of a list of options. -/
def firstSome {α : Type} (l : List (Option α)) : Option α :=
  match l with
  | [] => none
  | some a :: _ => some a
  | none :: r => firstSome r

/-- The segment that a name means to a strand of a partition (R56). -/
def segOf (s : State) (part name : Nat) : Option Segment := firstSome ((ownersOf s part).map (fun o => segOwned s o name))

/-- The directory entry of a core for the segment that a name means to a partition's strands (R56, R58). -/
def dirOf (s : State) (core part name : Nat) : Option DirEntry :=
  match segOf s part name with
  | some g => (coreAt s core).dir.find? (fun d => d.owner == g.owner && d.name == name)
  | none => none

/-- Change a directory entry. -/
def modDir (s : State) (core owner name : Nat) (f : DirEntry → DirEntry) : State :=
  let c := coreAt s core
  setCore s core { c with dir := c.dir.map (fun d => if d.owner == owner && d.name == name then f d else d) }

/-- Remove a directory entry, and the core from the segment's set of cores. -/
def dropCopy (s : State) (core owner name : Nat) : State :=
  let c := coreAt s core
  let s := setCore s core { c with dir := c.dir.filter (fun d => !(d.owner == owner && d.name == name)) }
  { s with segs := s.segs.map (fun g => if g.owner == owner && g.name == name then
      { g with cores := g.cores.filter (fun x => x != core) } else g) }

/-- Change a segment of the table. -/
def modSeg (s : State) (owner name : Nat) (f : Segment → Segment) : State :=
  { s with segs := s.segs.map (fun g => if g.owner == owner && g.name == name then f g else g) }

/-- A copy that can be attached: resident-clean, resident-dirty or frozen (R54, R59). -/
def copyHit (d : DirEntry) : Bool := d.state == .clean || d.state == .dirty || d.state == .frozen

/-- The copy that covers a scratchpad offset of a core. -/
def copyAt (c : Core) (off : Nat) : Option DirEntry := c.dir.find? (fun d => d.off ≤ off && off < d.off + d.size)

/-- A range touches a frozen copy of the core (R59). -/
def touchesFrozen (c : Core) (off len : Nat) : Bool :=
  c.dir.any (fun d => d.state == .frozen && off < d.off + d.size && d.off < off + len)

/-- A store of bytes into a core's scratchpad: the bytes, and the dirty bits of the copies they touch (R58, R59). -/
def spStore (c : Core) (bs : List (Nat × Byte)) : Core :=
  let sp := bs.foldl (fun m e => poke m e.1 e.2) c.sp
  let touch := fun (d : DirEntry) =>
    let gs := (bs.filter (fun e => d.off ≤ e.1 && e.1 < d.off + d.size)).map (fun e => (e.1 - d.off) / 4096)
    if gs.isEmpty || !(d.state == .clean || d.state == .dirty) then d
    else { d with state := .dirty, dirty := gs.foldl (fun l g => if l.contains g then l else l ++ [g]) d.dirty }
  { c with sp := sp, dir := if c.dir.isEmpty then [] else c.dir.map touch }

/-- Physical address of byte `o` of a segment's image (R401: the pages recorded at creation, one for each 4 KiB granule). -/
def imageAddr (g : Segment) (o : Nat) : Nat := (g.pages[o / 4096]?).getD 0 + o % 4096

/-- The pages of an image, one physical address for each 4 KiB granule; none unless each is device-owned with R and W (R401). -/
def imagePages (s : State) (pasid image size : Nat) : Option (List Nat) :=
  (List.range (size / 4096)).foldr (fun i acc =>
    match acc, writablePa s pasid (BitVec.ofNat 64 (image + 4096 * i)), findMap s pasid (BitVec.ofNat 64 (image + 4096 * i)) with
    | some l, some pa, some m => if bit m.perms 0 then some (pa :: l) else none
    | _, _, _ => none) (some [])

/-- Write the dirty granules of a copy back to the image with a device-scope release (R59, R61); the copy is clean after it. -/
def writeBack (s : State) (core owner name : Nat) : State :=
  match segOwned s owner name, (coreAt s core).dir.find? (fun d => d.owner == owner && d.name == name) with
  | some g, some d =>
    let s := d.dirty.foldl (fun s k =>
      schedWrite s (imageAddr g (4096 * k)) (peeks (coreAt s core).sp (d.off + 4096 * k) 4096)) s
    modDir s core owner name (fun d => { d with dirty := [], state := if d.state == .dirty then .clean else d.state })
  | _, _ => s

/-- Every copy of a segment is discarded without write-back, and its table entry removed (R308). -/
def removeSegment (s : State) (g : Segment) : State :=
  { s with segs := s.segs.filter (fun e => !(e.owner == g.owner && e.name == g.name)),
           cores := s.cores.map (fun e => (e.1, { e.2 with dir := e.2.dir.filter (fun d => !(d.owner == g.owner && d.name == g.name)) })) }

/-- Load a copy's bytes from the image (R59, R62), as the device-scope ordering point holds them. -/
def loadImage (s : State) (core : Nat) (g : Segment) (off : Nat) : State :=
  let bytes := (List.range (g.size / 4096)).flatMap (fun k => deviceBytes s (imageAddr g (4096 * k)) 4096)
  let c := coreAt s core
  setCore s core { c with sp := pokes c.sp off bytes }

/-- Release of one attachment as by `SDET.rel` (R59, R306): the version of the segment is incremented and the copy's bytes become that
version, unless it is frozen; the attach count falls by one. -/
def releaseAttach (s : State) (core : Nat) (a : Attach) : State :=
  match (coreAt s core).dir.find? (fun d => d.owner == a.owner && d.name == a.name) with
  | none => s
  | some d =>
    let now := s.stamp
    let s := nextStamp s
    let frozen := d.state == .frozen
    let s := if frozen then s else modSeg s d.owner d.name (fun g => { g with version := g.version + 1 })
    modDir s core d.owner d.name (fun d =>
      { d with version := if frozen then d.version else d.version + 1, attach := d.attach - 1,
               writers := if a.write then d.writers - 1 else d.writers, stamp := now })

/-- Every attachment a context holds is released, and its fetch slots are empty (R354, R374). -/
def releaseHoldings (s : State) (core bank : Nat) : State :=
  let x := ctxAt s core bank
  let s := x.atts.foldl (fun s a => releaseAttach s core a) s
  modCtx s core bank (fun x => { x with atts := [], fslots := [] })

/-! ### Space (R61) -/

/-- A range of the segment area of a core is free of copies. -/
def rangeFree (c : Core) (off size : Nat) : Bool := c.dir.all (fun d => d.off + d.size ≤ off || off + size ≤ d.off)

/-- The lowest offset that fits a copy of `size` bytes, in 4 KiB steps. -/
def lowestFit (s : State) (core size : Nat) : Option Nat :=
  let lo := programEnd s core
  let hi := windowOf s core
  let c := coreAt s core
  ((List.range ((hi - lo) / 4096)).map (fun i => lo + 4096 * i)).find? (fun off => off + size ≤ hi && rangeFree c off size)

/-- An MX instruction in flight on a core reads a copy (R273). -/
def mxReads (c : Core) (d : DirEntry) : Bool :=
  (c.b0.flights ++ c.b1.flights ++ c.sec.flights).any (fun f => f.holds.any (fun h =>
    !h.write && f.age < h.upto && h.lo < d.off + d.size && d.off < h.lo + h.len))

/-- The next victim of R61: an unattached RETAINED copy that no MX instruction in flight reads (R273), least recently detached, ties to the lower
offset. -/
def victim (s : State) (core : Nat) : Option DirEntry :=
  let ok := fun (d : DirEntry) => d.attach == 0 && copyHit d && !mxReads (coreAt s core) d &&
    (match segOwned s d.owner d.name with | some g => g.cls == 1 | none => false)
  ((coreAt s core).dir.filter ok).foldl (fun best d => match best with
    | none => some d
    | some b => if d.stamp < b.stamp || (d.stamp == b.stamp && d.off < b.off) then some d else some b) none

/-- The offset that a new copy of `size` bytes takes on a core as it stands, with a free entry of its directory (R61). -/
def spaceFor (s : State) (core size : Nat) : Option Nat := if (coreAt s core).dir.length < 16 then lowestFit s core size else none

/-- What becomes of a core when victims go until a copy fits and the directory has room (R61); none when it cannot. -/
def makeRoom : Nat → State → Nat → Nat → Option (State × Nat)
  | 0, _, _, _ => none
  | fuel + 1, s, core, size =>
    match spaceFor s core size with
    | some off => some (s, off)
    | none =>
      match victim s core with
      | none => none
      | some d => makeRoom fuel (dropCopy (writeBack s core d.owner d.name) core d.owner d.name) core size

/-- Room for a copy on a core: the state after all evictions and the offset (R61). At most 16 copies can be evicted. -/
def roomFor (s : State) (core size : Nat) : Option (State × Nat) := makeRoom 17 s core size

/-- A copy is on its way out by eviction, and not by a migration, for which another core has a copy loading (R59). -/
def beingEvicted (s : State) (d : DirEntry) : Bool :=
  d.state == .evicting && s.cores.all (fun e => e.2.dir.all (fun l => !(l.owner == d.owner && l.name == d.name && l.state == .loading)))

/-- The copies of a core that were being evicted are absent: their dirty granules are in the image (R59, R61). -/
def endEvictions (s : State) (core : Nat) : State :=
  ((coreAt s core).dir.filter (beingEvicted s)).foldl (fun s d => dropCopy (writeBack s core d.owner d.name) core d.owner d.name) s

/-- A copy begins to leave; a frozen one is discarded, and is absent at once (R59). -/
def beginEviction (s : State) (core : Nat) (d : DirEntry) : State :=
  if d.state == .frozen then dropCopy s core d.owner d.name else modDir s core d.owner d.name (fun d => { d with state := .evicting })

/-- How a leaf comes to room for a copy: none, one victim more begins to leave, or the offset (R61). -/
inductive Room where
  | none
  | evict (s : State)
  | at_ (s : State) (off : Nat)
  deriving DecidableEq, Repr

/-- A step of a leaf towards room for a copy. The victims leave one at a time; none begins unless enough space can be freed. -/
def roomStep (s : State) (core size : Nat) : Room :=
  let s := endEvictions s core
  if (roomFor s core size).isNone then .none
  else match spaceFor s core size with
    | some off => .at_ s off
    | none => match victim s core with
      | some d => .evict (beginEviction s core d)
      | none => .none

/-- The copies that stand in the directories of a state and no longer in those of another. -/
def leaving (s t : State) : List (Nat × DirEntry) :=
  s.cores.flatMap (fun e => (e.2.dir.filter (fun d => (coreAt t e.1).dir.all (fun l => !(l.owner == d.owner && l.name == d.name)))).map (fun d => (e.1, d)))

/-- Bytes go from one core's scratchpad to another's. -/
def bring (s : State) (core to_ from_ off size : Nat) : State :=
  setCore s core { coreAt s core with sp := pokes (coreAt s core).sp to_ (peeks (coreAt s from_).sp off size) }

/-- The core that a frozen copy is replicated from: at least mesh distance, ties to the lowest core id (R62). -/
def nearestCopy (s : State) (core : Nat) (g : Segment) : Option Nat :=
  let holds := fun (c : Nat) => c != core && (coreAt s c).dir.any (fun d => d.owner == g.owner && d.name == g.name && d.state == .frozen)
  ((List.range 96).filter holds).foldl (fun b c => match b with
    | none => some c
    | some x => if meshDistance core c < meshDistance core x then some c else some x) none

/-- Enter a copy in the directory of a core; it takes its stamp now (R61). -/
def placeCopy (s : State) (core : Nat) (g : Segment) (off : Nat) (st : CopyState) (dirty : List Nat) : State :=
  let c := coreAt s core
  let d : DirEntry := { name := g.name, owner := g.owner, off := off, size := g.size, state := st, version := g.version, attach := 0,
                        writers := 0, stamp := s.stamp, dirty := dirty }
  let s := nextStamp (setCore s core { c with dir := c.dir ++ [d] })
  modSeg s g.owner g.name (fun g => { g with cores := if g.cores.contains core then g.cores else g.cores ++ [core] })

/-- A load or a replication begins (R59, R62): what the copy is to hold is read now, from the nearest frozen copy or from the image, so that a store
published later does not reach it (R63). -/
def beginLoad (s : State) (core : Nat) (g : Segment) (off : Nat) : State :=
  let s := placeCopy s core g off .loading []
  let source := if g.frozen then (nearestCopy s core g).bind (fun c =>
    ((coreAt s c).dir.find? (fun d => d.owner == g.owner && d.name == g.name)).map (fun d => (c, d.off))) else none
  match source with
  | some (c, o) => bring s core off c o g.size
  | none => loadImage s core g off

end Sys2Proof.Machine
end

