-- ==== Sys2Proof/Machine/Fetch.lean ====
section
/-! DEFINITION. Tile fetches into the fetch slots (R248, R249, R264 to R266). -/
namespace Sys2Proof.Machine

/-- Fields of the shape word of `TFET` (R264). -/
def shapeRows (w : Word) : Nat := bits w.toNat 0 8
def shapePitch (w : Word) : Nat := bits w.toNat 8 16
def shapeFmt (w : Word) : Nat := bits w.toNat 24 8
def shapeSparse (w : Word) : Nat := bits w.toNat 32 2

/-- Stored values of each 64 (R270): 0 dense, 32, 16. -/
def sparseCount (code : Nat) : Nat :=
  match code with
  | 1 => 32
  | 2 => 16
  | _ => 0

/-- Bytes of a row of a tile with element size `e` (R264): 128 bytes of values, and one 8-byte mask for each group. -/
def rowBytes (N e : Nat) : Nat := if N == 0 then 128 else 128 + 8 * (128 / (e * N))

/-- The row size that the checks of R264 use: the element size is that of fmt. -/
def shapeRowBytes (w : Word) : Nat := rowBytes (sparseCount (shapeSparse w)) (elemBytesOf (shapeFmt w))
where
  /-- 2 for bf16, 4 for fp32, otherwise 1. -/
  elemBytesOf (fmt : Nat) : Nat := if fmt == 1 then 4 else if fmt == 2 then 2 else 1

/-- The shape word keeps the rules of R264, its pitch included. -/
def shapeOk (w : Word) : Bool :=
  bits w.toNat 34 30 == 0 && shapeSparse w != 3 && [1, 2, 3, 4, 6, 7].contains (shapeFmt w) && 1 ≤ shapeRows w
    && shapePitch w % 64 == 0 && shapeRowBytes w ≤ shapePitch w

/-- A byte of global memory as a tile fetch reads it (R147, R335): an engine command with no own stores, which refreshes at the core before it reads. -/
def fetchByte (s : State) (core bank : Nat) (job : FetchJob) (a : Nat) : Byte :=
  histByte s.first s.hist
    (entryVisible (partyOf s core bank) { job.seen with core := laterPlace job.seen.core (nowPlace s) }) a

/-- The window that decodes a row starting at a physical address, among the windows and for the partition of a fetch (R248, R249). -/
def windowFor (job : FetchJob) (a : Nat) : Option Window :=
  job.wins.find? (fun w =>
    let b := w.base.toNat
    bit b 11 && bits b 4 5 == job.part && bits b 12 40 * 4096 ≤ a && a < bits w.lim.toNat 12 40 * 4096
      && 2 ≤ bits b 0 4 && bits b 0 4 ≤ 7 && !(bits b 0 4 == 5 && bits w.bnd.toNat 0 12 == 0))

/-- The format of a window. -/
def windowFmt (w : Window) : Nat := bits w.base.toNat 0 4

/-- The scales of an FP4 row that starts at a physical address (R248): of each of its 32 blocks the block scale and the band scale, read through the
home slices. The two halves of a row may lie in different rows of the window, and so in different bands. -/
def fp4Scales (s : State) (w : Window) (a : Nat) : List Byte × List Nat :=
  let o := fun (i : Nat) => a - bits w.base.toNat 12 40 * 4096 + 4 * i
  let band := fun (i : Nat) => bits w.bnd.toNat 12 40 * 4096 + 2 * (o i / (128 * bits w.bnd.toNat 0 12) / 64)
  ((List.range 32).map (fun i => homeByte s (bits w.bsc.toNat 0 52 + o i / 4)),
   (List.range 32).map (fun i => natOfBytes [homeByte s (band i), homeByte s (band i + 1)]))

/-- The format of a row that starts at a physical address: the window's, or that of the shape word (R265). -/
def rowFmt (job : FetchJob) (a : Nat) : Nat := ((windowFor job a).map windowFmt).getD (shapeFmt job.shape)

/-- The bytes of a row as it is decoded: the masks of a sparse row by the element size of its format (R265, R270). -/
def fetchBytes (job : FetchJob) (a : Nat) : Nat := rowBytes (sparseCount (shapeSparse job.shape)) (shapeRowBytes.elemBytesOf (rowFmt job a))

/-- The ranges of scales that a row is decoded with (R248). -/
def scaleRanges (w : Window) (a : Nat) : List (Nat × Nat) :=
  let o := a - bits w.base.toNat 12 40 * 4096
  let band := fun (i : Nat) => bits w.bnd.toNat 12 40 * 4096 + 2 * ((o + 4 * i) / (128 * bits w.bnd.toNat 0 12) / 64)
  (bits w.bsc.toNat 0 52 + o / 4, 32) :: ((List.range 32).map (fun i => (band i, 2))).eraseDups

/-- The ranges of device memory that a row is fetched from. -/
def fetchRanges (job : FetchJob) (a : Nat) : List (Nat × Nat) :=
  (a, fetchBytes job a) :: (match windowFor job a with
    | some w => if windowFmt w == 5 then scaleRanges w a else []
    | none => [])

/-- One fetched row: its format and its bytes with their scales. -/
def fetchRow (s : State) (core bank : Nat) (job : FetchJob) (a : Nat) : Nat × Row :=
  let bytes := (List.range (fetchBytes job a)).map (fun i => fetchByte s core bank job (a + i))
  match windowFor job a with
  | none => (shapeFmt job.shape, { bytes := bytes, scales := [], bands := [] })
  | some w =>
    if windowFmt w == 5 then let (sc, b) := fp4Scales s w a; (5, { bytes := bytes, scales := sc, bands := b })
    else (windowFmt w, { bytes := bytes, scales := [], bands := [] })

/-- The first mask of a sparse row whose population differs from N. -/
def badMask (N e : Nat) (r : Row) : Bool :=
  (List.range (128 / (e * N))).any (fun g => popcount 64 (natOfBytes ((r.bytes.drop (128 + 8 * g)).take 8)) != N)

/-- The addresses of the rows of a tile. -/
def rowAddrs (base : Nat) (shape : Word) : List Nat := (List.range (shapeRows shape)).map (fun r => base + r * shapePitch shape)

/-- The L2 lines that `size` bytes at `a` lie in. -/
def linesOf (size a : Nat) : List Nat := (List.range ((a + size - 1) / 256 - a / 256 + 1)).map (fun i => a / 256 + i)

/-- What a tile fetch delivers: a loaded slot, or the cause, the failing row and the reason (R265). -/
def stageTile (s : State) (core bank : Nat) (job : FetchJob) : Except (Nat × Nat × Nat) FSlot :=
  let N := sparseCount (shapeSparse job.shape)
  let base := hBase job.handle + job.off
  let n := shapeRows job.shape
  let addrs := rowAddrs base job.shape
  let rows := addrs.map (fetchRow s core bank job)
  let fmt := (rows.head?.map (fun r => r.1)).getD (shapeFmt job.shape)
  if rows.any (fun r => r.1 != fmt) || (N != 0 && !([2, 3, 4, 6, 7].contains fmt)) then .error (0x14, 0, 0x08)
  else
    let e := if fmt == 2 then 2 else 1
    match (if N == 0 then none else (rows.zip (List.range n)).find? (fun r => badMask N e r.1.2)) with
    | some r => .error (0x15, r.2, 0)
    | none =>
      .ok { state := .loaded, handle := job.handle, addr := base, shape := job.shape, rows := n, format := fmt, sparse := N,
            staged := rows.map (fun r => r.2), pinned := addrs.flatMap (fun a => linesOf (fetchBytes job a) a), mark := s.hist.length }

/-- A row staged again from its lines (R266): bytes that were written since it was staged hold their new value. -/
def rowAgain (s : State) (mark a : Nat) (r : Row) : Row :=
  let since := s.hist.take (s.hist.length - mark)
  { r with bytes := ((List.range r.bytes.length).zip r.bytes).map (fun e =>
      if since.any (fun h => (byteIn h.bytes (a + e.1)).isSome) then homeByte s (a + e.1) else e.2) }

/-- A fetch slot staged again (R266): a row that was written meanwhile holds its old or its new bytes. -/
def restage (s : State) (n : Nat) (f : FSlot) : FSlot :=
  if f.state != .loaded then f
  else
    { f with staged := ((rowAddrs f.addr f.shape).zip f.staged).map (fun e =>
        if Config.pick (s.free + n) e.1 % 2 == 0 then e.2 else rowAgain s f.mark e.1 e.2) }

end Sys2Proof.Machine
end

