-- ==== Sys2Proof/Machine/Scratch.lean ====
section
/-! DEFINITION. The scratchpad as a reader on its core finds it: bytes that hold an old or a new value for a while (R268, R289, R326), and
stores that land. -/
namespace Sys2Proof.Machine

/-- Operand row `r` of a scratchpad operand (R262). -/
def spRow (sp : Memory) (from_ : Nat × Nat) (r : Nat) : Row := { bytes := peeks sp (from_.1 + r * from_.2) 128, scales := [], bands := [] }

/-- The bytes of a run, with addresses from `a` upward. -/
def placed (a : Nat) (bs : List Byte) : List (Nat × Byte) := (List.range bs.length).zip bs |>.map (fun e => (a + e.1, e.2))

/-- The writes of an accord instruction from its operands, read at age 2 (R279 to R281). -/
def accordWrites (sp : Memory) (kind : AccordKind) (desc tile pitch count : Nat) : List (Nat × Write) :=
  let d := accordOf (peeks sp desc (64 + 2 * 16 * 128))
  let target := fun (_ : Unit) => tileVals d.fmt ((List.range d.N).map (spRow sp (tile, pitch)))
  match kind with
  | .gen =>
    let r := weightRows d
    ((List.range d.N).zip r.1).map (fun e => (4 + e.1 / 8, Write.sp (placed (tile + e.1 * pitch) (e.2.bytes.take 128))))
      ++ [(4 + (d.N - 1) / 8, .flags 3 r.2.bits)]
  | .proj =>
    let r := projectAll d (bitRows (d.J * 128) d.seed) (target ())
    [(76, .sp (placed (desc + 64) (r.1.flatMap (bytesOf 2)))), (76, .flags 3 r.2.bits)]
  | .seek =>
    match seek d (target ()) count d.seed none with
    | none => []
    | some t =>
      [(64 * count + 12, .sp (placed desc (bytesOf 8 t.seed))),
       (64 * count + 12, .sp (placed (desc + 64) (t.coef.flatMap (bytesOf 2)))),
       (64 * count + 12, .sp (placed (desc + 16) (bytesOf 4 t.res))),
       (64 * count + 12, .flags 3 t.flags.bits)]

/-- What an accord instruction in flight will write to scratchpad, while its operands have not been read. DESIGN CHOICE (log entry 10): R268 gives a reader the old
value or the new one; while something else is still on its way to the scratchpad the new one is not decided, and the reader gets the old one. -/
def accordComing (s : State) (core : Nat) (f : Flight) : List Write :=
  let c := coreAt s core
  let still := (c.b0.flights ++ c.b1.flights ++ c.sec.flights).all (fun g => g.id == f.id || (g.holds.all (fun h => !h.write) && g.slot != 7))
  match f.late with
  | .accord kind desc tile pitch count =>
    if !still || s.cores.any (fun e => e.2.cmds.any (fun d => !d.alt.isEmpty)) then []
    else (accordWrites c.sp kind desc tile pitch count).map (fun e => e.2)
  | _ => []

/-- The new values of bytes that MX instructions in flight on a context will write (R268): known once fixed, and before that as the
scratchpad now gives them. -/
def mxAlts (s : State) (core self : Nat) (f : Flight) : List (Nat × Byte) :=
  if f.id == self || f.age == 0 then []
  else
    let coming := accordComing s core f
    (f.holds.filter (fun h => h.write && f.age < h.upto)).flatMap (fun h =>
      (List.range h.len).filterMap (fun i =>
        let a := h.lo + i
        let known := (toLand f ++ coming).filterMap (fun w => match w with
          | .sp bs => byteIn bs a
          | _ => none)
        known.getLast?.map (fun b => (a, b))))

/-- The wall cycle of its core in which a byte that a command writes lands on another core. -/
def farTime (c : Cmd) (a : Nat) : Nat := c.born + Config.pick c.id (2 ^ 48 + a)

/-- The new values that engine commands of the cores write into a core's scratchpad and that `ok` picks, by the wall cycle of the command's core. -/
def cmdBytes (s : State) (core : Nat) (ok : Nat → Nat → Cmd → Nat → Bool) : List (Nat × Byte) :=
  s.cores.flatMap (fun e => e.2.cmds.flatMap (fun c =>
    (c.alt.filter (fun b => b.1 == core && ok e.1 e.2.wcyc.toNat c b.2.1)).map (fun b => b.2)))

/-- The bytes of a core's scratchpad that engine commands are writing and that hold their old or their new value: those of its own commands until the tag is
set (R289), those of another core's in the wall cycle in which they land (R326, R336). -/
def cmdAlts (s : State) (core : Nat) : List (Nat × Byte) := cmdBytes s core (fun from_ now c a => from_ == core || now == farTime c a)

/-- The bytes that commands of other cores have landed in a core's scratchpad in an earlier wall cycle: every reader finds them (R326, R336). -/
def farLanded (s : State) (core : Nat) : List (Nat × Byte) := cmdBytes s core (fun from_ now c a => from_ != core && farTime c a < now)

/-- The values before this wall cycle's stores that a reader in a bank may still find (R326): not where its own strand has landed a later one (R325). -/
def staleFor (bank : Nat) : List Stale → List (Nat × Byte)
  | [] => []
  | e :: r =>
    if e.bank != bank && r.all (fun g => g.bank != bank || g.at_ != e.at_) then (e.at_, e.old) :: staleFor bank r else staleFor bank r

/-- Every byte of a core's scratchpad that a reader in a bank may find with another value than the stored one. -/
def altBytes (s : State) (core bank self : Nat) : List (Nat × Byte) :=
  let c := coreAt s core
  (c.b0.flights ++ c.b1.flights ++ c.sec.flights).flatMap (mxAlts s core self) ++ cmdAlts s core
    ++ staleFor bank c.stale

/-- The scratchpad of a core as a reader in a bank finds it; `salt` tells readers of one cycle apart. -/
def spView (s : State) (core bank self salt : Nat) : Memory :=
  (altBytes s core bank self).foldl (fun m e =>
    if Config.pick s.free (e.1 + 2 ^ 32 * (salt + 64 * (3 * core + bank))) % 2 == 1 then poke m e.1 e.2 else m)
    ((farLanded s core).foldl (fun m e => poke m e.1 e.2) (coreAt s core).sp)

/-- The scratchpad as the running instruction finds it. -/
def mySp (s : State) : Memory := spView s s.cur.core s.cur.bank 0 s.cur.slot

/-- A store of a context's pipelines lands (R207): the bytes, and for the other streams their values before (R326). -/
def landSp (s : State) (core bank : Nat) (bs : List (Nat × Byte)) : State :=
  let c := coreAt s core
  let old := bs.map (fun e => ({ bank := bank, at_ := e.1, old := peek c.sp e.1 } : Stale))
  setCore s core (spStore { c with stale := c.stale ++ old } bs)

end Sys2Proof.Machine
end

