-- ==== Sys2Proof/Machine/Ops.lean ====
section
/-! DEFINITION. The shared operations of every meaning: putting a result in flight, landings and beats (R130 to R136), arrivals (R134), the
drain (R347), taking a trap and returning from one (R346 to R355, R364), and ending a kernel (R354). -/
namespace Sys2Proof.Machine

/-! ### Putting results in flight -/

/-- A flight of the running instruction with no destination yet. -/
def newFlight (s : State) (last : Nat) : Flight :=
  { id := s.nextId, bundle := (me s).scyc.toNat, slot := s.cur.slot, age := 0, last := last, occ := 1,
    wall := !s.cur.gelxis || s.cur.bank == 2, dests := [], writes := [], late := .none, holds := [], uses := [], reads := [],
    var := false, arrived := false, buffered := false, code := 0 }

/-- Put a flight in flight. -/
def push (s : State) (f : Flight) : State :=
  modMe { s with nextId := s.nextId + 1 } (fun x => { x with flights := x.flights ++ [f] })

/-- What an instruction put in flight has loaded these ranges (R359): `s` is the state in which it ran and `t` the state after it. -/
def markReads (s t : State) (rs : List (Nat × Nat)) : State :=
  modMe t (fun x => { x with flights := x.flights.map (fun f => if s.nextId ≤ f.id then { f with reads := rs } else f) })

/-- A write to g[n], due `due`: discarded for g0 (R139). -/
def gWrite (n due : Nat) (v : Word) : List (Nat × Write) := if n = 0 then [] else [(due, .g n v)]

/-- The destination g[n]: none for g0. -/
def gDest (n due : Nat) : List (Loc × Nat) := if n = 0 then [] else [(.g n, due)]

/-- A result to g[n], due `due`, when `on`; a false guard counts as in flight and writes nothing (R130). -/
def toG (s : State) (on : Bool) (n due occ : Nat) (v : Word) : State :=
  push s { newFlight s due with occ := occ, dests := gDest n due, writes := if on then gWrite n due v else [] }

/-- A result to p[n]; writes to p0 are discarded. -/
def toP (s : State) (on : Bool) (n due : Nat) (v : Bool) : State :=
  push s { newFlight s due with
    dests := if n = 0 then [] else [(.p n, due)], writes := if n = 0 || !on then [] else [(due, .p n v)] }

/-- A result to the bits of `mask` of k[n]; writes to k0 are discarded. -/
def toK (s : State) (on : Bool) (n due : Nat) (mask v : Word) (flags : Nat) : State :=
  push s { newFlight s due with
    dests := if n = 0 then [] else [(.k n, due)],
    writes := if !on then [] else (if n = 0 then [] else [(due, .k n mask v)]) ++ (if flags == 0 then [] else [(due, .flags (if s.cur.slot == 5 then 1 else 0) flags)]) }

/-- An instruction that only occupies its slot. -/
def occupy (s : State) (occ : Nat) : State := push s { newFlight s occ with occ := occ }

/-- A write that lands at c + 1 and has no register destination. -/
def landNext (s : State) (on : Bool) (w : Write) : State :=
  push s { newFlight s 1 with writes := if on then [(1, w)] else [] }

/-! ### Landings -/

/-- Set the event latch of every context of a core (R365). -/
def pokeCore (c : Core) : Core :=
  { c with b0 := { c.b0 with latch := true }, b1 := { c.b1 with latch := true }, sec := { c.sec with latch := true } }

/-- An addition to a semaphore (R303, R304): made unless the sum passes 2^32 - 1. The second part says whether it was made. -/
def semAdd (c : Core) (n v : Nat) : Core × Bool :=
  let sum := (tgetD c.sems n 0).toNat + v
  if sum ≥ 2 ^ 32 then (c, false) else (pokeCore { c with sems := tset c.sems n (BitVec.ofNat 32 sum) }, true)

/-- The `tval` of an imprecise 0x1C (R304). -/
def overflowTval (sem core : Nat) : Word := BitVec.ofNat 64 (sem % 256 + 256 * (core % 128))

/-- One landing on a context of a core. -/
def landWrite (s : State) (core bank : Nat) (w : Write) : State :=
  match w with
  | .g n v => if n = 0 then s else modCtx s core bank (fun x => { x with g := tset x.g n v })
  | .p n v => if n = 0 then s else modCtx s core bank (fun x => { x with p := tset x.p n v })
  | .k n mask v =>
    if n = 0 then s
    else modCtx s core bank (fun x => { x with k := tset x.k n ((tgetD x.k n 0 &&& ~~~mask) ||| (v &&& mask)) })
  | .h n v => modCtx s core bank (fun x => { x with h := tset x.h n v })
  | .bt n v => modCtx s core bank (fun x => { x with bt := tset x.bt n v })
  | .els file vs => modCtx s core bank (fun x => { x with m := vs.foldl (fun m e => tset m (elKey file e.1) e.2) x.m })
  | .flags group bits => modCtx s core bank (fun x => { x with fflags := raise x.fflags group bits })
  | .csr n v => writeCsr s core bank n v
  | .sp bs => landSp s core bank bs
  | .tile t bs => modCtx s core bank (fun x =>
      let o := tgetD x.tiles t Tile.reset
      { x with tiles := tset x.tiles t { o with bytes := bs.foldl (fun m e => poke m e.1 e.2) o.bytes } })
  | .tileAll t bytes => modCtx s core bank (fun x => { x with tiles := tset x.tiles t { tgetD x.tiles t Tile.reset with bytes := bytes } })
  | .semSet n v =>
    let c := coreAt s core
    setCore s core (pokeCore { c with sems := tset c.sems n (BitVec.ofNat 32 v) })
  | .semAdd n v =>
    let r := semAdd (coreAt s core) n v
    if r.2 then setCore s core r.1
    else sendReport s core bank { cause := 0x1C, tval := overflowTval n core, slot := 31, due := 0, wp := 0 }
  | .ctbClear mask =>
    let c := coreAt s core
    setCore s core { c with ctb := c.ctb &&& ~~~mask }
  | .acquire scope => refresh s core bank scope (nowPlace s)
  | .unpin n => modCtx s core bank (fun x => { x with fslots := tset x.fslots n FSlot.reset })

/-- Landings that come first in a cycle: `SEMSET` before additions (R304), CSR writes before flags (R247). -/
def landsFirst (w : Write) : Bool :=
  match w with
  | .semSet _ _ => true
  | .csr _ _ => true
  | _ => false

/-- The landing of an array multiply (R276): the accumulation applied to the tile's bytes, and the flags of group M. -/
def landMultiply (s : State) (core bank : Nat) (j : ArrayJob) (keep : Bool) : State :=
  modCtx s core bank (fun x =>
    let o := tgetD x.tiles j.tile Tile.reset
    let r := multiply j o.bytes
    { x with tiles := if keep then tset x.tiles j.tile { o with bytes := r.1 } else x.tiles, fflags := raise x.fflags 3 r.2.bits })

/-- A flight still writes a place: a buffered result that was discarded does not (R86). -/
def stillWrites (f : Flight) (l : Loc) : Bool := !f.buffered || f.dests.any (fun d => d.1 == l)

/-- A landing less the places that its flight no longer writes. -/
def keptWrite (f : Flight) (w : Write) : Option Write :=
  let on := fun (l : Loc) => if stillWrites f l then some w else none
  match w with
  | .g n _ => on (.g n)
  | .p n _ => on (.p n)
  | .k n _ _ => on (.k n)
  | .h n _ => on (.h n)
  | .bt n _ => on (.bt n)
  | .els file vs => if f.buffered then some (.els file (vs.filter (fun e => stillWrites f (.el file e.1)))) else some w
  | .tile n _ => on (.tile n)
  | .tileAll n _ => on (.tile n)
  | w => some w

/-- The landings of a flight that are due at its age. -/
def landDue (s : State) (core bank : Nat) (first : Bool) (f : Flight) : State :=
  let s := (f.writes.filter (fun e => e.1 == f.age && landsFirst e.2 == first)).foldl (fun s e =>
    match keptWrite f e.2 with
    | some w => landWrite s core bank w
    | none => s) s
  match f.late with
  | .mma j => if !first && f.age == f.last then landMultiply s core bank j (stillWrites f (.tile j.tile)) else s
  | .tileLoad t _ _ got =>
    if !first && f.age == f.last && stillWrites f (.tile t) then landWrite s core bank (.tile t ((List.range got.length).zip got)) else s
  | _ => s

/-! ### Beats: reads that an instruction in flight makes after its issue -/

/-- The rows of A that are read at an age (R267). -/
def rowsAt (j : ArrayJob) (age : Nat) : List Nat := (List.range j.rows).filter (fun i => 2 + i * j.cols / 256 == age)

/-- The captures of an array multiply at its age (R267). -/
def captureArray (sp : Memory) (age : Nat) (j : ArrayJob) : ArrayJob × Fl :=
  let a := match j.aFrom with
    | some p => j.a ++ (rowsAt j age).map (spRow sp p)
    | none => j.a
  if age != 2 then ({ j with a := a }, Fl.none)
  else
    match j.desc with
    | some d =>
      let r := weightRows (accordOf (peeks sp d (64 + 2 * 16 * 128)))
      ({ j with a := a, b := r.1 }, r.2)
    | none =>
      match j.bFrom with
      | some p => ({ j with a := a, b := (List.range (j.steps * j.cols)).map (spRow sp p) }, Fl.none)
      | none => ({ j with a := a }, Fl.none)

/-- The reads of a flight at its age, after the landings of that cycle (R189, R207, R267). -/
def beat (sp : Memory) (x : Ctx) (f : Flight) : Flight :=
  match f.late with
  | .moveRows src dst n mask =>
    if f.age < n then
      let o := advance src f.age
      let v := lanes.map (fun i => storedEl x o.file (laneEl o i))
      { f with writes := f.writes ++ [(f.age + 2, lanesOut (advance dst f.age) mask (lane v))] }
    else f
  | .storeRows src n off mask =>
    if f.age < n then
      let o := advance src f.age
      let bs := (lanes.filter (laneOn mask)).flatMap (fun i =>
        placed (off + 256 * f.age + 4 * i) (bytesOf 4 (storedEl x o.file (laneEl o i)).toNat))
      { f with writes := f.writes ++ [(f.age + 1, .sp bs)] }
    else f
  | .mma j =>
    let r := captureArray sp f.age j
    { f with late := .mma r.1, writes := if r.2 == Fl.none then f.writes else f.writes ++ [(f.last, .flags 3 r.2.bits)] }
  | .tileLoad t off len got =>
    if 2 ≤ f.age && 1024 * (f.age - 2) < len then
      let n := min 1024 (len - 1024 * (f.age - 2))
      { f with late := .tileLoad t off len (got ++ peeks sp (off + 1024 * (f.age - 2)) n) }
    else f
  | .accord kind desc tile pitch count =>
    if f.age == 2 then
      { f with late := if kind == .seek then .sought desc tile pitch count else .none
               writes := f.writes ++ accordWrites sp kind desc tile pitch count }
    else f
  | _ => f

/-! ### One cycle of the pipelines -/

/-- A flight has landed everything. -/
def landed (f : Flight) : Bool := f.last ≤ f.age && (!f.var || f.arrived)

/-- Whether a flight advances in a cycle: by wall cycles, or because its context issued (R133). -/
def advances (issued : Bool) (f : Flight) : Bool := issued || f.wall

/-- A flight one cycle older. A variable result that has not arrived waits at its due age, without its landings (R134). -/
def older (f : Flight) : Flight :=
  if f.var && !f.arrived then { f with age := min (f.age + 1) f.last } else { f with age := f.age + 1 }

/-- Flights of a context one cycle on; `mv` says which advance. -/
def ageFlights (mv : Flight → Bool) (fs : List Flight) : List Flight := fs.map (fun f => if mv f then older f else f)

/-- The flights of a context that land something in this cycle. -/
def landing (mv : Flight → Bool) (f : Flight) : Bool := mv f && (!f.var || f.arrived)

/-- The landings of one phase of a context, from the flights as they stood when the cycle began to land. -/
def landPhase (s : State) (core bank : Nat) (first : Bool) (fs : List Flight) : State :=
  fs.foldl (fun s f => landDue s core bank first f) s

/-- The beats of a context and the removal of flights that have landed everything. -/
def closeCycle (s : State) (core bank : Nat) (moved : List Nat) : State :=
  let view := fun (f : Flight) => spView s core bank f.id (32 + f.slot)
  modCtx s core bank (fun x => { x with flights :=
    (x.flights.map (fun f => if moved.contains f.id then beat (view f) x f else f)).filter (fun f => !landed f) })

/-- One cycle of the pipelines of a core: `mv bank` says which flights of a bank advance. -/
def tickCore (s : State) (core : Nat) (mv : Nat → Flight → Bool) : State :=
  let banks := [0, 1, 2].filter (fun b => !(ctxAt s core b).flights.isEmpty)
  let go := banks.map (fun b => (b, ageFlights (mv b) (ctxAt s core b).flights, (ctxAt s core b).flights.filter (mv b)))
  let s := go.foldl (fun s e => modCtx s core e.1 (fun x => { x with flights := e.2.1 })) s
  let lands := go.map (fun e => (e.1, e.2.1.filter (fun f => e.2.2.any (fun g => g.id == f.id) && (!f.var || f.arrived))))
  let s := lands.foldl (fun s e => landPhase s core e.1 true e.2) s
  let s := lands.foldl (fun s e => landPhase s core e.1 false e.2) s
  go.foldl (fun s e => closeCycle s core e.1 (e.2.2.map (fun f => f.id))) s

/-! ### Arrivals (R134) -/

/-- The deferred cause of a failed tile fetch (R265). -/
def fetchFailure (slot cause row reason : Nat) (f : Flight) : Report :=
  { cause := cause, tval := BitVec.ofNat 64 (slot % 4 + 256 * row + 65536 * reason), slot := f.slot, due := f.last - f.age, wp := 0 }

/-- A variable result takes its value (R202, R264): the handle of a walk, the staged tile of a fetch. An atomic has its value from its
performance. -/
def formResult (s : State) (core bank : Nat) (f : Flight) : State × Flight :=
  let x := ctxAt s core bank
  match f.late with
  | .xlt n va perms =>
    let s := useCache s core x.pasid va
    (s, { f with late := .none, writes := [(f.last, .h n (translate s x.pasid va perms))] })
  | .fetch slot job =>
    let put := fun (s : State) (sl : FSlot) =>
      if stillWrites f (.fslot slot) then modCtx s core bank (fun x => { x with fslots := tset x.fslots slot sl }) else s
    match stageTile s core bank job with
    | .ok sl => (put s sl, { f with late := .none })
    | .error e =>
      let fail := fetchFailure slot e.1 e.2.1 e.2.2 f
      (modCtx (put s FSlot.reset) core bank (fun x => { x with deferred := insertDue fail x.deferred }), { f with late := .none })
  | _ => (s, { f with late := .none })

/-- The ranges of device memory that a variable result is read from: those of a global load, and the rows of a tile fetch with their scales. -/
def homeReads (f : Flight) : List (Nat × Nat) :=
  match f.late with
  | .fetch _ job => (rowAddrs (hBase job.handle + job.off) job.shape).flatMap (fetchRanges job)
  | _ => if f.slot == 8 then f.reads else []

/-- What a variable result of a core is read from can be reached (R395). -/
def flightReached (s : State) (core : Nat) (f : Flight) : Bool := (homeReads f).all (fun r => homeReached s (dieOf core) r.1)

/-- A context has a result in flight whose home is still in training (R395). -/
def homesOwed (s : State) (core bank : Nat) : Bool :=
  (ctxAt s core bank).flights.any (fun f => f.var && !f.arrived && !flightReached s core f)

/-- The result that met an error keeps its destination's old value, and the cause is due with it (R359): a fetch slot is empty, a handle faulted with 0x0A. -/
def spoilFlight (s : State) (core bank : Nat) (addr : Word) (h : Flight) : State :=
  let spoil := fun (f : Flight) =>
    if f.id != h.id then f
    else match f.late with
      | .xlt n va _ =>
        { f with late := .none, var := false, writes := [(f.last, .h n (mkHandle 0 0 false 0x0A 0 va.toNat (s.revSeq % 2 ^ 24) 3 0))] }
      | _ => { f with writes := [], late := .none }
  let empty := fun (x : Ctx) => match h.late with
    | .fetch n _ => tset x.fslots n FSlot.reset
    | _ => x.fslots
  deferAt (modCtx s core bank (fun x => { x with flights := x.flights.map spoil, fslots := empty x })) core bank addr h.slot (h.last - h.age)

/-- The first address of a variable result of a core whose home has failed (R395). -/
def failedRead (s : State) (core : Nat) (f : Flight) : Option Nat :=
  ((homeReads f).find? (fun r => homeFailed s (dieOf core) r.1)).map (fun r => r.1)

/-- A variable result that is read from a failed home has met an error. -/
def meetFailure (s : State) (core bank : Nat) (f : Flight) : State × Flight :=
  match failedRead s core f with
  | none => (s, f)
  | some a =>
    let s := spoilFlight s core bank (stackError a) f
    (s, ((ctxAt s core bank).flights.find? (fun g => g.id == f.id)).getD f)

/-- The result that lands the moment it arrives: it is due, or runs in wall time, or is a handle (R134, R135). -/
def landsNow (f : Flight) : Bool := f.last ≤ f.age || f.wall || f.dests.any (fun d => match d.1 with | .h _ => true | _ => false)

/-- A variable result arrives. -/
def arrive (s : State) (core bank : Nat) (f : Flight) : State :=
  let (s, f) := meetFailure s core bank f
  let (s, g) := formResult s core bank f
  if landsNow f then
    let s := modCtx s core bank (fun x => { x with flights := x.flights.filter (fun e => e.id != f.id) })
    landPhase s core bank false [{ g with age := g.last, arrived := true }]
  else modCtx s core bank (fun x => { x with flights := x.flights.map (fun e => if e.id == f.id then { g with arrived := true } else e) })

/-- A flight whose atomic has not been performed. -/
def unperformed (s : State) (f : Flight) : Bool := s.atomics.any (fun a => a.flight == f.id)

/-- The flights of refused atomics end: the leaf writes their values (R380). -/
def dropRefused (s : State) (core bank : Nat) : State :=
  if s.atomics.all (fun a => !a.refused) then s
  else modCtx s core bank (fun x => { x with flights := x.flights.filter (fun f => !s.atomics.any (fun a => a.refused && a.flight == f.id)) })

/-- Every variable result of a context whose home can be reached arrives, its atomics performed first (R347, R395). The causes of refused atomics are due with their results. -/
def arriveAll (s : State) (core bank : Nat) : State :=
  let s := dropRefused (settleAtomics s core bank) core bank
  let s := if (ctxAt s core bank).deferred.isEmpty then s
    else modCtx s core bank (fun x => { x with deferred := x.deferred.map (fun r =>
      if bits r.tval.toNat 0 8 == 4 && (r.cause == 0x20 || r.cause == 0x23) then { r with due := 0 } else r) })
  ((ctxAt s core bank).flights.filter (fun f => f.var && !f.arrived && !unperformed s f && flightReached s core f)).foldl (fun s f => arrive s core bank f) s

/-! ### The drain (R347) -/

/-- Insert a flight by its number, which is issue order. -/
def insertById (f : Flight) : List Flight → List Flight
  | [] => [f]
  | g :: r => if g.id ≤ f.id then g :: insertById f r else f :: g :: r

/-- Insert a flight by slot, after those of its slot. -/
def insertBySlot (f : Flight) : List Flight → List Flight
  | [] => [f]
  | g :: r => if g.slot ≤ f.slot then g :: insertBySlot f r else f :: g :: r

/-- The flights in ascending slot, issue order kept within a slot. -/
def bySlot (fs : List Flight) : List Flight := fs.foldl (fun l f => insertBySlot f l) []

/-- Cycles until nothing of a context is in flight, `fuel` at most. -/
def drainLoop : Nat → State → Nat → Nat → State
  | 0, s, _, _ => s
  | fuel + 1, s, core, bank =>
    if (ctxAt s core bank).flights.isEmpty then s else drainLoop fuel (tickCore s core (fun b _ => b == bank)) core bank

/-- The most cycles a flight of a list still needs. -/
def longest (fs : List Flight) : Nat := fs.foldl (fun m f => max m (f.last - f.age)) 0

/-- A drain has something to wait for: an atomic or a result that cannot be had yet (R381, R395). -/
def drainWaits (s : State) (core bank : Nat) : Bool := atomicsWait s core bank || homesOwed s core bank

/-- Everything a context has in flight lands, in ascending due cycle and then ascending slot (R347). -/
def drain (s : State) (core bank : Nat) : State :=
  if (ctxAt s core bank).flights.isEmpty && (atomicsOf s core bank).isEmpty then s
  else
    let s := arriveAll s core bank
    let s := modCtx s core bank (fun x => { x with flights := bySlot x.flights })
    drainLoop (longest (ctxAt s core bank).flights + 1) s core bank

/-! ### Ending a kernel (R354) -/

/-- The report of R354: bytes 96 to 123 of the launch command. -/
def reportBytes (reason ordinal context core slot cause : Nat) (value epc : Word) : List Byte :=
  bytesOf 8 epc.toNat ++ bytesOf 8 value.toNat ++ bytesOf 1 cause ++ bytesOf 1 slot ++ bytesOf 1 core ++ bytesOf 1 context
    ++ bytesOf 4 ordinal ++ bytesOf 4 reason

/-- The window writes of a strand that no `PHASE` of it has followed: its end drops them (R249). -/
def dropWindowWrites (s : State) (core bank : Nat) : State :=
  { s with winPend := s.winPend.filter (fun e => !(e.1 == core && e.2.1 == bank)) }

/-- A context of a kernel is discarded (R354): attachments released, fetch slots released. -/
def discardCtx (s : State) (core bank : Nat) : State :=
  modCtx (releaseHoldings (dropWindowWrites s core bank) core bank) core bank (fun x => { x with life := .discarded })

/-- The kernel of a partition ends: its first report stands, and the partition's other contexts are to be pre-empted. -/
def endPart (s : State) (part : Nat) (report : List Byte) : State :=
  modPart s part (fun p =>
    { p with halt := if p.halt == .none then .preempting else p.halt,
             kernel := p.kernel.map (fun k => if k.report.isNone then { k with report := some report } else k) })

/-- Which context takes the primary stream of a core: the active one while it can issue, otherwise the other if that can (R355). -/
def canIssue (x : Ctx) : Bool :=
  !x.swapped && (match x.life with
    | .ready | .refused _ _ _ | .ending => true
    | _ => false)
def settleActive (c : Core) : Core :=
  if canIssue (ctxIn c c.active) then c
  else if canIssue (ctxIn c (1 - c.active)) then { c with active := 1 - c.active } else c

/-- A primary context of a core leaves the primary stream: the other bank may take it, eight wall cycles later (R355). -/
def switchBanks (s : State) (core bank : Nat) : State :=
  if bank == 2 then s else setCore s core (settleActive { coreAt s core with hold := 8 })

/-- End the kernel of a context (R354) with a reason, slot, cause, value and epc. -/
def endKernel (s : State) (core bank reason slot cause : Nat) (value epc : Word) : State :=
  let x := ctxAt s core bank
  let s := discardCtx s core bank
  switchBanks (endPart s x.part (reportBytes reason (x.ordinal % 2 ^ 32) bank core slot cause value epc)) core bank

/-! ### Taking a trap (R346 to R355) -/

/-- How a trap is delivered (R346). -/
inductive Delivery where
  | precise | deferred | imprecise | after
  deriving DecidableEq, Repr

/-- `tcause` (R351). -/
def tcauseOf (cause slot : Nat) (d : Delivery) : Word :=
  BitVec.ofNat 64 (pack [(8, cause), (5, slot), (1, bitOf (d == .imprecise)), (1, bitOf (d == .deferred))])

/-- `tstat` (R351) from lost, secondary, depth, delays and inh. -/
def tstatOf (lost sec : Bool) (depth delays : Nat) (inh : Bool) : Word :=
  BitVec.ofNat 64 (pack [(1, bitOf inh), (2, delays), (1, 0), (3, depth), (1, bitOf sec), (1, bitOf lost)])

/-- The handler of a context runs (R351). -/
def inhibited (x : Ctx) : Bool := bit x.tstat.toNat 0

/-- Write the trap state (R351). The page and offset are B's; trap 0x04 writes `tcause` and `tval` only (R347). -/
def writeTrapState (x : Ctx) (bank cause slot : Nat) (tval : Word) (d : Delivery) (page home off : Nat) : Ctx :=
  let x := { x with tcause := tcauseOf cause slot d, tval := tval }
  if cause == 0x04 then x
  else
    { x with epc := BitVec.ofNat 64 (page + off), ehome := BitVec.ofNat 64 home,
             tstat := tstatOf (bit x.tstat.toNat 8) (bank == 2) x.seq.loops.length ((x.seq.pend.map (fun p => p.delays)).getD 0)
               (inhibited x),
             tpbt := (x.seq.pend.map (fun p => p.target)).getD 0 }

/-- The page and home page that a code pointer enters, with the offset. -/
def enterAt (s : State) (pasid : Nat) (ptr : Word) : Option (Nat × Nat × Nat) :=
  (placeOf s pasid ptr).map (fun e => (e.1, e.2, ptr.toNat / 4096 * 4096))

/-- `hvec` can be entered (R352): an entry anchor in a neutral page. -/
def handlerPlace (s : State) (x : Ctx) : Option (Nat × Nat × Nat) :=
  if x.hvec = 0 then none
  else match checkPointer s x.pasid x.hvec [0] with
    | .error _ => none
    | .ok p =>
      match codePage s x.pasid (p.toNat / 4096 * 4096) with
      | none => none
      | some c => if isBlf c || pageTag c.bytes != 0 then none else enterAt s x.pasid p

/-- A place in the sequencer with nothing pending and no loop. -/
def seqAt (page off home : Nat) (crossing : Bool) : Seq :=
  { page := page, off := off, home := home, pend := none, loops := [], entering := false, crossing := crossing }

/-- Enter the handler (R352), or end the kernel when the trap is unhandled (R353, R354). -/
def enterHandler (s : State) (core bank cause slot : Nat) : State :=
  let x := ctxAt s core bank
  if inhibited x then endKernel s core bank 2 slot cause x.tval x.epc
  else match handlerPlace s x with
    | none => endKernel s core bank 1 slot cause x.tval x.epc
    | some e =>
      modCtx s core bank (fun x =>
        { x with life := .ready,
                 aside := some { pend := x.seq.pend, loops := x.seq.loops, measured := x.measured, skipWatch := x.skipWatch, skipBreak := x.skipBreak,
                                 ticked := x.ticked, traces := x.traces },
                 measured := false, skipWatch := false, skipBreak := false, ticked := false, traces := [],
                 tstat := x.tstat ||| 1, seq := seqAt e.1 e.2.1 e.2.2 (e.1 != x.seq.page) })

/-- A notice of the device to the host (R197): the opcode stands as its status; its data are the PASID, the index field and the operand of its
header. -/
def notice (s : State) (op pasid index va : Nat) : State :=
  { s with mbox := { s.mbox with replies := s.mbox.replies ++ s.conf.host.toList.map (fun h =>
    { dest := h, seq := 0, status := op, data := bytesOf 4 pasid ++ bytesOf 2 index ++ bytesOf 8 va }) } }

/-- The index field that describes the page of a handle (R197): size, permissions, host-owned. -/
def pageIndex (h : Word128) : Nat := pack [(2, hSize h), (5, h.toNat), (1, bitOf (bit h.toNat 7))]

/-- A page that its strand needs and the host owns is asked for (R204). -/
def wantPage (s : State) (core bank cause : Nat) (w : Wait) : State :=
  match w with
  | .handle n =>
    let h := tgetD (ctxAt s core bank).h n 0
    if cause == 0x0B then notice s 0x0C (ctxAt s core bank).pasid (pageIndex h) (hVa h) else s
  | _ => s

/-- Park a context for the leaf (R355). -/
def park (s : State) (core bank : Nat) (w : Wait) : State :=
  switchBanks (modCtx s core bank (fun x => { x with life := .parked w })) core bank

/-- Causes served by the leaf, and causes that end the kernel with their reason (R349). -/
def leafCause (cause : Nat) : Bool := cause == 0x04 || cause == 0x0A || cause == 0x0B || cause == 0x10 || cause == 0x20
def endReason (cause : Nat) : Option Nat :=
  match cause with
  | 0x05 => some 4
  | 0x23 => some 5
  | _ => none

/-- The value that the report of a cause holds (R354). DESIGN CHOICE (log entry 51): R76 has the leaf report the tag of a page with its address, and the
layout has no byte of its own for it; it stands in the low byte of the value, where the address of a page is zero. -/
def reportValue (s : State) (core bank cause : Nat) (tval : Word) : Word :=
  if cause != 0x05 then tval
  else match codePage s (ctxAt s core bank).pasid tval.toNat with
    | some c => tval ||| BitVec.ofNat 64 (pageTag c.bytes)
    | none => tval

/-- Taking a trap at bundle B, whose page, home page and offset are given (R347). The sequencer is at B when control comes back. `w` is what the
leaf is to serve. -/
def trapAt (s : State) (core bank cause slot : Nat) (tval : Word) (d : Delivery) (w : Option Wait) (page home off : Nat) : State :=
  let s := drain s core bank
  let s := modCtx s core bank (fun x =>
    let x := { x with seq := { x.seq with page := page, home := home, off := off }, ask := .none, stall := (0, 0) }
    writeTrapState x bank cause slot tval d page home off)
  match endReason cause with
  | some r => endKernel s core bank r slot cause (reportValue s core bank cause tval) (ctxAt s core bank).epc
  | none =>
    match (if leafCause cause then w else none) with
    | some w => park (wantPage s core bank cause w) core bank w
    | none => enterHandler s core bank cause slot

/-- The outcome of the running slot or bundle. -/
def setOut (s : State) (o : Out) : State := { s with cur := { s.cur with out := o } }

/-- A trap of the running instruction, precise at its bundle (R346), with what the leaf is to serve. -/
def trapLeaf (s : State) (cause : Nat) (tval : Word) (w : Option Wait) : State :=
  setOut (trapAt s s.cur.core s.cur.bank cause s.cur.slot tval .precise w s.cur.page s.cur.home s.cur.off) .trapped

/-- A trap of the running instruction that a handler serves. -/
def trap (s : State) (cause : Nat) (tval : Word) : State := trapLeaf s cause tval none

/-- The running instruction blocks its bundle (R288, R135). -/
def block (s : State) : State := setOut s .blocked

/-- Return from a trap (R364): the sequencer state set aside comes back, inh and lost are cleared, control resumes at `epc`. -/
def returnFromTrap (s : State) : State :=
  let s := modMe s (fun x =>
    let page := x.epc.toNat / 4096 * 4096
    let a := x.aside.getD { pend := none, loops := [], measured := false, skipWatch := false, skipBreak := false, ticked := false, traces := [] }
    { x with aside := none, tstat := x.tstat &&& ~~~0x101, measured := a.measured, skipWatch := a.skipWatch, skipBreak := a.skipBreak,
             ticked := a.ticked, traces := x.traces ++ a.traces,
             seq := { page := page, off := x.epc.toNat % 4096, home := x.ehome.toNat, pend := a.pend, loops := a.loops,
                      entering := false, crossing := page != s.cur.page } })
  { s with cur := { s.cur with moved := true } }

end Sys2Proof.Machine
end

