-- ==== Sys2Proof/Machine/Arrivals.lean ====
section
/-! DEFINITION. Variable results, atomics at their home slices, imprecise reports and the secondary's bubble (R129, R134, R210, R331, R338, R348). -/
namespace Sys2Proof.Machine

/-- `SECONDARY_BUBBLE` (R129): when a ready bundle of the secondary has collided 4,096 times in a row, the next cycle is a bubble. -/
def execSecondaryBubble (core : Nat) (s : State) : Answer :=
  let c := coreAt s core
  if c.collide < 4096 || c.bubble then .next s
  else .next (bump (setCore s core { c with bubble := true, collide := 0, secins := c.secins + 1 }) 0x1C7 1)

/-- The context of a core that a flight belongs to. -/
def bankOfFlight (c : Core) (id : Nat) : Option (Nat × Flight) :=
  firstSome ([0, 1, 2].map (fun b => ((ctxIn c b).flights.find? (fun f => f.id == id)).map (fun f => (b, f))))

/-- A variable result of a core may arrive now: it was not there yet, its atomic has been performed, and what it is read from can be reached (R134, R210,
R395). -/
def mayArrive (s : State) (core : Nat) (f : Flight) : Bool :=
  f.var && !f.arrived && s.atomics.all (fun a => a.flight != f.id) && f.late != .atomic && flightReached s core f

/-- `VARIABLE_RESULT_ARRIVAL` (R134). -/
def execVariableResultArrival (core result : Nat) (s : State) : Answer :=
  match bankOfFlight (coreAt s core) result with
  | none => .next s
  | some (b, f) => if mayArrive s core f then .next (arrive s core b f) else .next s

/-- An atomic may be performed now: no earlier atomic of its strand to the same bytes is still on its way (R331), its turn in the order log has come, and it
has not been refused (R380), and its home can be reached (R395). -/
def mayPerform (s : State) (a : Atomic) : Bool :=
  let meets := fun (b : Atomic) => b.core == a.core && b.bank == a.bank && b.pa < a.pa + a.width / 8 && a.pa < b.pa + b.width / 8
  (s.atomics.find? meets).map (fun b => b.id) == some a.id
    && !a.refused && homeReached s (dieOf a.core) a.pa && (isReduction a || turnOfAtomic s a != .wait)

/-- `ATOMIC_PERFORM` (R210, R330, R331, R338). -/
def execAtomicPerform (id : Nat) (s : State) : Answer :=
  match s.atomics.find? (fun a => a.id == id) with
  | none => .next s
  | some a => if mayPerform s a then .next (settleAtomic s a) else .next s

/-- `IMPRECISE_REPORT_ARRIVAL` (R348). -/
def execImpreciseReportArrival (id : Nat) (s : State) : Answer :=
  match s.flying.find? (fun f => f.id == id) with
  | none => .next s
  | some f => .next (landReport { s with flying := s.flying.filter (fun e => e.id != id) } f)

end Sys2Proof.Machine
end

