-- ==== Sys2Proof/Machine/Crypto.lean ====
section
/-! DEFINITION. SHA-512 and SHA-512/256 (R9, R396, R397, R400), by FIPS 180-4 (log entry 14), and the tree hashes of code objects. -/
namespace Sys2Proof.Machine

/-! ### The constants, as FIPS 180-4 defines them: bits of roots of primes -/

/-- The bits of the `k`-th root of `n` below bit `i`, highest first, after the bits in `r`. -/
def rootBits (k n : Nat) : Nat → Nat → Nat
  | 0, r => r
  | i + 1, r => rootBits k n i (if (r + 2 ^ i) ^ k ≤ n then r + 2 ^ i else r)

/-- The first 64 bits of the fraction of the `k`-th root of a number below 2^12. -/
def rootFraction (k n : Nat) : Word := BitVec.ofNat 64 (rootBits k (n * 2 ^ (64 * k)) 72 0)

/-- The primes below a bound, in ascending order. -/
def primesBelow (n : Nat) : List Nat := (List.range n).filter (fun p => 2 ≤ p && (List.range p).all (fun d => d < 2 || p % d != 0))

/-- The round constants of SHA-512: the cube roots of the first 80 primes. -/
def shaK : List Word := (primesBelow 410).map (rootFraction 3)

/-- The initial value of SHA-512: the square roots of the first eight primes. -/
def shaIv512 : List Word := (primesBelow 20).map (rootFraction 2)

/-- The big-endian number of a list of bytes. -/
def natBig (bs : List Byte) : Nat := bs.foldl (fun n b => 256 * n + b.toNat) 0

/-- `n` bytes of a number, highest first. -/
def bytesBig (n v : Nat) : List Byte := (bytesOf n v).reverse

/-- The exclusive or of a word's rotations, and of a last term. -/
def rotSum (x : Word) (rs : List Nat) (last : Word) : Word := rs.foldr (fun r y => x.rotateRight r ^^^ y) last

/-- The word functions of SHA-512, by whether they serve the schedule or the round. -/
def shaSched (x : Word) (a b shift : Nat) : Word := rotSum x [a, b] (x >>> shift)
def shaMix (x : Word) (a b c : Nat) : Word := rotSum x [a, b, c] 0

/-- Each bit of `x` chooses between those of `y` and `z`; the majority of three bits. -/
def chooseBits (x y z : Word) : Word := z ^^^ (x &&& (y ^^^ z))
def majority (x y z : Word) : Word := (x &&& y) ||| (z &&& (x ||| y))

/-- The message schedule's window of sixteen words, the oldest first: the round takes the oldest, and the window gains the next. -/
def shaNext (w : List Word) : List Word :=
  let at_ := fun i => w.getD i 0
  w.drop 1 ++ [at_ 0 + shaSched (at_ 1) 1 8 7 + at_ 9 + shaSched (at_ 14) 19 61 6]

/-- One round: the eight working variables, the round constant and the schedule's word. -/
def shaRound (v : List Word) (k w : Word) : List Word :=
  let at_ := fun i => v.getD i 0
  let first := w + k + at_ 7 + chooseBits (at_ 4) (at_ 5) (at_ 6) + shaMix (at_ 4) 14 18 41
  (first + majority (at_ 0) (at_ 1) (at_ 2) + shaMix (at_ 0) 28 34 39) :: v.take 3 ++ (at_ 3 + first) :: (v.drop 4).take 3

/-- The rounds of a block. -/
def shaRounds (h w : List Word) : List Word → List Word
  | [] => h
  | k :: ks => shaRounds (shaRound h k (w.headD 0)) (shaNext w) ks

/-- One block of 128 bytes is taken in. -/
def shaBlock (h : List Word) (block : List Byte) : List Word :=
  let w := (List.range 16).map (fun i => BitVec.ofNat 64 (natBig ((block.drop (8 * i)).take 8)))
  (h.zip (shaRounds h w shaK)).map (fun e => e.1 + e.2)

/-- The blocks of a padded message. -/
def shaBlocks : Nat → List Word → List Byte → List Word
  | 0, h, _ => h
  | n + 1, h, m => shaBlocks n (shaBlock h (m.take 128)) (m.drop 128)

/-- The padded message. -/
def shaPad (m : List Byte) : List Byte :=
  m ++ [0x80] ++ List.replicate ((239 - m.length % 128) % 128) 0 ++ bytesBig 16 (8 * m.length)

/-- The words that a message leaves, from an initial value. -/
def shaWords (iv : List Word) (m : List Byte) : List Word := shaBlocks ((shaPad m).length / 128) iv (shaPad m)

/-- The bytes of the words of a digest. -/
def digest (ws : List Word) : List Byte := ws.flatMap (fun w => bytesBig 8 w.toNat)

/-- SHA-512. -/
def sha512 (m : List Byte) : List Byte := digest (shaWords shaIv512 m)

/-- The initial value of SHA-512/256: what the name of the function leaves, from the initial value of SHA-512 with every byte changed by 0xA5. -/
def shaIv256 : List Word := shaWords (shaIv512.map (fun w => w ^^^ 0xA5A5A5A5A5A5A5A5)) ("SHA-512/256".toList.map (fun c => BitVec.ofNat 8 c.toNat))

/-- SHA-512/256: 32 bytes. -/
def sha256 (m : List Byte) : List Byte := (digest (shaWords shaIv256 m)).take 32

/-- A hash as a number, its first byte lowest (R3). -/
def hashOf (bs : List Byte) : BitVec 256 := BitVec.ofNat 256 (natOfBytes bs)

/-- The bytes of a hash. -/
def hashBytes (h : BitVec 256) : List Byte := bytesOf 32 h.toNat

/-- The leaf hash of a chunk (R9). -/
def leafHash (chunk : Memory) : BitVec 256 := hashOf (sha256 (0x00 :: peeks chunk 0 4096))

/-- The node hash of up to 128 child hashes (R9). -/
def nodeHash (hs : List (BitVec 256)) : BitVec 256 := hashOf (sha256 (0x01 :: hs.flatMap hashBytes))

/-- Child hashes in groups of 128. -/
def groups : Nat → List (BitVec 256) → List (List (BitVec 256))
  | 0, _ => []
  | n + 1, hs => if hs.isEmpty then [] else hs.take 128 :: groups n (hs.drop 128)

/-- The root of a list of child hashes: always a node hash (R9). -/
def rootOf : Nat → List (BitVec 256) → BitVec 256
  | 0, hs => nodeHash hs
  | n + 1, hs => if hs.length ≤ 128 then nodeHash hs else rootOf n ((groups hs.length hs).map nodeHash)

/-- The root hash of an image of up to 2^24 leaves (R9). -/
def rootHash (leaves : List (BitVec 256)) : BitVec 256 := rootOf 3 leaves

end Sys2Proof.Machine
end

