-- ==== Sys2Proof/Machine/Cipher.lean ====
section
/-! DEFINITION. AES-256-GCM, as the copy path seals blocks with it (R215): the block cipher by FIPS 197 and the mode by NIST SP 800-38D (log
entry 14). -/
namespace Sys2Proof.Machine

/-! ### The block cipher -/

/-- x times 2 in the field of AES. -/
def aesDouble (a : Nat) : Nat := if a ≥ 128 then (2 * a) % 256 ^^^ 0x1B else 2 * a

/-- A product in the field of AES, over the low `n` bits of `b`. -/
def aesMul : Nat → Nat → Nat → Nat
  | 0, _, _ => 0
  | n + 1, a, b => (if b % 2 == 1 then a else 0) ^^^ aesMul n (aesDouble a) (b / 2)

/-- The square of a field element, and its inverse as the 254th power (0 for 0). -/
def aesSquare (a : Nat) : Nat := aesMul 8 a a
def aesInverse (a : Nat) : Nat :=
  let a2 := aesSquare a
  let a3 := aesMul 8 a2 a
  let a12 := aesSquare (aesSquare a3)
  let a15 := aesMul 8 a12 a3
  let a240 := aesSquare (aesSquare (aesSquare (aesSquare a15)))
  aesMul 8 (aesMul 8 a240 a12) a2

/-- A byte rotated left by `n`. -/
def rotByte (a n : Nat) : Nat := (a * 2 ^ n) % 256 + a / 2 ^ (8 - n)

/-- The substitution of a byte. -/
def aesSub (b : Byte) : Byte :=
  let a := aesInverse b.toNat
  BitVec.ofNat 8 (a ^^^ rotByte a 1 ^^^ rotByte a 2 ^^^ rotByte a 3 ^^^ rotByte a 4 ^^^ 0x63)

/-- Two lists of bytes added. -/
def xorBytes (a b : List Byte) : List Byte := (a.zip b).map (fun e => e.1 ^^^ e.2)

/-- The next word of the key schedule: `i` is its number, `ws` the words so far with the latest first. -/
def aesNextWord (i : Nat) (ws : List (List Byte)) : List Byte :=
  let prev := ws.headD []
  let t :=
    if i % 8 == 0 then
      let r := (prev.drop 1 ++ prev.take 1).map aesSub
      xorBytes r [BitVec.ofNat 8 (2 ^ (i / 8 - 1)), 0, 0, 0]
    else if i % 8 == 4 then prev.map aesSub else prev
  xorBytes ((ws[7]?).getD []) t

/-- The key schedule: `n` more words. -/
def aesWords : Nat → Nat → List (List Byte) → List (List Byte)
  | 0, _, ws => ws
  | n + 1, i, ws => aesWords n (i + 1) (aesNextWord i ws :: ws)

/-- The fifteen round keys of a 32-byte key. -/
def aesKeys (key : List Byte) : List (List Byte) :=
  let first := ((List.range 8).map (fun i => (key.drop (4 * i)).take 4)).reverse
  let ws := (aesWords 52 8 first).reverse
  (List.range 15).map (fun r => ((ws.drop (4 * r)).take 4).flatten)

/-- The rows of the state shifted: byte 4c + r comes from column c + r. -/
def aesShift (b : List Byte) : List Byte := (List.range 16).map (fun i => (b[(i + 4 * (i % 4)) % 16]?).getD 0)

/-- One column mixed. -/
def aesMixCol (col : List Byte) : List Byte :=
  (List.range 4).map (fun i =>
    let at_ := fun (k : Nat) => ((col[(i + k) % 4]?).getD 0).toNat
    BitVec.ofNat 8 (aesDouble (at_ 0) ^^^ aesDouble (at_ 1) ^^^ at_ 1 ^^^ at_ 2 ^^^ at_ 3))

/-- The columns mixed. -/
def aesMix (b : List Byte) : List Byte := (List.range 4).flatMap (fun c => aesMixCol ((b.drop (4 * c)).take 4))

/-- The rounds of the cipher; the last one mixes no columns. -/
def aesRounds (b : List Byte) : List (List Byte) → List Byte
  | [] => b
  | [k] => xorBytes (aesShift (b.map aesSub)) k
  | k :: ks => aesRounds (xorBytes (aesMix (aesShift (b.map aesSub))) k) ks

/-- One block under round keys. -/
def aesBlock (keys : List (List Byte)) (b : List Byte) : List Byte :=
  match keys with
  | [] => b
  | k :: ks => aesRounds (xorBytes b k) ks

/-! ### The mode -/

/-- A product in the field of GHASH; the bits of a block are numbered from the highest. -/
def gcmMul : Nat → Nat → Nat → Nat
  | 0, _, _ => 0
  | n + 1, v, y =>
    (if y / 2 ^ n % 2 == 1 then v else 0) ^^^ gcmMul n (if v % 2 == 1 then v / 2 ^^^ 0xE1 * 2 ^ 120 else v / 2) y

/-- Bytes padded with zeros to whole blocks. -/
def padBlocks (bs : List Byte) : List Byte := bs ++ List.replicate ((16 - bs.length % 16) % 16) 0

/-- The hash of whole blocks under a subkey. -/
def ghash (h : Nat) : Nat → Nat → List Byte → Nat
  | 0, y, _ => y
  | n + 1, y, bs => ghash h n (gcmMul 128 h (y ^^^ natBig (bs.take 16))) (bs.drop 16)

/-- The key stream of `n` blocks from a counter. -/
def gcmStream (keys : List (List Byte)) (nonce : List Byte) (n : Nat) : List Byte :=
  (List.range n).flatMap (fun i => aesBlock keys (nonce ++ bytesBig 4 (i + 2)))

/-- Encryption or decryption of a text under a 12-byte nonce. -/
def gcmCrypt (keys : List (List Byte)) (nonce text : List Byte) : List Byte :=
  xorBytes text (gcmStream keys nonce (ceilDiv text.length 16))

/-- The first twelve bytes of the tag of a ciphertext and its additional data. -/
def gcmTag (keys : List (List Byte)) (nonce aad cipher : List Byte) : List Byte :=
  let h := natBig (aesBlock keys (List.replicate 16 0))
  let m := padBlocks aad ++ padBlocks cipher ++ bytesBig 8 (8 * aad.length) ++ bytesBig 8 (8 * cipher.length)
  let y := ghash h (m.length / 16) 0 m
  (xorBytes (bytesBig 16 y) (aesBlock keys (nonce ++ bytesBig 4 1))).take 12

end Sys2Proof.Machine
end

