-- ==== Sys2Proof/Machine/Hpk.lean ====
section
/-! DEFINITION. Halken packed blocks (R213, R214): reading a block and choosing the mode of a block to write. -/
namespace Sys2Proof.Machine

/-- The header of a block (R213): base, width, mode. -/
structure HpkHead where
  base : Nat
  w    : Nat
  mode : Nat
  deriving DecidableEq, Repr

/-- The header in an 8-byte number. -/
def hpkHead (n : Nat) : HpkHead := { base := bits n 32 32, w := bits n 8 6, mode := bits n 0 2 }

/-- The header keeps the rules of R213: reserved fields zero, a width up to 32, the mode's requirement. -/
def hpkOk (n : Nat) : Bool :=
  let h := hpkHead n
  bits n 14 18 == 0 && bits n 2 6 == 0 && h.w ≤ 32 &&
    (match h.mode with
    | 0 => h.w == 32 && h.base == 0
    | 3 => h.w == 0
    | _ => true)

/-- Field i of a payload, as a number. -/
def hpkField (payload w i : Nat) : Nat := bits payload (i * w) w

/-- The running sums of the delta mode. -/
def runSums (prev : Nat) : List Nat → List Nat
  | [] => []
  | f :: r => (prev + f) % 2 ^ 32 :: runSums ((prev + f) % 2 ^ 32) r

/-- The 64 words of a block. -/
def hpkWords (h : HpkHead) (payload : Nat) : List Nat :=
  let f := (List.range 64).map (hpkField payload h.w)
  match h.mode with
  | 0 => f
  | 1 => f.map (fun v => (h.base + v) % 2 ^ 32)
  | 2 => runSums h.base f
  | _ => f.map (fun _ => h.base)

/-- bits(x) of R214. -/
def bitLen (x : Nat) : Nat := if x == 0 then 0 else Nat.log2 x + 1

/-- Differences of neighbours, the first 0. -/
def hpkDiffs : Nat → List Nat → List Nat
  | _, [] => []
  | prev, v :: r => (v + 2 ^ 32 - prev) % 2 ^ 32 :: hpkDiffs v r

/-- Fields of w bits one above the other. -/
def packFields (w : Nat) : List Nat → Nat
  | [] => 0
  | f :: r => f % 2 ^ w + 2 ^ w * packFields w r

/-- The mode, base, width and fields that the encoder chooses (R214). -/
def hpkChoose (v : List Nat) : HpkHead × List Nat :=
  let first := (v.head?).getD 0
  let d := hpkDiffs first v
  let lo := v.foldl min (2 ^ 32 - 1)
  let wd := bitLen (d.foldl max 0)
  let wf := bitLen ((v.map (fun x => x - lo)).foldl max 0)
  if v.all (fun x => x == first) then ({ base := first, w := 0, mode := 3 }, [])
  else if min wd wf == 32 then ({ base := 0, w := 32, mode := 0 }, v)
  else if wd ≤ wf then ({ base := first, w := wd, mode := 2 }, d)
  else ({ base := lo, w := wf, mode := 1 }, v.map (fun x => x - lo))

/-- A header as an 8-byte number. -/
def hpkHeadNat (h : HpkHead) : Nat := pack [(2, h.mode), (6, 0), (6, h.w), (18, 0), (32, h.base)]

/-- Header and payload bytes of a block of 64 words. -/
def hpkEncode (v : List Nat) : List Byte × List Byte :=
  let (h, f) := hpkChoose v
  (bytesOf 8 (hpkHeadNat h), bytesOf (8 * h.w) (packFields h.w f))

end Sys2Proof.Machine
end

