-- ==== Sys2Proof/Machine/Nest.lean ====
section
/-! DEFINITION. The fields of a command's bytes, and the loop-nest record of a launch (R48 to R50). -/
namespace Sys2Proof.Machine

/-- A field of a command. -/
def cmdField (b : List Byte) (o n : Nat) : Nat := natOfBytes ((b.drop o).take n)

/-- Bytes of a command are zero. -/
def cmdZero (b : List Byte) (o n : Nat) : Bool := ((b.drop o).take n).all (fun x => x == 0)

/-! ### The loop-nest record (R48, R49) -/

def nestDims (r : List Byte) : Nat := cmdField r 4 1
def nestFuncs (r : List Byte) : Nat := cmdField r 5 1
def nestPatience (r : List Byte) : Nat := cmdField r 6 2
def nestLower (r : List Byte) (d : Nat) : Int := sextNat 32 (cmdField r (16 + 16 * d) 4)
def nestUpper (r : List Byte) (d : Nat) : Int := sextNat 32 (cmdField r (20 + 16 * d) 4)
def nestStep (r : List Byte) (d : Nat) : Int := sextNat 32 (cmdField r (24 + 16 * d) 4)
def nestBlock (r : List Byte) (d : Nat) : Nat := max 1 (cmdField r (28 + 16 * d) 2)

/-- The dimension at order position `p`. -/
def nestOrder (r : List Byte) (p : Nat) : Nat := bits (cmdField r 8 3) (3 * p) 3

/-- The dimensions, outermost first. -/
def nestList (r : List Byte) : List Nat := (List.range (nestDims r)).map (nestOrder r)

/-- The trip count of a dimension (R49). -/
def tripCount (r : List Byte) (d : Nat) : Nat :=
  let span := if nestStep r d > 0 then nestUpper r d - nestLower r d else nestLower r d - nestUpper r d
  ceilDiv span.toNat (nestStep r d).natAbs

/-- Iterations of a record. -/
def nestTotal (r : List Byte) : Nat := (nestList r).foldl (fun n d => n * tripCount r d) 1

/-- A record keeps the rules of R48 and R49. -/
def nestOk (r : List Byte) : Bool :=
  let D := nestDims r
  let F := nestFuncs r
  let dims := List.range D
  cmdField r 0 4 == 0x4E4C3951 && 1 ≤ D && D ≤ 6 && F ≤ 2 && cmdZero r 11 5 && cmdZero r 112 16 && cmdZero r 240 16
    && dims.all (fun d => nestStep r d != 0 && cmdZero r (30 + 16 * d) 2)
    && cmdZero r (16 + 16 * D) (16 * (6 - D))
    && (List.range 2).all (fun f => if f < F then cmdZero r (136 + 56 * f + 8 * D) (8 * (6 - D)) else cmdZero r (128 + 56 * f) 56)
    && dims.all (fun d => (nestList r).contains d) && bits (cmdField r 8 3) (3 * D) (24 - 3 * D) == 0
    && nestTotal r ≤ 2 ^ 40

end Sys2Proof.Machine
end

