-- ==== Sys2Proof/Machine/Epochs.lean ====
section
/-! DEFINITION. Epochs of a kernel, and the reductions that are held for them (R338, R339). -/
namespace Sys2Proof.Machine

/-- Reductions that a kernel holds. -/
def heldReds (s : State) (kernel : Nat) : List Atomic := s.reds.filter (fun a => a.kernel == kernel)

/-- The running iterations of a kernel, as contexts. -/
def runningCtxs (s : State) (part kernel : Nat) : List Ctx :=
  ((contextsOf s part).filter (fun e => e.2 != 2)).filterMap (fun e =>
    let x := ctxAt s e.1 e.2
    if x.kernel == kernel then some x else none)

/-- The kernel's next epoch closes: every iteration has been assigned, and has retired or passed its boundary (R338, R339). Once all have retired the
epochs of the contributions that are still held close one after the other. -/
def epochDone (s : State) (part : Nat) (k : Kernel) : Bool :=
  k.report.isNone && k.next == nestTotal k.recBytes && (runningCtxs s part k.id).all (fun x => x.epoch > k.closed)
    && !((runningCtxs s part k.id).isEmpty && (heldReds s k.id).isEmpty)

/-- An epoch of a partition's kernel is to close. -/
def closesEpoch (s : State) (part : Nat) : Bool :=
  match (partAt s part).kernel with
  | some k => holdsReductions s part && epochDone s part k
  | none => false

/-- Some epoch closes before anything else takes a place in the boundary order: its contributions are published at the closing boundary (R338). -/
def epochPending (s : State) : Bool := s.parts.any (fun e => closesEpoch s e.1)

/-- Whether a contribution comes before another: (ordinal, index, place in the bundle). -/
def redBefore (a b : Atomic) : Bool :=
  if a.ordinal != b.ordinal then a.ordinal < b.ordinal
  else if a.index != b.index then a.index < b.index else a.sub ≤ b.sub

/-- Insert a contribution in its order. -/
def insertRed (a : Atomic) : List Atomic → List Atomic
  | [] => [a]
  | b :: r => if redBefore b a then b :: insertRed a r else a :: b :: r

/-- A contribution is applied: it takes the next place in the coherence order, published at the device at the place of the closing boundary. Only a refresh at the device sees it (R339), so it is published as by a party of the device that belongs to no core and no die. -/
def applyRed (place : Place) (s : State) (a : Atomic) : State :=
  let n := a.width / 8
  let new := atomicValue a.op a.width (homeNat s a.pa n) (a.operand.toNat % 2 ^ a.width) 0
  let s := writeHome s .host a.kernel true 3 { place with sub := s.stamp }
    ((List.range n).zip (bytesOf n new) |>.map (fun e => (a.pa + e.1, e.2)))
  sliceReports s 0 0 2 a.core ((List.range n).map (fun i => a.pa + i))

/-- The contributions of a kernel up to an epoch are applied in order. -/
def applyReds (s : State) (kernel epoch : Nat) (place : Place) : State :=
  let due := (heldReds s kernel).filter (fun a => a.epoch ≤ epoch)
  let s := (due.foldl (fun l a => insertRed a l) []).foldl (applyRed place) s
  { s with reds := s.reds.filter (fun a => !(a.kernel == kernel && a.epoch ≤ epoch)) }

/-- The kernel's next epoch closes, if it is to (R338): the closing boundary is the latest that has taken a place. -/
def closeEpoch (s : State) (part : Nat) : State :=
  match (partAt s part).kernel with
  | none => s
  | some k =>
    if !closesEpoch s part then s
    else modPart (applyReds s k.id k.closed s.boundary) part (fun p => { p with kernel := some { k with closed := k.closed + 1 } })

/-- The epochs that a boundary has just closed, before the next boundary of the same bundle. -/
def closeEpochs (s : State) : State := s.parts.foldl (fun s e => closeEpoch s e.1) s

end Sys2Proof.Machine
end

