-- ==== Sys2Proof/Machine/Lanes.lean ====
section
/-! DEFINITION. Shared shapes of the vector instructions (R140, R168, R171): reading operands, landing lanes under a mask, FP32 lanes with
flags and stochastic draws. -/
namespace Sys2Proof.Machine

/-- The lane mask of a VV word. -/
def maskOf (s : State) (o : VV) : Word := regK s o.k.toNat

/-- The lanes of an operand field of the slot's cluster. -/
def rd (s : State) (f : BitVec 10) : List Unit32 := readOp s (matOp (me s) (clusterOf s) f)

/-- The destination operand of the slot's cluster. -/
def dst (s : State) (f : BitVec 10) : MOp := matOp (me s) (clusterOf s) f

/-- The destinations of lanes that are on. -/
def laneDests (o : MOp) (mask : Word) (due : Nat) : List (Loc × Nat) :=
  (lanes.filter (laneOn mask)).map (fun i => (.el o.file (laneEl o i), due))

/-- The flag landing of a group, if any flag is raised. -/
def flagWrites (group due flags : Nat) : List (Nat × Write) := if flags == 0 then [] else [(due, .flags group flags)]

/-- A result to lanes of an operand under a mask, with flags of a group (R140, R247). -/
def toLanes (s : State) (on : Bool) (d : MOp) (mask : Word) (due occ group flags : Nat) (v : Nat → Unit32) : State :=
  push s { newFlight s due with
    occ := occ, dests := laneDests d mask due, writes := if on then (due, lanesOut d mask v) :: flagWrites group due flags else [] }

/-- A result of a vector instruction to its matrix destination. -/
def vOut (x : Mod) (o : VV) (s : State) (due : Nat) (v : Nat → Unit32) : Answer :=
  .next (toLanes s (guardOn s x) (dst s o.d) (maskOf s o) due 1 (clusterOf s) 0 v)

/-- Lane-wise instructions of one, two and three operands. -/
def lanes1 (x : Mod) (o : VV) (s : State) (due : Nat) (f : Unit32 → Unit32) : Answer :=
  let a := rd s o.a
  vOut x o s due (fun i => f (lane a i))
def lanes2 (x : Mod) (o : VV) (s : State) (due : Nat) (f : Unit32 → Unit32 → Unit32) : Answer :=
  let a := rd s o.a
  let b := rd s o.b
  vOut x o s due (fun i => f (lane a i) (lane b i))
def lanes3 (x : Mod) (o : VV) (s : State) (due : Nat) (f : Unit32 → Unit32 → Unit32 → Unit32) : Answer :=
  let a := rd s o.a
  let b := rd s o.b
  let c := rd s o.c
  vOut x o s due (fun i => f (lane a i) (lane b i) (lane c i))

/-! ### FP32 lanes -/

/-- What FP32 lanes gather: values by lane, flags, stochastic state. -/
structure FpAcc where
  vals : List (Nat × Nat)
  fl   : Fl
  rng  : Nat
  deriving DecidableEq, Repr

/-- A rounding took place, so that the stochastic mode drew for it: the exact result was finite (R171, R246; log entry 13). -/
def wasRounded (r : Nat × Fl) : Bool := r.2.of || bits r.1 23 8 != 255

/-- One rounding: `f` maps the draw to a code and flags. -/
def roundOnce (stoch : Bool) (rng : Nat) (took : Nat × Fl → Bool) (f : Nat → Nat × Fl) : (Nat × Fl) × Nat :=
  if stoch then
    let d := draw rng
    let r := f d.1
    (r, if took r then d.2 else rng)
  else (f 0, rng)

/-- FP32 lanes in ascending order: only the lanes that are on compute, draw and raise flags (R171). -/
def fpLanes (stoch : Bool) (rng : Nat) (on : Nat → Bool) (took : Nat × Fl → Bool) (f : Nat → Nat → Nat × Fl) : FpAcc :=
  (lanes.filter on).foldl (fun acc i =>
    let r := roundOnce stoch acc.rng took (f i)
    { vals := acc.vals ++ [(i, r.1.1)], fl := acc.fl.or r.1.2, rng := r.2 }) { vals := [], fl := Fl.none, rng := rng }

/-- The value of a lane gathered. -/
def accLane (a : FpAcc) (i : Nat) : Unit32 :=
  BitVec.ofNat 32 (((a.vals.find? (fun e => e.1 == i)).map (fun e => e.2)).getD 0)

/-- The context's stochastic state after draws. -/
def setRng (s : State) (rng : Nat) : State := modMe s (fun x => { x with srng := BitVec.ofNat 64 rng })

/-- Flags of a vector result: none under nfl (R169). -/
def flagsOf (x : Mod) (f : Fl) : Nat := if nflOf x then 0 else f.bits

/-- An FP32 lane-wise instruction: `f mode sat draw lane` (R171). A false guard takes no draw. -/
def fpOut (x : Mod) (o : VV) (s : State) (due occ : Nat) (took : Nat × Fl → Bool) (f : Nat → Bool → Nat → Nat → Nat × Fl) : Answer :=
  let mode := modeOf s x
  let mask := maskOf s o
  let on := guardOn s x
  let r := fpLanes (mode == 6 && on) (me s).srng.toNat (laneOn mask) took (fun i u => f mode (satOf x) u i)
  let s' := toLanes s on (dst s o.d) mask due occ (clusterOf s) (flagsOf x r.fl) (accLane r)
  .next (if mode == 6 && on then setRng s' r.rng else s')

/-- FP32 instructions of one, two and three operands. -/
def fp1 (x : Mod) (o : VV) (s : State) (due occ : Nat) (f : Nat → Bool → Nat → Val → Nat × Fl) : Answer :=
  let a := rd s o.a
  fpOut x o s due occ wasRounded (fun m t u i => f m t u (val32 (lane a i)))
def fp2 (x : Mod) (o : VV) (s : State) (due occ : Nat) (f : Nat → Bool → Nat → Val → Val → Nat × Fl) : Answer :=
  let a := rd s o.a
  let b := rd s o.b
  fpOut x o s due occ wasRounded (fun m t u i => f m t u (val32 (lane a i)) (val32 (lane b i)))
def fp3 (x : Mod) (o : VV) (s : State) (due occ : Nat) (f : Nat → Bool → Nat → Val → Val → Val → Nat × Fl) : Answer :=
  let a := rd s o.a
  let b := rd s o.b
  let c := rd s o.c
  fpOut x o s due occ wasRounded (fun m t u i => f m t u (val32 (lane a i)) (val32 (lane b i)) (val32 (lane c i)))

/-- No rounding under the mode in force, so no draw. -/
def noDraw (_ : Nat × Fl) : Bool := false

/-! ### Compares (R174, R177) -/

/-- A 64-bit mask from a function of lanes. -/
def maskFrom (r : Nat → Bool) : Word := BitVec.ofNat 64 ((lanes.filter r).foldl (fun m i => m + 2 ^ i) 0)

/-- All ones or zero. -/
def allBits (b : Bool) : Unit32 := if b then BitVec.allOnes 32 else 0

/-- The destination of a compare by dfile: lanes, k register or p register, with flags. -/
def cmpOut (x : Mod) (o : VV) (s : State) (due : Nat) (r : Nat → Bool) (flags : Nat) : Answer :=
  let on := guardOn s x
  let mask := maskOf s o
  let g := clusterOf s
  match o.dfile.toNat with
  | 2 =>
    let n := o.d.toNat % 8
    .next (push s { newFlight s due with
      dests := if n = 0 then [] else [(.k n, due)]
      writes := if on then (if n = 0 then [] else [(due, .k n mask (maskFrom r))]) ++ flagWrites g due flags else [] })
  | 3 =>
    let n := o.d.toNat % 16
    .next (push s { newFlight s due with
      dests := if n = 0 then [] else [(.p n, due)]
      writes := if on then (if n = 0 then [] else [(due, .p n ((lanes.filter (laneOn mask)).any r))]) ++ flagWrites g due flags else [] })
  | _ => .next (toLanes s on (dst s o.d) mask due 1 g flags (fun i => allBits (r i)))

/-- The integer relation of a condition code (R98): eq ne lt ltu le leu gt gtu ge geu. -/
def intRel (cc : Nat) (a b : Unit32) : Bool :=
  match cc with
  | 0 => a == b
  | 1 => a != b
  | 2 => a.slt b
  | 3 => a.ult b
  | 4 => a.sle b
  | 5 => a.ule b
  | 6 => b.slt a
  | 7 => b.ult a
  | 8 => b.sle a
  | _ => b.ule a

/-- The FP32 relation of a condition code (R177). -/
def fpRel (cc : Nat) (a b : Val) : Bool :=
  if isNan a || isNan b then cc == 1
  else match cc with
    | 0 => valEq a b
    | 1 => !valEq a b
    | 2 => valLt a b
    | 4 => !valLt b a
    | 6 => valLt b a
    | _ => !valLt a b

/-! ### Reductions (R181, R182) -/

/-- The destination of a reduction by dfile: one g register or every lane that is on. -/
def redOut (x : Mod) (o : VV) (s : State) (g : Word) (v : Unit32) (flags : Nat) : Answer :=
  let on := guardOn s x
  if o.dfile.toNat = 1 then
    let n := o.d.toNat % 64
    .next (push s { newFlight s 6 with
      dests := gDest n 6, writes := if on then gWrite n 6 g ++ flagWrites (clusterOf s) 6 flags else [] })
  else .next (toLanes s on (dst s o.d) (maskOf s o) 6 1 (clusterOf s) flags (fun _ => v))

/-- The lanes that are on. -/
def onLanes (s : State) (o : VV) : List Unit32 :=
  let a := rd s o.a
  (lanes.filter (laneOn (maskOf s o))).map (lane a)

/-- One level of a binary tree over a list, left to right, with flags and draws. -/
def treeLevel (f : Nat → Nat → Nat → Nat × Fl) (stoch : Bool) : List Nat → Fl → Nat → List Nat × Fl × Nat
  | a :: b :: r, fl, rng =>
    let q := roundOnce stoch rng (fun _ => true) (fun u => f u a b)
    let t := treeLevel f stoch r (fl.or q.1.2) q.2
    (q.1.1 :: t.1, t.2.1, t.2.2)
  | l, fl, rng => (l, fl, rng)

/-- Six levels of the tree of R182. -/
def tree64 (f : Nat → Nat → Nat → Nat × Fl) (stoch : Bool) (v : List Nat) (rng : Nat) : Nat × Fl × Nat :=
  let t := (List.range 6).foldl (fun (acc : List Nat × Fl × Nat) _ => treeLevel f stoch acc.1 acc.2.1 acc.2.2) (v, Fl.none, rng)
  ((t.1.head?).getD 0, t.2.1, t.2.2)

end Sys2Proof.Machine
end

