-- ==== Sys2Proof/Machine/Memory.lean ====
section
/-! DEFINITION. The instructions of the LS, LG, LA and XL slots (R199 to R212). -/
namespace Sys2Proof.Machine

/-! ### Offsets and checks -/

/-- off of an LS, LG or LA word (R206, R209): a 64-bit sum. -/
def memOff (s : State) (x : Mod) (o : MEM) : Nat := (regG s o.a.toNat + wrap64 (immExt x 12 o.imm.toNat)).toNat

/-- A refused scratchpad access (R205). -/
def spBad (off reason : Nat) : Bad := ⟨0x0C, reasonTval reason (off % 2 ^ 32)⟩

/-- The third check of R206 on one range: the copy it lies in and whether that copy allows the access. -/
def segCheck (s : State) (core off len : Nat) (store : Bool) : Option Bad :=
  if len == 0 || off + len ≤ programEnd s core then none
  else match copyAt (coreAt s core) off with
    | none => some (spBad off 2)
    | some d =>
      if d.off + d.size < off + len then some (spBad off 2)
      else if store && d.state == .frozen then some ⟨0x0D, BitVec.ofNat 64 (off % 2 ^ 32)⟩
      else if (if store then d.writers > 0 && (d.state == .clean || d.state == .dirty) else copyHit d) then none
      else some (spBad off 2)

/-- The checks of R206 on the ranges of an access, each check over all of them in turn: of a range without bytes, the offset alone.
DESIGN CHOICE (log entry 56): the offset that `tval` holds is that of the lane or byte that fails (R205). -/
def spCheck (s : State) (core : Nat) (ranges : List (Nat × Nat)) (store : Bool) (align : Nat) : Option Bad :=
  match ranges.find? (fun r => r.1 ≥ 2 ^ 32 || (r.2 != 0 && r.1 + r.2 > windowOf s core)) with
  | some r => some (spBad r.1 1)
  | none =>
    match ranges.find? (fun r => r.1 % align != 0) with
    | some r => some (spBad r.1 3)
    | none => firstSome (ranges.map (fun r => segCheck s core r.1 r.2 store))

/-- A refused access traps at the bundle; causes that the leaf serves name the handle (R201). -/
def trapBad (s : State) (b : Bad) (h : Nat) : State :=
  trapLeaf s b.cause b.tval (if b.cause == 0x0A || b.cause == 0x0B then some (.handle h) else none)

/-! ### Watches (R385) -/

/-- A store of the running instruction is matched against the core's watches; the first match of the bundle stays. -/
def noteHit (s : State) (sp : Bool) (first : Nat) (addrs : List Nat) : State :=
  match s.cur.hit, ownHit (myCore s) sp addrs with
  | none, some w =>
    let h := (s.cur.slot, BitVec.ofNat 64 (first % 2 ^ 57 + 2 ^ 57 * w.1), watchInfo 0 0 0 s.cur.core w.2)
    { s with cur := { s.cur with hit := some h } }
  | _, _ => s

/-! ### Scratchpad (R206 to R208) -/

/-- The matrix operand of a MEM word (R100). -/
def memOp (s : State) (o : MEM) : MOp := matOp (me s) (bitOf o.cl) o.t

/-- The lane mask of a MEM word. -/
def memMask (s : State) (o : MEM) : Word := regK s o.k.toNat

/-- A scratchpad instruction: nothing under a false guard but its time, otherwise its checks and its effect. -/
def lsRun (s : State) (on : Bool) (ranges : List (Nat × Nat)) (store : Bool) (align : Nat) (idle : State) (act : State) : Answer :=
  if !on then .next idle
  else match spCheck s s.cur.core ranges store align with
    | some b => .next (trapBad s b 0)
    | none => .next (if store then act else markReads s act ranges)

/-- Bytes stored at c + 1 (R207). -/
def spPut (s : State) (off : Nat) (bs : List (Nat × Byte)) : State :=
  noteHit (landNext s true (.sp bs)) true off (bs.map (fun b => b.1))

/-- The bytes of the lanes that are on, lane i at `addr i`. -/
def laneBytes (mask : Word) (v : List Unit32) (addr : Nat → Nat) : List (Nat × Byte) :=
  (lanes.filter (laneOn mask)).flatMap (fun i => placed (addr i) (bytesOf 4 (lane v i).toNat))

/-- A vector load of lanes at `addr i`, due 6. -/
def spLanes (s : State) (on : Bool) (o : MEM) (addr : Nat → Nat) : State :=
  let sp := mySp s
  toLanes s on (memOp s o) (memMask s o) 6 1 0 0 (fun i => BitVec.ofNat 32 (peekNat sp (addr i) 4))

/-- Bytes of a scalar access, and the extension of a loaded value (R100). -/
def scalarBytes (o : MEM) : Nat := 2 ^ bits o.mod.toNat 0 2
def extend (o : MEM) (n v : Nat) : Word := if bit o.mod.toNat 2 then wrap64 (sextNat (8 * n) v) else BitVec.ofNat 64 v

def execLds (x : Mod) (o : MEM) (s : State) : Answer :=
  let off := memOff s x o
  let n := scalarBytes o
  let t := o.t.toNat % 64
  lsRun s (guardOn s x) [(off, n)] false 1 (toG s false t 5 1 0) (toG s true t 5 1 (extend o n (peekNat (mySp s) off n)))
def execSts (x : Mod) (o : MEM) (s : State) : Answer :=
  let off := memOff s x o
  let n := scalarBytes o
  lsRun s (guardOn s x) [(off, n)] true 1 (occupy s 1) (spPut s off (placed off (bytesOf n (regG s (o.t.toNat % 64)).toNat)))
def execLdsv (x : Mod) (o : MEM) (s : State) : Answer :=
  let off := memOff s x o
  lsRun s (guardOn s x) [(off, 256)] false 256 (spLanes s false o (fun i => off + 4 * i)) (spLanes s true o (fun i => off + 4 * i))
def execStsv (x : Mod) (o : MEM) (s : State) : Answer :=
  let off := memOff s x o
  lsRun s (guardOn s x) [(off, 256)] true 256 (occupy s 1)
    (spPut s off (laneBytes (memMask s o) (readOp s (memOp s o)) (fun i => off + 4 * i)))
def execLdsvu (x : Mod) (o : MEM) (s : State) : Answer :=
  let off := memOff s x o
  lsRun s (guardOn s x) [(off, 256)] false 1 (spLanes s false o (fun i => off + 4 * i)) (spLanes s true o (fun i => off + 4 * i))

/-- The bytes that a masked, counted store writes (R208): byte j < cnt of the lanes that are on. -/
def countedBytes (mask : Word) (v : List Unit32) (off cnt : Nat) : List (Nat × Byte) :=
  (laneBytes mask v (fun i => off + 4 * i)).filter (fun e => e.1 < off + cnt)

/-- `STSVM` (R208). DESIGN CHOICE (log entry 56): its bytes are checked one by one, each a range of its own (R206), so that they may lie in two copies. -/
def execStsvm (x : Mod) (o : MEM) (s : State) : Answer :=
  let off := memOff s x o
  let cnt := (regG s o.b.toNat).toNat
  if !guardOn s x then .next (occupy s 1)
  else if cnt > 256 then .next (trapBad s (spBad off 7) 0)
  else
    let bs := countedBytes (memMask s o) (readOp s (memOp s o)) off cnt
    lsRun s true (bs.map (fun e => (e.1, 1))) true 1 s (spPut s off bs)

/-- The address of lane i of a strided access (R207). -/
def strided (s : State) (o : MEM) (off : Nat) (i : Nat) : Nat := (BitVec.ofNat 64 off + BitVec.ofNat 64 i * regG s o.b.toNat).toNat

def execLdsx (x : Mod) (o : MEM) (s : State) : Answer :=
  let addr := strided s o (memOff s x o)
  lsRun s (guardOn s x) (lanes.map (fun i => (addr i, 4))) false 4 (spLanes s false o addr) (spLanes s true o addr)
def execStsx (x : Mod) (o : MEM) (s : State) : Answer :=
  let off := memOff s x o
  let addr := strided s o off
  lsRun s (guardOn s x) (lanes.map (fun i => (addr i, 4))) true 4 (occupy s 1)
    (spPut s off (laneBytes (memMask s o) (readOp s (memOp s o)) addr))

/-- The rows of `LDSM` and `STSM`. -/
def rowCount (o : MEM) : Nat := bits o.mod.toNat 0 6 + 1

/-- `LDSM`: every row is read at issue, row r is due r + 6. -/
def loadRows (s : State) (on : Bool) (o : MEM) (off n : Nat) : State :=
  let sp := mySp s
  let mask := memMask s o
  let op := fun r => advance (memOp s o) r
  push s { newFlight s (n + 5) with
    occ := n
    dests := (List.range n).flatMap (fun r => laneDests (op r) mask (r + 6))
    writes := if on then (List.range n).map (fun r =>
        (r + 6, lanesOut (op r) mask (fun i => BitVec.ofNat 32 (peekNat sp (off + 256 * r + 4 * i) 4))))
      else [] }
def execLdsm (x : Mod) (o : MEM) (s : State) : Answer :=
  let off := memOff s x o
  let n := rowCount o
  lsRun s (guardOn s x) [(off, 256 * n)] false 256 (loadRows s false o off n) (loadRows s true o off n)

/-- `STSM`: row 0 is read at issue, the others at their cycles (R207). -/
def storeRows (s : State) (o : MEM) (off n : Nat) : State :=
  let mask := memMask s o
  let first := laneBytes mask (readOp s (memOp s o)) (fun i => off + 4 * i)
  let s := push s { newFlight s n with occ := n, writes := [(1, .sp first)], late := .storeRows (memOp s o) n off mask }
  noteHit s true off ((List.range n).flatMap (fun r =>
    (lanes.filter (laneOn mask)).flatMap (fun i => (List.range 4).map (fun j => off + 256 * r + 4 * i + j))))
def execStsm (x : Mod) (o : MEM) (s : State) : Answer :=
  let off := memOff s x o
  let n := rowCount o
  lsRun s (guardOn s x) [(off, 256 * n)] true 256 (occupy s n) (storeRows s o off n)

/-! ### Global memory (R209) -/

/-- The handle of a MEM word. -/
def memHandle (s : State) (o : MEM) : Word128 := regH s o.h.toNat

/-- A flight of a global load (R134): its value is fixed at issue (R323), it arrives in variable time. -/
def loadFlight (s : State) (on : Bool) (dests : List (Loc × Nat)) (w : List (Nat × Write)) : State :=
  push s { newFlight s 24 with dests := dests, writes := if on then w else [], late := if on then .load else .none, var := on }

/-- A global access: nothing under a false guard but its time, otherwise its checks and its effect at a physical address. -/
def lgRun (s : State) (o : MEM) (on : Bool) (off len align perm : Nat) (idle : State) (act : Nat → State) : Answer :=
  if !on then .next idle
  else match checkHandle (memHandle s o) o.h.toNat off len align perm with
    | some b => .next (trapBad s b o.h.toNat)
    | none => .next (act (hBase (memHandle s o) + off))

/-- The bytes a load of the acting strand returns. -/
def myLoad (s : State) (pa n : Nat) : List Byte := loadBytes s s.cur.core s.cur.bank pa n

/-- A store of the acting strand: private until published, matched against the core's watches. -/
def globalPut (s : State) (o : MEM) (off : Nat) (bs : List (Nat × Byte)) : State :=
  noteHit (storeGlobal (occupy s 1) bs) false (hVa (memHandle s o) + off) (bs.map (fun b => b.1))

def execLdg (x : Mod) (o : MEM) (s : State) : Answer :=
  let off := memOff s x o
  let n := scalarBytes o
  let t := o.t.toNat % 64
  lgRun s o (guardOn s x) off n 1 0 (loadFlight s false (gDest t 24) [])
    (fun pa => markReads s (loadFlight s true (gDest t 24) (gWrite t 24 (extend o n (natOfBytes (myLoad s pa n))))) [(pa, n)])
def execStg (x : Mod) (o : MEM) (s : State) : Answer :=
  let off := memOff s x o
  let n := scalarBytes o
  lgRun s o (guardOn s x) off n 1 1 (occupy s 1)
    (fun pa => globalPut s o off (placed pa (bytesOf n (regG s (o.t.toNat % 64)).toNat)))
def execLdgv (x : Mod) (o : MEM) (s : State) : Answer :=
  let off := memOff s x o
  let d := memOp s o
  let mask := memMask s o
  lgRun s o (guardOn s x) off 256 4 0 (loadFlight s false (laneDests d mask 24) [])
    (fun pa =>
      let bs := myLoad s pa 256
      markReads s (loadFlight s true (laneDests d mask 24)
        [(24, lanesOut d mask (fun i => BitVec.ofNat 32 (natOfBytes ((bs.drop (4 * i)).take 4))))]) [(pa, 256)])
def execStgv (x : Mod) (o : MEM) (s : State) : Answer :=
  let off := memOff s x o
  lgRun s o (guardOn s x) off 256 4 1 (occupy s 1)
    (fun pa => globalPut s o off (laneBytes (memMask s o) (readOp s (memOp s o)) (fun i => pa + 4 * i)))

/-- `STGVM` makes its checks in the order of R209: the state of the handle, the count, then bounds and permission of cnt bytes. -/
def execStgvm (x : Mod) (o : MEM) (s : State) : Answer :=
  let off := memOff s x o
  let h := memHandle s o
  let cnt := (regG s o.b.toNat).toNat
  if !guardOn s x then .next (occupy s 1)
  else match checkState h o.h.toNat off with
    | some b => .next (trapBad s b o.h.toNat)
    | none =>
      if cnt > 256 then .next (trapBad s ⟨0x0C, accessTval h off 7⟩ o.h.toNat)
      else if cnt == 0 then .next (occupy s 1)
      else lgRun s o true off cnt 1 1 s
        (fun pa => globalPut s o off (countedBytes (memMask s o) (readOp s (memOp s o)) pa cnt))

/-- `PFG`: it changes no value and raises no trap. -/
def execPfg (_ : Mod) (_ : MEM) (s : State) : Answer := .next (occupy s 1)

/-- `FLG`: it changes no value and is checked as a load of one byte. -/
def execFlg (x : Mod) (o : MEM) (s : State) : Answer :=
  lgRun s o (guardOn s x) (memOff s x o) 1 1 0 (occupy s 1) (fun _ => occupy s 1)

/-! ### Atomics (R210 to R212) -/

/-- Width in bits of an atomic (R100): 10 is 32, 11 is 64; 01 is the FP32 form of `ARADD`. -/
def atomWidth (o : MEM) : Nat := if bits o.mod.toNat 5 2 == 3 then 64 else 32

/-- An atomic of the running instruction. -/
def newAtomic (s : State) (o : MEM) (op pa width dest lane : Nat) (operand cmp : Word) : Atomic :=
  let x := me s
  { id := s.nextId, core := s.cur.core, bank := s.cur.bank, kernel := x.kernel, op := op, pa := pa, width := width, operand := operand,
    swap := cmp, dest := dest, flight := s.nextId + 1, acq := bit o.mod.toNat 3, scope := bits o.mod.toNat 0 3, epoch := x.epoch,
    ordinal := x.ordinal, index := x.index, sub := lane, rnd := 1, va := BitVec.ofNat 64 (hVa (memHandle s o)), refused := false }

/-- Issue an atomic: it goes on its way to its home slice, and its returned value is declared due 48. -/
def issueAtomic (s : State) (o : MEM) (op pa : Nat) : State :=
  let t := o.t.toNat % 64
  let a := newAtomic s o op pa (atomWidth o) t 0 (regG s o.b.toNat) (regG s t)
  let s' := { s with atomics := s.atomics ++ [a], nextId := s.nextId + 1 }
  if t == 0 then occupy s' 1
  else push s' { newFlight s' 48 with dests := gDest t 48, late := .atomic, var := true }

/-- A decision that a log may govern: it goes on, it blocks the bundle, or replay diverges (R381, R382). -/
def gated (s : State) (g : Gate) (k : State → Word → State) : State :=
  match g with
  | .go s v => k s v
  | .hold => block s
  | .diverge t => trap s 0x23 t

/-- A boundary of the acting strand at a scope takes its turn and its place: every earlier atomic of the strand has been performed or held (R210), and
what comes before it in the boundary order has happened (R320): an epoch that a lower slot of its bundle closed among that. DESIGN CHOICE (log entry 54): an
atomic of its own bundle that its slice refuses is not waited for, since R380 lets the bundles before its due bundle issue. -/
def atBoundary (s : State) (scope : Nat) (k : State → State) : State :=
  let t := closeEpochs (settleAtomics s s.cur.core s.cur.bank)
  let waits := fun (a : Atomic) => !(a.refused && a.index == (me s).index)
  if (atomicsOf t s.cur.core s.cur.bank).any waits || !gclkMoves s || epochPending t then block s
  else gated t (boundaryGate t s.cur.core s.cur.bank scope s.cur.bank (me s).scyc.toNat) (fun s _ => k (takePlace s (myPlace s)))

/-- An atomic that is a boundary (R319) takes its turn; the publication of a `.rel` is made as it issues, before the atomic is performed. -/
def atomicTurn (s : State) (o : MEM) (k : State → State) : State :=
  if bit o.mod.toNat 3 || bit o.mod.toNat 4 then
    atBoundary s (bits o.mod.toNat 0 3) (fun s =>
      k (if bit o.mod.toNat 4 then publish s s.cur.core s.cur.bank (bits o.mod.toNat 0 3) (myPlace s) else s))
  else k s

/-- An atomic with opcode `op` (R211). -/
def atomic (op : Nat) (x : Mod) (o : MEM) (s : State) : Answer :=
  let off := memOff s x o
  let t := o.t.toNat % 64
  lgRun s o (guardOn s x) off (atomWidth o / 8) (atomWidth o / 8) 2 (if t == 0 then occupy s 1 else push s { newFlight s 48 with dests := gDest t 48 })
    (fun pa => atomicTurn s o (fun s => issueAtomic s o op pa))

def execAadd (x : Mod) (o : MEM) (s : State) : Answer := atomic 0 x o s
def execAfadd (x : Mod) (o : MEM) (s : State) : Answer := atomic 1 x o s
def execAmin (x : Mod) (o : MEM) (s : State) : Answer := atomic 2 x o s
def execAmax (x : Mod) (o : MEM) (s : State) : Answer := atomic 3 x o s
def execAminu (x : Mod) (o : MEM) (s : State) : Answer := atomic 4 x o s
def execAmaxu (x : Mod) (o : MEM) (s : State) : Answer := atomic 5 x o s
def execAand (x : Mod) (o : MEM) (s : State) : Answer := atomic 6 x o s
def execAor (x : Mod) (o : MEM) (s : State) : Answer := atomic 7 x o s
def execAxor (x : Mod) (o : MEM) (s : State) : Answer := atomic 8 x o s
def execAxchg (x : Mod) (o : MEM) (s : State) : Answer := atomic 9 x o s
def execAcas (x : Mod) (o : MEM) (s : State) : Answer := atomic 10 x o s

/-- `ARADD` (R212): one atomic for each lane that is on, a word add or an FP32 add by its width. -/
def execAradd (x : Mod) (o : MEM) (s : State) : Answer :=
  let off := memOff s x o
  let op := if bits o.mod.toNat 5 2 == 1 then 12 else 11
  let v := readOp s (memOp s o)
  let mask := memMask s o
  lgRun s o (guardOn s x) off 256 4 2 (occupy s 1) (fun pa => atomicTurn s o (fun s =>
    let s := occupy s 1
    (lanes.filter (laneOn mask)).foldl (fun s i =>
      let a := newAtomic s o op (pa + 4 * i) 32 0 i ((lane v i).setWidth 64) 0
      { s with atomics := s.atomics ++ [{ a with flight := 0 }], nextId := s.nextId + 1 }) s))

/-! ### Translation (R202) -/

/-- A translation on its way to h[n]. Under a false guard it is in flight for its 60 cycles of wall time (R130, R133). -/
def walkTo (s : State) (on : Bool) (n : Nat) (va : Word) (perms : Nat) : State :=
  let f := newFlight s 60
  push s { f with wall := f.wall || !on, dests := [(.h n, 60)], late := if on then .xlt n va perms else .none, var := on }

def execXlt (x : Mod) (o : SR) (s : State) : Answer :=
  .next (walkTo s (guardOn s x) (o.d.toNat % 32) (regG s o.a.toNat) 0)
def execXltp (x : Mod) (o : SI) (s : State) : Answer :=
  let b := (regG s o.b.toNat).toNat
  if guardOn s x && bits b 5 3 != 0 then .next (trap s 0x01 (BitVec.ofNat 64 (s.cur.page + s.cur.word)))
  else .next (walkTo s (guardOn s x) (b % 32) (regG s o.a.toNat) (o.imm.toNat % 32))
def execXrel (x : Mod) (o : SR) (s : State) : Answer :=
  let n := o.d.toNat % 32
  .next (push s { newFlight s 1 with dests := [(.h n, 1)], writes := if guardOn s x then [(1, .h n 0)] else [] })

/-- `XINV` drops the core's cached translations of an address (R202; log entry 6). -/
def execXinv (x : Mod) (o : SR) (s : State) : Answer :=
  .next (occupy (if guardOn s x then dropCached s s.cur.core (me s).pasid (regG s o.a.toNat) else s) 1)

end Sys2Proof.Machine
end

