-- ==== Sys2Proof/Machine/Transform.lean ====
section
/-! DEFINITION. The instructions of the TF slot (R251 to R258). -/
namespace Sys2Proof.Machine

/-- Source and destination operands of a TF word: sub [0] and [1] are their clusters (R251). -/
def tfSrc (s : State) (o : VV) (f : BitVec 10) : MOp := matOp (me s) (bits o.sub.toNat 0 1) f
def tfDst (s : State) (o : VV) : MOp := matOp (me s) (bits o.sub.toNat 1 1) o.d

/-- The register-file code and number that a schedule error names for a matrix operand (R131, R18). -/
def matTval (cluster : Nat) (f : BitVec 10) : Word := BitVec.ofNat 64 (2048 * (4 + cluster) + f.toNat)

/-! ### Transposition (R252) -/

def execXpose (x : Mod) (o : VV) (s : State) : Answer :=
  let n := o.c.toNat % 64 + 1
  let src := tfSrc s o o.a
  let d := tfDst s o
  let col := fun r => { d with dir := 1, idx := (d.idx + r) % 64 }
  let all := BitVec.allOnes 64
  .next (push s { newFlight s (n + 7) with
    occ := n
    dests := (List.range n).flatMap (fun r => laneDests (col r) all (r + 8))
    writes := if guardOn s x then (List.range n).map (fun r => (r + 8, lanesOut (col r) all (lane (readOp s (advance src r))))) else [] })

/-! ### Elements written into lanes (R251) -/

/-- What a run of elements gathers: bits laid into lanes, the lanes' bits that are written, flags, stochastic state. -/
structure Fill where
  vals : Table Nat
  fl   : Fl
  rng  : Nat
  deriving DecidableEq, Repr

/-- Elements 0 to n - 1 in turn: `f j u` gives the code and flags, `draws j` says whether the stochastic mode draws for it. -/
def fillElems (stoch : Bool) (rng n : Nat) (on draws : Nat → Bool) (f : Nat → Nat → Nat × Fl) : Fill :=
  ((List.range n).filter on).foldl (fun a j =>
    let r := roundOnce stoch a.rng (fun _ => draws j) (f j)
    { vals := a.vals ++ [(j, r.1.1)], fl := a.fl.or r.1.2, rng := r.2 }) { vals := [], fl := Fl.none, rng := rng }

/-- The value of lane `l` (counted from the first of the span) after elements of `e` bytes are laid into it over its old value. -/
def laidLane (vals : Table Nat) (e l : Nat) (old : Unit32) : Unit32 :=
  (List.range (4 / e)).foldl (fun v i =>
    match tget vals (l * (4 / e) + i) with
    | none => v
    | some c =>
      let m : Unit32 := (BitVec.ofNat 32 (2 ^ (8 * e) - 1)) <<< (8 * e * i)
      (v &&& ~~~m) ||| ((BitVec.ofNat 32 (c % 2 ^ (8 * e))) <<< (8 * e * i))) old

/-- Lanes `from` to `from + n - 1` of a mask. -/
def spanMask (first n : Nat) : Word := BitVec.ofNat 64 ((2 ^ n - 1) * 2 ^ first)

/-- Elements laid into a span of the destination's lanes, due `due`. -/
def laidOut (x : Mod) (s : State) (d : MOp) (due first n e : Nat) (a : Fill) : State :=
  let old := readOp s d
  toLanes s (guardOn s x) d (spanMask first n) due 1 2 (flagsOf x a.fl) (fun i => laidLane a.vals e (i - first) (lane old i))

/-- The stochastic state after an instruction's draws, which a false guard does not take (R246). -/
def keepRng (s : State) (stoch : Bool) (rng : Nat) : State := if stoch then setRng s rng else s

/-- A finite value is rounded, so that it draws in the stochastic mode (R246; log entry 13). -/
def isFinite (v : Val) : Bool :=
  match v with
  | .num _ _ _ => true
  | _ => false

def execXcvt (x : Mod) (o : VV) (s : State) : Answer :=
  let a := readOp s (tfSrc s o o.a)
  let code := o.c.toNat % 16
  let p := bits o.c.toNat 4 2
  let mode := modeOf s x
  let stoch := mode == 6 && guardOn s x
  let r := fillElems stoch (me s).srng.toNat 64 (laneOn (maskOf s o)) (fun j => isFinite (val32 (lane a j)))
    (fun j u => narrowElem code mode (satOf x) u (lane a j))
  let e := elemBytes code
  .next (keepRng (laidOut x s (tfDst s o) 3 (16 * e * p) (16 * e) e r) stoch r.rng)

/-- Element j of part p of a row (R254). -/
def partElem (a : List Unit32) (e p j : Nat) : Nat :=
  let b := (64 * p + j) * e
  bits (lane a (b / 4)).toNat (8 * (b % 4)) (8 * e)

def execXwiden (x : Mod) (o : VV) (s : State) : Answer :=
  let a := readOp s (tfSrc s o o.a)
  let code := o.c.toNat % 16
  let p := bits o.c.toNat 4 2
  let mask := maskOf s o
  let r := lanes.map (fun j => widenElem code (partElem a (elemBytes code) p j))
  let fl := (lanes.filter (laneOn mask)).foldl (fun f j => f.or (((r[j]?).getD (0, Fl.none)).2)) Fl.none
  .next (toLanes s (guardOn s x) (tfDst s o) mask 3 1 2 (flagsOf x fl) (fun j => ((r[j]?).getD (0, Fl.none)).1))

/-! ### FP4 blocks (R255, R256) -/

/-- v[j] of `XEXP`: the exact value of element j of part p. -/
def blockVal (a b : List Unit32) (p : Nat) (band : Val) (j : Nat) : Val :=
  let blk := 8 * p + j / 8
  let S := scaleVal (bits (lane b (blk / 4)).toNat (8 * (blk % 4)) 8)
  fp4Val (fp4Elem (lane a blk).toNat (j % 8)) S band

/-- A NaN raises invalid beside the flags of its rounding. -/
def nanInvalid (v : Val) (r : Nat × Fl) : Nat × Fl := (r.1, { r.2 with nv := r.2.nv || isNan v })

def execXexp (x : Mod) (o : VV) (s : State) : Answer :=
  let a := readOp s (tfSrc s o o.a)
  let b := readOp s (tfSrc s o o.b)
  let band := valueOf bf16 ((regG s (bits o.c.toNat 0 6)).toNat % 2 ^ 16)
  let p := bits o.c.toNat 6 3
  let half := bits o.c.toNat 9 1
  let mode := modeOf s x
  let stoch := mode == 6 && guardOn s x
  let v := fun j => blockVal a b p band j
  let wide := !bit o.sub.toNat 2
  let f := if wide then fp32 else bf16
  let r := fillElems stoch (me s).srng.toNat 64 (fun _ => true) (fun j => isFinite (v j))
    (fun j u => nanInvalid (v j) (roundVal f mode (satOf x) u (v j)))
  let s' := if wide then laidOut x s (tfDst s o) 4 0 64 4 r else laidOut x s (tfDst s o) 4 (32 * half) 32 2 r
  .next (keepRng s' stoch r.rng)

/-- The scale of block q and whether it holds a NaN (R256). -/
def quantScale (code : Nat) (a : List Unit32) (q : Nat) : Nat :=
  let vs := (List.range 8).map (fun i => val32 (lane a (8 * q + i)))
  if vs.any isNan then 0xFF
  else match vs.foldl absMax (.num false 0 0) with
    | .num _ m e => blockScale code m e
    | _ => 0xFE

/-- Element j of `XPACK`: a block with a NaN gives zeros and invalid. -/
def quantElem (code mode u : Nat) (scale : Nat) (x : Val) : Nat × Fl :=
  if scale == 0xFF then (0, Fl.invalid) else packElem code mode u scale x

/-- The words of eight FP4 blocks. -/
def fp4Lane (vals : Table Nat) (q : Nat) : Unit32 :=
  BitVec.ofNat 32 (pack ((List.range 8).map (fun i => (4, tgetD vals (8 * q + i) 0))))

def execXpack (x : Mod) (o : VV) (s : State) : Answer :=
  let a := readOp s (tfSrc s o o.a)
  let code := o.c.toNat % 16
  let p := bits o.c.toNat 4 3
  let mode := modeOf s x
  let on := guardOn s x
  let stoch := mode == 6 && on
  let scales := (List.range 8).map (quantScale code a)
  let sc := fun j => (scales[j / 8]?).getD 0
  let r := fillElems stoch (me s).srng.toNat 64 (fun _ => true) (fun j => sc j != 0xFF && isFinite (val32 (lane a j)))
    (fun j u => quantElem code mode u (sc j) (val32 (lane a j)))
  let g := o.b.toNat % 64
  let d := tfDst s o
  let old := readOp s d
  let first := if code == 5 then 8 * p else 16 * p
  let n := if code == 5 then 8 else 16
  let out := fun i => if code == 5 then fp4Lane r.vals (i - first) else laidLane r.vals 1 (i - first) (lane old i)
  let gv := BitVec.ofNat 64 (natOfBytes (scales.map (BitVec.ofNat 8)))
  let mask := spanMask first n
  let s' := push s { newFlight s 5 with
    dests := laneDests d mask 5 ++ gDest g 5
    writes := if on then (5, lanesOut d mask out) :: gWrite g 5 gv ++ flagWrites 2 5 (flagsOf x r.fl) else [] }
  .next (keepRng s' stoch r.rng)

/-! ### The decoder FIFO (R257, R258) -/

/-- The bytes of the next block, as far as the stream goes, that the FIFO may read from now on. -/
def streamBytes (sp : Memory) (off len next : Nat) : List Byte := peeks sp (off + next) (min 264 (len - next))

/-- The stream stands at a block: its bytes as they are now are kept, since the FIFO may read them from now on. -/
def streamAt (s : State) (off len ratio next : Nat) (first : Bool) : DecStream :=
  { off := off, len := len, ratio := ratio, next := next, since := 0, first := first, got := streamBytes (myCore s).sp off len next }

def execXdcfg (x : Mod) (o : VV) (s : State) : Answer :=
  let off := (regG s (o.a.toNat % 64)).toNat
  let len := (regG s (o.b.toNat % 64)).toNat
  if !guardOn s x then .next (occupy s 1)
  else if off % 8 != 0 then .next (trapBad s (spBad off 3) 0)
  else if len % 8 != 0 then .next (trapBad s (spBad off 3) 0)
  else match spCheck s s.cur.core [(off, len)] false 1 with
    | some b => .next (trapBad s b 0)
    | none =>
      let d := streamAt s off len o.c.toNat 0 true
      .next (modMe (occupy s 1) (fun c => { c with dec := some d }))

/-- Schedule cycles that an `XDEC` keeps from the one before it, or from `XDCFG` (R258). -/
def spacing (d : DecStream) : Nat := ceilDiv d.ratio 8 + (if d.first then 1 else 0)

/-- The bytes the FIFO read: each as it was when the stream came to the block, or as it is now (R257). -/
def fifoBytes (s : State) (d : DecStream) : List Byte :=
  let now := streamBytes (mySp s) d.off d.len d.next
  ((List.range now.length).zip (now.zip d.got)).map (fun e =>
    if e.2.1 == e.2.2 || Config.pick s.free (2 ^ 44 + e.1) % 2 == 0 then e.2.1 else e.2.2)

/-- The `tval` of a trap of `XDEC` (R258): reason and offset of the block in scratchpad. -/
def blockTval (d : DecStream) (reason : Nat) : Word := reasonTval reason ((d.off + d.next) % 2 ^ 32)

/-- The block's own causes, in the order of R258. -/
def blockCause (d : DecStream) (bs : List Byte) : Option Bad :=
  let head := natOfBytes (bs.take 8)
  let w := (hpkHead head).w
  if d.len < d.next + 8 then some ⟨0x19, blockTval d 2⟩
  else if !hpkOk head then some ⟨0x19, blockTval d 1⟩
  else if 1 + w > d.ratio then some ⟨0x18, blockTval d 0⟩
  else if d.len < d.next + 8 + 8 * w then some ⟨0x19, blockTval d 2⟩
  else none

/-- `XDEC`: the spacing is judged first; with chk clear the core has stalled until the block was read (R258). -/
def execXdec (x : Mod) (o : VV) (s : State) : Answer :=
  let d := tfDst s o
  let all := BitVec.allOnes 64
  if !guardOn s x then .next (toLanes s false d all 4 1 2 0 (fun _ => 0))
  else match (me s).dec with
    | none => .next (trap s 0x19 (reasonTval 2 0))
    | some st =>
      if bit (me s).icfg.toNat 0 && st.since < spacing st then .next (trap s 0x03 (matTval (bits o.sub.toNat 1 1) o.d))
      else
        let bs := fifoBytes s st
        match blockCause st bs with
        | some b => .next (trap s b.cause b.tval)
        | none =>
          let h := hpkHead (natOfBytes (bs.take 8))
          let ws := hpkWords h (natOfBytes ((bs.drop 8).take (8 * h.w)))
          let next := streamAt s st.off st.len st.ratio (st.next + 8 + 8 * h.w) false
          let t := markReads s (toLanes s true d all 4 1 2 0 (fun i => BitVec.ofNat 32 ((ws[i]?).getD 0))) [(st.off + st.next, 8 + 8 * h.w)]
          .next (modMe t (fun c => { c with dec := some next }))

end Sys2Proof.Machine
end

