-- ==== Sys2Proof/Machine/Matrix.lean ====
section
/-! DEFINITION. The instructions of the MX slot (R260 to R282). -/
namespace Sys2Proof.Machine

/-! ### Tiles -/

/-- Tile `t` of the acting context. -/
def tileOf (s : State) (t : Nat) : Tile := tgetD (me s).tiles t Tile.reset

/-- Change a tile of the acting context at issue. -/
def modTile (s : State) (t : Nat) (f : Tile → Tile) : State :=
  modMe s (fun x => { x with tiles := tset x.tiles t (f (tgetD x.tiles t Tile.reset)) })

/-- The tile register of a word. -/
def mxT (o : MXW) : Nat := o.t.toNat

/-- Trap 0x14 with its reason (R349). -/
def tileBad (reason : Nat) : Bad := ⟨0x14, BitVec.ofNat 64 (65536 * reason)⟩

/-- Bytes of the elements of a tile. -/
def tileSize (o : Tile) : Nat := o.rows * o.cols * elemBytes o.type

/-- The value that a flight's landings fix for a byte of a tile, if they do. -/
def knownTileByte (f : Flight) (t i : Nat) : Option Byte :=
  ((toLand f).filterMap (fun w => match w with
    | .tile u bs => if u == t then byteIn bs i else none
    | .tileAll u m => if u == t then some (peek m i) else none
    | _ => none)).getLast?

/-- The flights of earlier bundles whose result in tile `t` is not due yet. -/
def tilePending (s : State) (t : Nat) : List Flight :=
  (flying (me s)).filter (fun f => f.dests.any (fun d => d.1 == .tile t && f.age < d.2))

/-- A byte of a tile as an instruction issuing now reads it: the stored one, or in the window of a result any of the two (R131). -/
def tileByte (s : State) (t i : Nat) : Byte :=
  let stored := peek (tileOf s t).bytes i
  match tilePending s t with
  | [] => stored
  | fs =>
    let all := stored :: fs.map (fun f =>
      (knownTileByte f t i).getD ((Config.freeWord s.free (locCode (.tile t) + 2 ^ 48 * (i + 1))).setWidth 8))
    (all[Config.pick s.free (locCode (.tile t) + 2 ^ 48 * (i + 1)) % all.length]?).getD stored

/-- The number in `n` bytes of a tile. -/
def tileNat (s : State) (t i n : Nat) : Nat := natOfBytes ((List.range n).map (fun j => tileByte s t (i + j)))

/-- The whole of a tile's bytes, as `TSWAP` and `TST` read them. -/
def tileMemory (s : State) (t : Nat) : Memory :=
  match tilePending s t with
  | [] => (tileOf s t).bytes
  | _ => pokes [] 0 ((List.range 65536).map (tileByte s t))

/-! ### Tile memory handles (R21, R262) -/

/-- A tile memory handle. -/
structure TileHandle where
  fmt  : Nat
  cols : Nat
  rows : Nat
  off  : Nat
  deriving DecidableEq, Repr

/-- The handle in a g register. -/
def tileHandle (w : Word) : TileHandle :=
  { fmt := bits w.toNat 48 8, cols := bits w.toNat 40 8, rows := bits w.toNat 32 8, off := bits w.toNat 0 32 }

/-- A handle that R21 makes valid. -/
def tileHandleOk (w : Word) : Bool :=
  let h := tileHandle w
  bits w.toNat 56 8 == 0 && 1 ≤ h.fmt && h.fmt ≤ 9 && h.cols != 0 && h.rows != 0

/-- The pitch of a handle's rows: columns by element size, half a byte for FP4. -/
def tilePitch (h : TileHandle) : Nat := if h.fmt == 5 then h.cols / 2 else h.cols * elemBytes h.fmt

/-- The 128 bytes of each of `n` operand rows. -/
def rowRanges (off pitch n : Nat) : List (Nat × Nat) := (List.range n).map (fun r => (off + r * pitch, 128))

/-- A check that fails when `b` holds. -/
def badIf (b : Bool) (e : Bad) : Option Bad := if b then some e else none

/-- An operand handle (R262): validity, pitch, and its bytes, of `panels` consecutive panels. -/
def operandCheck (s : State) (w : Word) (panels : Nat) (store : Bool) : List (Option Bad) :=
  let h := tileHandle w
  [badIf (!tileHandleOk w) (tileBad 6), badIf (tilePitch h < 128 || tilePitch h % 4 != 0) (tileBad 6),
   spCheck s s.cur.core (rowRanges h.off (tilePitch h) (panels * h.rows)) store 1]

/-- The formats that a scratchpad operand may have (R262). -/
def operandFmt (f : Nat) : Bool := [1, 2, 3, 4, 6, 7].contains f

/-- A pair of operand formats fits a tile type (R263). -/
def pairFits (a b type : Nat) : Bool :=
  if type == 8 then (a == 6 || a == 7) && (b == 6 || b == 7)
  else (a == b && (a == 1 || a == 2 || a == 5)) || ((a == 3 || a == 4) && (b == 3 || b == 4))

/-! ### Configuring, zeroing and swapping (R275) -/

/-- A check list in order, then the effect. -/
def mxRun (s : State) (on : Bool) (checks : List (Option Bad)) (idle act : State) : Answer :=
  if !on then .next idle
  else match firstSome checks with
    | some b => .next (trapBad s b 0)
    | none => .next act

/-- The bytes of tiles replaced, due 2. -/
def tilesOut (s : State) (on : Bool) (ts : List (Nat × Memory)) : State :=
  push s { newFlight s 2 with
    dests := ts.map (fun e => (.tile e.1, 2)), writes := if on then ts.map (fun e => (2, .tileAll e.1 e.2)) else [] }

def execTcfg (x : Mod) (o : MXW) (s : State) : Answer :=
  let t := mxT o
  let m := bits o.imm.toNat 0 8
  let n := bits o.imm.toNat 8 8
  let type := o.sub.toNat
  let out := tilesOut s (guardOn s x) [(t, [])]
  mxRun s (guardOn s x)
    [badIf (m == 0 || n == 0 || m * n * elemBytes type > 65536) (tileBad 2), badIf ((tileOf s t).live && !o.discard) (tileBad 1)]
    out (modTile out t (fun c => { c with rows := m, cols := n, type := type, live := false }))
def execTzero (x : Mod) (o : MXW) (s : State) : Answer :=
  let t := mxT o
  let out := tilesOut s (guardOn s x) [(t, [])]
  mxRun s (guardOn s x) [badIf ((tileOf s t).type == 0) (tileBad 3)] out (modTile out t (fun c => { c with live := false }))
def execTswap (x : Mod) (o : MXW) (s : State) : Answer :=
  let t := mxT o
  let u := o.b.toNat % 4
  let a := tileOf s t
  let b := tileOf s u
  if t == u then .next (occupy s 1)
  else
    let out := tilesOut s (guardOn s x) [(t, tileMemory s u), (u, tileMemory s t)]
    .next (if guardOn s x then
        modTile (modTile out t (fun c => { c with rows := b.rows, cols := b.cols, type := b.type, live := b.live }))
          u (fun c => { c with rows := a.rows, cols := a.cols, type := a.type, live := a.live })
      else out)

/-! ### Fetch slots (R264 to R266) -/

/-- An MX instruction issued earlier still reads a fetch slot (R266). -/
def slotInUse (s : State) (n : Nat) : Bool := (me s).flights.any (fun f => f.uses.any (fun u => u.1 == n && f.age < u.2))

/-- Change a fetch slot of the acting context. -/
def setSlot (s : State) (n : Nat) (v : FSlot) : State := modMe s (fun x => { x with fslots := tset x.fslots n v })

/-- The checks of `TFET` (R264). -/
def fetchChecks (h : Word128) (hn off : Nat) (shape : Word) : List (Option Bad) :=
  [checkState h hn off,
   badIf (hSealed h) ⟨0x0C, accessTval h off 5⟩,
   badIf (!bit (hPerms h) 3) ⟨0x0C, accessTval h off (if hPerms h == 0 then 6 else 4)⟩,
   badIf (!shapeOk shape) (tileBad 0x0A),
   badIf (off + (shapeRows shape - 1) * shapePitch shape + shapeRowBytes shape > pageBytes (hSize h)) ⟨0x09, accessTval h off 0⟩,
   badIf (off % 64 != 0) ⟨0x0C, accessTval h off 3⟩]

def execTfet (x : Mod) (o : MXW) (s : State) : Answer :=
  let n := mxT o
  let hn := o.imm.toNat % 32
  let h := regH s hn
  let off := (regG s o.a.toNat).toNat
  let shape := regG s o.b.toNat
  let f := { newFlight s 48 with dests := [(.fslot n, 48)] }
  if !guardOn s x then .next (push s f)
  else if slotInUse s n then .next (trap s 0x03 0)
  else match firstSome (fetchChecks h hn off shape) with
    | some b => .next (trapBad s b hn)
    | none =>
      let old := tgetD (me s).fslots n FSlot.reset
      let job : FetchJob :=
        { handle := h, off := off, shape := shape, part := (me s).part, wins := (List.range 8).map (fun w => tgetD s.winForce (8 * dieOf s.cur.core + w) Window.reset)
          seen := (me s).seen }
      .next (setSlot (push s { f with late := .fetch n job, var := true }) n
        { old with state := .fetching, handle := h, addr := hBase h + off, shape := shape })
def execTrel (x : Mod) (o : MXW) (s : State) : Answer :=
  let n := mxT o
  if !guardOn s x then .next (occupy s 1)
  else if slotInUse s n then .next (trap s 0x03 0)
  else .next (setSlot (occupy s 1) n FSlot.reset)

/-- Fetch slot `n` as a multiply issuing now reads it. While a fetch into it is under way it reads the tile it held, or the one on its way
(R131, R264). -/
def readSlot (s : State) (n : Nat) : FSlot :=
  let old := tgetD (me s).fslots n FSlot.reset
  if old.state != .fetching then old
  else
    let coming := (me s).flights.filterMap (fun f => match f.late with
      | .fetch m job =>
        if m == n then (match stageTile s s.cur.core s.cur.bank job with
          | .ok sl => some sl
          | .error _ => none) else none
      | _ => none)
    let all := (if old.rows == 0 then [] else [{ old with state := .loaded }]) ++ coming
    let free := { old with
      state := .loaded, rows := shapeRows old.shape, format := shapeFmt old.shape, sparse := sparseCount (shapeSparse old.shape),
      staged := (List.range (shapeRows old.shape)).map (fun r =>
        ({ bytes := (List.range (shapeRowBytes old.shape)).map (fun i =>
             (Config.freeWord s.free (locCode (.fslot n) + 2 ^ 48 * (256 * r + i + 1))).setWidth 8), scales := [], bands := [] } : Row)) }
    (all[Config.pick s.free (locCode (.fslot n)) % (max 1 all.length)]?).getD free

/-! ### The multiplies (R262, R267, R270, R276) -/

/-- An operand of a multiply: its slot or its handle, format, rows and sparse count. -/
structure Operand where
  slot   : Option Nat
  hand   : TileHandle
  fmt    : Nat
  rows   : Nat
  sparse : Nat
  staged : List Row
  deriving DecidableEq, Repr

/-- An operand from a fetch slot, and from scratchpad. -/
def slotOperand (s : State) (n : Nat) : Operand :=
  let f := readSlot s n
  { slot := some n, hand := ⟨0, 0, 0, 0⟩, fmt := f.format, rows := f.rows, sparse := f.sparse, staged := f.staged }
def handOperand (w : Word) : Operand :=
  let h := tileHandle w
  { slot := none, hand := h, fmt := h.fmt, rows := h.rows, sparse := 0, staged := [] }

/-- The state of a fetch slot that a multiply reads (R276 step 2, R266). -/
def slotChecks (s : State) (n : Nat) : List (Option Bad) :=
  let f := tgetD (me s).fslots n FSlot.reset
  [badIf (f.state == .empty) (tileBad 7), badIf (f.state == .revoked) ⟨0x08, BitVec.ofNat 64 (n + 4 * 7)⟩]

/-- A scratchpad operand's format is on the list of R262. -/
def formatCheck (a : Operand) : Option Bad := badIf (a.slot.isNone && !operandFmt a.fmt) (tileBad 5)

/-- The fetch slots that a multiply reads. -/
def slotsRead (a : Operand) (bs : List Operand) : List Nat := (a :: bs).filterMap (fun o => o.slot)

/-- The scratchpad ranges that a multiply reads. -/
def operandRanges (a : Operand) (panels : Nat) : List (Nat × Nat) :=
  match a.slot with
  | some _ => []
  | none => rowRanges a.hand.off (tilePitch a.hand) (panels * a.hand.rows)

/-- Occupancy of a multiply (R267). -/
def arrayOcc (m n : Nat) : Nat := max 1 (ceilDiv (m * n) 256)

/-- Start a multiply: A, the operands of B's steps or a descriptor, and the K steps. -/
def startMultiply (s : State) (t : Nat) (last : Bool) (cells : List Nat) (steps sparse : Nat) (a : Operand) (bs : List Operand)
    (bFmt : Nat) (desc : Option (Nat × Nat)) : State :=
  let c := tileOf s t
  let occ := arrayOcc c.rows c.cols
  let upto := 3 + (c.rows - 1) * c.cols / 256
  let slots := slotsRead a bs
  let bHand := match bs with
    | [b] => if b.slot.isNone then some (b.hand.off, tilePitch b.hand) else none
    | _ => none
  let job : ArrayJob :=
    { tile := t, rows := c.rows, cols := c.cols, type := c.type, steps := steps, sparse := sparse, aFmt := a.fmt, bFmt := bFmt,
      cells := cells, aFrom := if a.slot.isNone then some (a.hand.off, tilePitch a.hand) else none, bFrom := bHand,
      desc := desc.map (fun d => d.1), a := a.staged, b := bs.flatMap (fun b => b.staged) }
  let ranges := operandRanges a 1 ++ bs.flatMap (fun b => operandRanges b steps) ++ (match desc with | some d => [d] | none => [])
  let s := push s { newFlight s (occ + 12) with
    occ := occ, dests := [(.tile t, occ + 12)], late := .mma job
    writes := if last then slots.map (fun n => (upto, .unpin n)) else []
    holds := ranges.map (fun r => { write := false, lo := r.1, len := r.2, upto := upto })
    uses := slots.map (fun n => (n, upto)) }
  modTile s t (fun c => { c with live := true })

/-- A multiply under a false guard: its occupancy, its tile in flight. -/
def idleMultiply (s : State) (t : Nat) : State :=
  let c := tileOf s t
  let occ := arrayOcc c.rows c.cols
  push s { newFlight s (occ + 12) with occ := occ, dests := [(.tile t, occ + 12)], late := .idleArray }

/-- The four cell codes of a word (R269). -/
def cellCodes (o : MXW) : List Nat := (List.range 4).map (fun q => bits o.cellop.toNat (2 * q) 2)

/-- The A and B operands of a word. -/
def aOperand (s : State) (o : MXW) : Operand := if o.fa then slotOperand s (o.a.toNat % 4) else handOperand (regG s o.a.toNat)
def bOperand (s : State) (o : MXW) (step : Nat) : Operand :=
  if o.bs == 1 then slotOperand s ((o.b.toNat + step) % 4) else handOperand (regG s o.b.toNat)

/-- The checks on an operand's slot, and on its handle. -/
def aSlotChecks (s : State) (o : MXW) : List (Option Bad) := if o.fa then slotChecks s (o.a.toNat % 4) else []
def aHandChecks (s : State) (o : MXW) : List (Option Bad) := if o.fa then [] else operandCheck s (regG s o.a.toNat) 1 false
def bSlotChecks (s : State) (o : MXW) (steps : Nat) : List (Option Bad) :=
  if o.bs == 1 then (List.range steps).flatMap (fun i => slotChecks s ((o.b.toNat + i) % 4)) else []
def bHandChecks (s : State) (o : MXW) (steps : Nat) : List (Option Bad) :=
  if o.bs == 1 then [] else operandCheck s (regG s o.b.toNat) steps false

/-- Steps 5 and 6 of R276. -/
def fitChecks (c : Tile) (a : Operand) (bRows bFmt : Nat) (bScratch : Bool) : List (Option Bad) :=
  [badIf (a.rows != c.rows || bRows != c.cols) (tileBad 4),
   formatCheck a, badIf (bScratch && !operandFmt bFmt) (tileBad 5), badIf (!pairFits a.fmt bFmt c.type) (tileBad 5)]

def execMma (x : Mod) (o : MXW) (s : State) : Answer :=
  let t := mxT o
  let c := tileOf s t
  let a := aOperand s o
  let b := bOperand s o 0
  mxRun s (guardOn s x)
    ([badIf (c.type == 0) (tileBad 3)] ++ aSlotChecks s o ++ bSlotChecks s o 1
      ++ [badIf (a.sparse != 0 || b.sparse != 0) (tileBad 9)] ++ aHandChecks s o ++ bHandChecks s o 1
      ++ fitChecks c a b.rows b.fmt b.slot.isNone)
    (idleMultiply s t) (startMultiply s t o.last (cellCodes o) 1 0 a [b] b.fmt none)

def execMmas (x : Mod) (o : MXW) (s : State) : Answer :=
  let t := mxT o
  let c := tileOf s t
  let N := o.sub.toNat
  let steps := 64 / N
  let a := aOperand s o
  let bs := if o.bs == 1 then (List.range 2).map (bOperand s o) else [bOperand s o 0]
  let b := bOperand s o 0
  mxRun s (guardOn s x)
    ([badIf (c.type == 0) (tileBad 3)] ++ aSlotChecks s o ++ bSlotChecks s o 2
      ++ [badIf (a.sparse != N || bs.any (fun b => b.sparse != 0)) (tileBad 9),
          badIf (o.bs == 1 && (steps == 4 || bs.any (fun b => b.slot == a.slot))) (tileBad 6)]
      ++ bHandChecks s o steps
      ++ [badIf (bs.any (fun b => b.rows != c.cols)) (tileBad 4)] ++ fitChecks c a b.rows b.fmt b.slot.isNone
      ++ [badIf (bs.any (fun e => e.fmt != b.fmt && !pairFits a.fmt e.fmt c.type)) (tileBad 5)])
    (idleMultiply s t) (startMultiply s t o.last [0, 0, 0, 0] steps N a bs b.fmt none)

/-! ### Descriptors (R271, R273) -/

/-- Trap 0x16 with its reason and the descriptor's offset (R273). -/
def accordBad (off reason : Nat) : Bad := ⟨0x16, BitVec.ofNat 64 (reason + off % 2 ^ 32 * 2 ^ 32)⟩

/-- What the descriptor must allow: `MMAC`, `AGEN`, `APROJ`, `ASEEK`. -/
inductive AccordUse where
  | mmac | agen | aproj | aseek
  deriving DecidableEq, Repr

/-- The checks of R273 in order, the bytes read checked as loads, and those written as stores (R280, R281). -/
def descChecks (s : State) (off : Nat) (u : AccordUse) : List (Option Bad) :=
  let core := s.cur.core
  let sp := mySp s
  let d := accordOf (peeks sp off 64)
  let n := accordBytes d
  let whole := copyAt (myCore s) off
  [badIf (off % 64 != 0) (accordBad off 5), spCheck s core [(off, 64)] false 1,
   badIf (!(zeroBytes sp (off + 20) 44 && zeroBytes sp (off + 14) 2)) (accordBad off 5),
   badIf (u != .aseek && d.seed == 0) (accordBad off 1),
   badIf (!([1, 2, 4, 8, 16].contains d.J)) (accordBad off 3),
   badIf (!([1, 2, 3, 4].contains d.fmt) || d.K != 128 / elemBytes d.fmt || d.N == 0 || d.N > 128) (accordBad off 4),
   spCheck s core [(off, n)] false 1,
   (match u with
    | .mmac =>
      (match whole with
      | some c => badIf (!(c.state == .frozen && off + n ≤ c.off + c.size)) (accordBad off 2)
      | none => some (accordBad off 2))
    | .agen => none
    | .aproj => spCheck s core [(off + 64, n - 64)] true 1
    | .aseek => spCheck s core [(off, n)] true 1)]

/-- The descriptor of a word. -/
def descOff (s : State) (o : MXW) : Nat := (regG s o.b.toNat).toNat
def descOf (s : State) (o : MXW) : Accord := accordOf (peeks (mySp s) (descOff s o) 64)

def execMmac (x : Mod) (o : MXW) (s : State) : Answer :=
  let t := mxT o
  let c := tileOf s t
  let a := aOperand s o
  let d := descOf s o
  mxRun s (guardOn s x)
    ([badIf (c.type == 0) (tileBad 3)] ++ aSlotChecks s o ++ [badIf (a.sparse != 0) (tileBad 9)] ++ aHandChecks s o
      ++ descChecks s (descOff s o) .mmac ++ fitChecks c a d.N d.fmt false)
    (idleMultiply s t) (startMultiply s t o.last [0, 0, 0, 0] 1 0 a [] d.fmt (some (descOff s o, accordBytes d)))

/-! ### Moving tiles (R277, R278) -/

/-- Occupancy of `TLD` and `TST`. -/
def moveOcc (c : Tile) : Nat := max 1 (ceilDiv (tileSize c) 1024)

/-- The checks of a handle that names a whole tile (R277). -/
def wholeChecks (s : State) (c : Tile) (w : Word) (store : Bool) : List (Option Bad) :=
  let h := tileHandle w
  [badIf (c.type == 0) (tileBad 3), badIf (!tileHandleOk w) (tileBad 6), badIf (h.rows != c.rows || h.cols != c.cols) (tileBad 4),
   badIf (h.fmt != c.type) (tileBad 5), spCheck s s.cur.core [(h.off, tileSize c)] store 1]

def execTld (x : Mod) (o : MXW) (s : State) : Answer :=
  let t := mxT o
  let c := tileOf s t
  let occ := moveOcc c
  let w := regG s o.a.toNat
  let off := (tileHandle w).off
  let f := { newFlight s (occ + 4) with occ := occ, dests := [(.tile t, occ + 4)] }
  mxRun s (guardOn s x) (wholeChecks s c w false) (push s f)
    (modTile (push s { f with
        late := .tileLoad t off (tileSize c) [], holds := [{ write := false, lo := off, len := tileSize c, upto := occ + 2 }] })
      t (fun c => { c with live := true }))
def execTst (x : Mod) (o : MXW) (s : State) : Answer :=
  let t := mxT o
  let c := tileOf s t
  let occ := moveOcc c
  let w := regG s o.a.toNat
  let off := (tileHandle w).off
  let n := tileSize c
  let m := tileMemory s t
  let put := push s { newFlight s occ with
    occ := occ
    writes := (List.range occ).map (fun r => (1 + r, .sp (placed (off + 1024 * r) (peeks m (1024 * r) (min 1024 (n - 1024 * r))))))
    holds := [{ write := true, lo := off, len := n, upto := occ }] }
  mxRun s (guardOn s x) (wholeChecks s c w true) (occupy s occ)
    (noteHit (if o.discard then modTile put t (fun c => { c with live := false }) else put) true off
      ((List.range n).map (fun i => off + i)))

/-- The matrix operand, the row and the columns of `TROWV` and `TVROW`: imm [57:48] operand, [58] cluster, [60:59] h. -/
def rowOperand (s : State) (o : MXW) : MOp := matOp (me s) (bits o.imm.toNat 10 1) (o.imm.extractLsb' 0 10)
def rowPart (o : MXW) : Nat := bits o.imm.toNat 11 2

/-- The lanes whose column lies in the tile. -/
def rowMask (c : Tile) (h : Nat) : Word := spanMask 0 (min 64 (c.cols - 64 * h))

/-- The check of `TROWV` and `TVROW` on their row and columns (R278): no row or column of an unconfigured tile exists. -/
def rowCheck (c : Tile) (i h : Nat) : Option Bad := badIf (i ≥ c.rows || 64 * h ≥ c.cols) (tileBad 4)

/-- A tile element as a lane. -/
def elemLane (type v : Nat) : Unit32 := if type == 2 then (widenElem 2 v).1 else BitVec.ofNat 32 v

def execTrowv (x : Mod) (o : MXW) (s : State) : Answer :=
  let t := mxT o
  let c := tileOf s t
  let i := o.sub.toNat
  let h := rowPart o
  let e := elemBytes c.type
  let d := rowOperand s o
  let mask := rowMask c h
  mxRun s (guardOn s x) [badIf (c.type == 0) (tileBad 3), rowCheck c i h] (toLanes s false d mask 3 1 3 0 (fun _ => 0))
    (toLanes s true d mask 3 1 3 0 (fun l => elemLane c.type (tileNat s t ((i * c.cols + 64 * h + l) * e) e)))

/-- A lane as a tile element, with the flags of its rounding. -/
def laneElem (type : Nat) (v : Unit32) : Nat × Fl := if type == 2 then toNarrow bf16 1 false 0 (val32 v) else (v.toNat, Fl.none)

def execTvrow (x : Mod) (o : MXW) (s : State) : Answer :=
  let t := mxT o
  let c := tileOf s t
  let i := o.sub.toNat
  let h := rowPart o
  let e := elemBytes c.type
  let v := readOp s (rowOperand s o)
  let on := lanes.filter (laneOn (rowMask c h))
  let vs := on.map (fun l => (l, laneElem c.type (lane v l)))
  let fl := vs.foldl (fun f r => f.or r.2.2) Fl.none
  let bs := vs.flatMap (fun r => placed ((i * c.cols + 64 * h + r.1) * e) (bytesOf e r.2.1))
  let f := { newFlight s 3 with dests := [(.tile t, 3)] }
  mxRun s (guardOn s x) [rowCheck c i h] (push s f)
    (modTile (push s { f with writes := (3, .tile t bs) :: flagWrites 3 3 fl.bits }) t (fun c => { c with live := true }))

/-! ### Accord support (R279 to R281) -/

/-- The checks of an accord instruction on its handle and its descriptor. -/
def accordChecks (s : State) (o : MXW) (u : AccordUse) : List (Option Bad) :=
  let w := regG s o.a.toNat
  let h := tileHandle w
  let d := descOf s o
  operandCheck s w 1 (u == .agen) ++ descChecks s (descOff s o) u
    ++ [badIf (h.rows != d.N) (tileBad 4), badIf (h.fmt != d.fmt) (tileBad 5)]

/-- Start an accord instruction: its last age, its occupancy, and the ranges it writes with the age of their last write. -/
def startAccord (s : State) (o : MXW) (kind : AccordKind) (count occ last : Nat) (writes : List (Nat × Nat)) : State :=
  let h := tileHandle (regG s o.a.toNat)
  let d := descOf s o
  let off := descOff s o
  let rows := rowRanges h.off (tilePitch h) h.rows
  let reads := (off, accordBytes d) :: (if kind == .gen then [] else rows)
  let s := push s { newFlight s last with
    occ := occ, late := .accord kind off h.off (tilePitch h) count
    holds := reads.map (fun r => { write := false, lo := r.1, len := r.2, upto := 3 })
      ++ writes.map (fun r => { write := true, lo := r.1, len := r.2, upto := last }) }
  noteHit s true ((writes.head?).getD (0, 0)).1 (writes.flatMap (fun r => (List.range r.2).map (fun i => r.1 + i)))

/-- An accord instruction under a false guard: in flight as if true (R130). -/
def idleAccord (s : State) (occ last : Nat) : State := push s { newFlight s last with occ := occ }

/-- `AGEN`: under a false guard the descriptor is left unread, and MX is occupied for 1 cycle (R274). -/
def execAgen (x : Mod) (o : MXW) (s : State) : Answer :=
  let d := descOf s o
  let h := tileHandle (regG s o.a.toNat)
  mxRun s (guardOn s x) (accordChecks s o .agen)
    (idleAccord s 1 1)
    (startAccord s o .gen 0 (ceilDiv d.N 8) (4 + (d.N - 1) / 8) (rowRanges h.off (tilePitch h) d.N))
def execAproj (x : Mod) (o : MXW) (s : State) : Answer :=
  let d := descOf s o
  mxRun s (guardOn s x) (accordChecks s o .aproj) (idleAccord s 64 76)
    (startAccord s o .proj 0 64 76 [(descOff s o + 64, accordBytes d - 64)])
def execAseek (x : Mod) (o : MXW) (s : State) : Answer :=
  let d := descOf s o
  let count := o.imm.toNat + 1
  mxRun s (guardOn s x) (accordChecks s o .aseek) (idleAccord s (64 * count) (64 * count + 12))
    (startAccord s o .seek count (64 * count) (64 * count + 12)
      [(descOff s o, 8), (descOff s o + 16, 4), (descOff s o + 64, accordBytes d - 64)])

end Sys2Proof.Machine
end

