-- ==== Sys2Proof/Machine/Scalar.lean ====
section
/-! DEFINITION. The instructions of the S0, S1 and SM slots (R148 to R153), and the empty bundle (R89). -/
namespace Sys2Proof.Machine

/-- The values of the register fields of an SR word, and of an SI word. -/
def srA (s : State) (o : SR) : Word := regG s o.a.toNat
def srB (s : State) (o : SR) : Word := regG s o.b.toNat
def siA (s : State) (o : SI) : Word := regG s o.a.toNat
def siB (s : State) (o : SI) : Word := regG s o.b.toNat

/-- `fin` of R148: saturated under the prefix's sat, otherwise wrapped. -/
def fin64 (x : Mod) (v : Int) : Word := if satOf x then sat64 v else wrap64 v

/-- A register form with its result in g[d], due 1. -/
def alu (x : Mod) (o : SR) (s : State) (v : Word) : Host.Outcome State Fault Refusal :=
  .next (toG s (guardOn s x) o.d.toNat 1 1 v)

/-- An immediate form with its result in g[d], due 1. -/
def aluI (x : Mod) (o : SI) (s : State) (v : Word) : Host.Outcome State Fault Refusal :=
  .next (toG s (guardOn s x) o.d.toNat 1 1 v)

/-- The immediate of a form that honours ext, as a 64-bit word (R148). -/
def immWord (x : Mod) (o : SI) : Word := wrap64 (immExt x 32 o.imm.toNat)

/-- `NOP` (R89): the empty bundle has no effect. -/
def execNop (s : State) : Host.Outcome State Fault Refusal := .next s

/-! ### Register forms (R149) -/

def execAdd (x : Mod) (o : SR) (s : State) : Host.Outcome State Fault Refusal :=
  alu x o s (fin64 x ((srA s o).toInt + (srB s o).toInt))
def execSub (x : Mod) (o : SR) (s : State) : Host.Outcome State Fault Refusal :=
  alu x o s (fin64 x ((srA s o).toInt - (srB s o).toInt))
def execAnd (x : Mod) (o : SR) (s : State) : Host.Outcome State Fault Refusal := alu x o s (srA s o &&& srB s o)
def execOr (x : Mod) (o : SR) (s : State) : Host.Outcome State Fault Refusal := alu x o s (srA s o ||| srB s o)
def execXor (x : Mod) (o : SR) (s : State) : Host.Outcome State Fault Refusal := alu x o s (srA s o ^^^ srB s o)
def execAndn (x : Mod) (o : SR) (s : State) : Host.Outcome State Fault Refusal := alu x o s (srA s o &&& ~~~srB s o)
def execOrn (x : Mod) (o : SR) (s : State) : Host.Outcome State Fault Refusal := alu x o s (srA s o ||| ~~~srB s o)

/-- `SEL` (R151): its predicate selects and does not guard, so it always writes. -/
def execSel (x : Mod) (o : SR) (s : State) : Host.Outcome State Fault Refusal :=
  .next (toG s true o.d.toNat 1 1 (if guardOn s x then srA s o else srB s o))

/-- The shift count of a register form: the low six bits of b. -/
def count6 (b : Word) : Nat := b.toNat % 64

def execShl (x : Mod) (o : SR) (s : State) : Host.Outcome State Fault Refusal := alu x o s (srA s o <<< count6 (srB s o))
def execShr (x : Mod) (o : SR) (s : State) : Host.Outcome State Fault Refusal := alu x o s (srA s o >>> count6 (srB s o))
def execSar (x : Mod) (o : SR) (s : State) : Host.Outcome State Fault Refusal :=
  alu x o s ((srA s o).sshiftRight (count6 (srB s o)))
def execRol (x : Mod) (o : SR) (s : State) : Host.Outcome State Fault Refusal :=
  alu x o s ((srA s o).rotateLeft (count6 (srB s o)))
def execMin (x : Mod) (o : SR) (s : State) : Host.Outcome State Fault Refusal :=
  alu x o s (if (srA s o).sle (srB s o) then srA s o else srB s o)
def execMax (x : Mod) (o : SR) (s : State) : Host.Outcome State Fault Refusal :=
  alu x o s (if (srB s o).sle (srA s o) then srA s o else srB s o)
def execMinu (x : Mod) (o : SR) (s : State) : Host.Outcome State Fault Refusal :=
  alu x o s (if (srA s o).ule (srB s o) then srA s o else srB s o)
def execMaxu (x : Mod) (o : SR) (s : State) : Host.Outcome State Fault Refusal :=
  alu x o s (if (srB s o).ule (srA s o) then srA s o else srB s o)
def execAbsd (x : Mod) (o : SR) (s : State) : Host.Outcome State Fault Refusal :=
  alu x o s (BitVec.ofNat 64 ((srA s o).toInt - (srB s o).toInt).natAbs)

/-- Leading zeros and trailing zeros of a word, 64 for zero. -/
def clz64 (a : Word) : Nat := if a = 0 then 64 else 63 - Nat.log2 a.toNat
def ctz64 (a : Word) : Nat := ((List.range 64).find? (fun i => bit a.toNat i)).getD 64

def execClz (x : Mod) (o : SR) (s : State) : Host.Outcome State Fault Refusal := alu x o s (BitVec.ofNat 64 (clz64 (srA s o)))
def execCtz (x : Mod) (o : SR) (s : State) : Host.Outcome State Fault Refusal := alu x o s (BitVec.ofNat 64 (ctz64 (srA s o)))
def execPopc (x : Mod) (o : SR) (s : State) : Host.Outcome State Fault Refusal :=
  alu x o s (BitVec.ofNat 64 (popcount 64 (srA s o).toNat))
def execSext (x : Mod) (o : SR) (s : State) : Host.Outcome State Fault Refusal :=
  alu x o s (wrap64 (sextNat (o.b.toNat + 1) (srA s o).toNat))
def execZext (x : Mod) (o : SR) (s : State) : Host.Outcome State Fault Refusal :=
  alu x o s (BitVec.ofNat 64 ((srA s o).toNat % 2 ^ (o.b.toNat + 1)))

/-! ### Immediate forms (R150) -/

def execAddi (x : Mod) (o : SI) (s : State) : Host.Outcome State Fault Refusal :=
  aluI x o s (fin64 x ((siA s o).toInt + (siB s o).toInt + immExt x 32 o.imm.toNat))
def execMovi (x : Mod) (o : SI) (s : State) : Host.Outcome State Fault Refusal := aluI x o s (immWord x o)
def execMovh (x : Mod) (o : SI) (s : State) : Host.Outcome State Fault Refusal :=
  aluI x o s (BitVec.ofNat 64 (o.imm.toNat * 2 ^ 32 + (siA s o).toNat % 2 ^ 32))

/-- The funnel shift amount (R150): the immediate, or the low six bits of a third register. -/
def funnelAmount (s : State) (imm : BitVec 32) : Nat :=
  if bit imm.toNat 6 then (regG s (bits imm.toNat 8 6)).toNat % 64 else imm.toNat % 64

/-- The pair a:b of a funnel shift. -/
def pair64 (a b : Word) : Nat := a.toNat * 2 ^ 64 + b.toNat

def execFshl (x : Mod) (o : SI) (s : State) : Host.Outcome State Fault Refusal :=
  aluI x o s (BitVec.ofNat 64 (pair64 (siA s o) (siB s o) * 2 ^ funnelAmount s o.imm / 2 ^ 64))
def execFshr (x : Mod) (o : SI) (s : State) : Host.Outcome State Fault Refusal :=
  aluI x o s (BitVec.ofNat 64 (pair64 (siA s o) (siB s o) / 2 ^ funnelAmount s o.imm))
def execShadd (x : Mod) (o : SI) (s : State) : Host.Outcome State Fault Refusal :=
  aluI x o s (fin64 x ((siA s o).toInt * 2 ^ (o.imm.toNat % 8) + (siB s o).toInt))

/-- Position and length of a bit field (R150). -/
def fieldPos (imm : BitVec 32) : Nat := bits imm.toNat 0 6
def fieldLen (imm : BitVec 32) : Nat := bits imm.toNat 8 6 + 1

/-- The field that `BEXT` takes out. -/
def extractField (a pos len : Nat) (signed : Bool) : Word :=
  let f := a / 2 ^ pos % 2 ^ len
  if signed then wrap64 (sextNat len f) else BitVec.ofNat 64 f

/-- The word that `BINS` makes. -/
def insertField (a b pos len : Nat) : Word :=
  let m := min len (64 - pos)
  BitVec.ofNat 64 (b - (b / 2 ^ pos % 2 ^ m) * 2 ^ pos + (a % 2 ^ m) * 2 ^ pos)

def execBext (x : Mod) (o : SI) (s : State) : Host.Outcome State Fault Refusal :=
  aluI x o s (extractField (siA s o).toNat (fieldPos o.imm) (fieldLen o.imm) (bit o.imm.toNat 16))
def execBins (x : Mod) (o : SI) (s : State) : Host.Outcome State Fault Refusal :=
  aluI x o s (insertField (siA s o).toNat (siB s o).toNat (fieldPos o.imm) (fieldLen o.imm))

/-! ### Compares (R151) -/

/-- A compare with its result in p[d], due 1. -/
def cmpR (x : Mod) (o : SR) (s : State) (r : Word → Word → Bool) : Host.Outcome State Fault Refusal :=
  .next (toP s (guardOn s x) (o.d.toNat % 16) 1 (r (srA s o) (srB s o)))
def cmpI (x : Mod) (o : SI) (s : State) (r : Word → Word → Bool) : Host.Outcome State Fault Refusal :=
  .next (toP s (guardOn s x) (o.d.toNat % 16) 1 (r (siA s o) (immWord x o)))

def execCmpEq (x : Mod) (o : SR) (s : State) : Host.Outcome State Fault Refusal := cmpR x o s (fun a b => a == b)
def execCmpNe (x : Mod) (o : SR) (s : State) : Host.Outcome State Fault Refusal := cmpR x o s (fun a b => a != b)
def execCmpLt (x : Mod) (o : SR) (s : State) : Host.Outcome State Fault Refusal := cmpR x o s (fun a b => a.slt b)
def execCmpLtu (x : Mod) (o : SR) (s : State) : Host.Outcome State Fault Refusal := cmpR x o s (fun a b => a.ult b)
def execCmpLe (x : Mod) (o : SR) (s : State) : Host.Outcome State Fault Refusal := cmpR x o s (fun a b => a.sle b)
def execCmpLeu (x : Mod) (o : SR) (s : State) : Host.Outcome State Fault Refusal := cmpR x o s (fun a b => a.ule b)
def execCmpGt (x : Mod) (o : SR) (s : State) : Host.Outcome State Fault Refusal := cmpR x o s (fun a b => b.slt a)
def execCmpGtu (x : Mod) (o : SR) (s : State) : Host.Outcome State Fault Refusal := cmpR x o s (fun a b => b.ult a)
def execCmpGe (x : Mod) (o : SR) (s : State) : Host.Outcome State Fault Refusal := cmpR x o s (fun a b => b.sle a)
def execCmpGeu (x : Mod) (o : SR) (s : State) : Host.Outcome State Fault Refusal := cmpR x o s (fun a b => b.ule a)
def execCmpiEq (x : Mod) (o : SI) (s : State) : Host.Outcome State Fault Refusal := cmpI x o s (fun a b => a == b)
def execCmpiNe (x : Mod) (o : SI) (s : State) : Host.Outcome State Fault Refusal := cmpI x o s (fun a b => a != b)
def execCmpiLt (x : Mod) (o : SI) (s : State) : Host.Outcome State Fault Refusal := cmpI x o s (fun a b => a.slt b)
def execCmpiLtu (x : Mod) (o : SI) (s : State) : Host.Outcome State Fault Refusal := cmpI x o s (fun a b => a.ult b)
def execCmpiLe (x : Mod) (o : SI) (s : State) : Host.Outcome State Fault Refusal := cmpI x o s (fun a b => a.sle b)
def execCmpiLeu (x : Mod) (o : SI) (s : State) : Host.Outcome State Fault Refusal := cmpI x o s (fun a b => a.ule b)
def execCmpiGt (x : Mod) (o : SI) (s : State) : Host.Outcome State Fault Refusal := cmpI x o s (fun a b => b.slt a)
def execCmpiGtu (x : Mod) (o : SI) (s : State) : Host.Outcome State Fault Refusal := cmpI x o s (fun a b => b.ult a)
def execCmpiGe (x : Mod) (o : SI) (s : State) : Host.Outcome State Fault Refusal := cmpI x o s (fun a b => b.sle a)
def execCmpiGeu (x : Mod) (o : SI) (s : State) : Host.Outcome State Fault Refusal := cmpI x o s (fun a b => b.ule a)

/-! ### Multiply and divide (R152) -/

/-- A multiply, due 3, and a divide, due 14 with SM occupied 4 cycles. -/
def mulOut (x : Mod) (o : SR) (s : State) (v : Word) : Host.Outcome State Fault Refusal :=
  .next (toG s (guardOn s x) o.d.toNat 3 1 v)
def divOut (x : Mod) (o : SR) (s : State) (v : Word) : Host.Outcome State Fault Refusal :=
  .next (toG s (guardOn s x) o.d.toNat 14 4 v)

def execMul (x : Mod) (o : SR) (s : State) : Host.Outcome State Fault Refusal :=
  mulOut x o s (wrap64 ((srA s o).toInt * (srB s o).toInt))
def execMulh (x : Mod) (o : SR) (s : State) : Host.Outcome State Fault Refusal :=
  mulOut x o s (wrap64 (((srA s o).toInt * (srB s o).toInt).fdiv (2 ^ 64)))
def execMulhu (x : Mod) (o : SR) (s : State) : Host.Outcome State Fault Refusal :=
  mulOut x o s (BitVec.ofNat 64 ((srA s o).toNat * (srB s o).toNat / 2 ^ 64))
def execDiv (x : Mod) (o : SR) (s : State) : Host.Outcome State Fault Refusal :=
  divOut x o s (if srB s o = 0 then BitVec.allOnes 64 else wrap64 ((srA s o).toInt.tdiv (srB s o).toInt))
def execDivu (x : Mod) (o : SR) (s : State) : Host.Outcome State Fault Refusal :=
  divOut x o s (if srB s o = 0 then BitVec.allOnes 64 else BitVec.ofNat 64 ((srA s o).toNat / (srB s o).toNat))
def execRem (x : Mod) (o : SR) (s : State) : Host.Outcome State Fault Refusal :=
  divOut x o s (if srB s o = 0 then srA s o
    else wrap64 ((srA s o).toInt - (srB s o).toInt * (srA s o).toInt.tdiv (srB s o).toInt))
def execRemu (x : Mod) (o : SR) (s : State) : Host.Outcome State Fault Refusal :=
  divOut x o s (if srB s o = 0 then srA s o else BitVec.ofNat 64 ((srA s o).toNat % (srB s o).toNat))

end Sys2Proof.Machine
end

