-- ==== Sys2Proof/Machine/Engine.lean ====
section
/-! DEFINITION. The instructions of the EN and LK slots (R287 to R317). -/
namespace Sys2Proof.Machine

/-! ### Copy commands: checks at issue -/

/-- Trap 0x1D with its tag and reason (R300). -/
def cmdBad (tag reason : Nat) : Bad := ⟨0x1D, BitVec.ofNat 64 (tag % 64 + 256 * reason)⟩

/-- The command of a tag is in flight (R298). -/
def tagBusy (s : State) (tag : Nat) : Bool := (myCore s).cmds.any (fun c => c.tag == tag)

/-- The partition of the acting context. -/
def myPart (s : State) : Nat := (me s).part

/-- A core of this device belongs to the issuing partition. -/
def ownCore (s : State) (core : Nat) : Bool := (coresOf s (myPart s)).contains core

/-- Fields of a sync word (R290). -/
def syncRemote (w : Word) : Bool := bit w.toNat 63
def syncCore (w : Word) : Nat := bits w.toNat 56 7
def syncInc (w : Word) : Nat := bits w.toNat 48 8

/-- The checks of a sync word whose signal flag is set (R290); `peer` says that the far range lies on a peer device. -/
def syncBad (s : State) (tag : Nat) (signal peer : Bool) (w : Word) : Option Bad :=
  badIf (signal && (syncInc w == 0 || syncCore w > 95 || (!syncRemote w && syncCore w != 0)
      || (syncRemote w && !peer && !ownCore s (syncCore w)))) (cmdBad tag 0x0B)

/-- The wait and the signal of a sync word. -/
def syncWait (w : Word) (on : Bool) : Option (Nat × Nat) := if on then some (bits w.toNat 32 8, bits w.toNat 0 32) else none
def syncSignal (s : State) (w : Word) (on peer : Bool) : Option (Bool × Nat × Nat × Nat) :=
  if on then some (syncRemote w && peer, if syncRemote w then syncCore w else s.cur.core, bits w.toNat 40 8, syncInc w) else none

/-- The checks of R199 on a copy's page: a page with S set needs `.seal` (R293). -/
def pageChecks (h : Word128) (hn off len perm : Nat) (sealed : Bool) : List (Option Bad) :=
  [checkState h hn off,
   badIf (off + len > pageBytes (hSize h)) ⟨0x09, accessTval h off 0⟩,
   badIf (hSealed h && !sealed) ⟨0x0C, accessTval h off 5⟩,
   badIf (!bit (hPerms h) perm) ⟨0x0C, accessTval h off (if hPerms h == 0 then 6 else 4)⟩]

/-- Fields of a far address word (R294). -/
def farPeer (w : Word) : Bool := bit w.toNat 48
def farCore (w : Word) : Nat := bits w.toNat 32 7
def farOff (w : Word) : Nat := bits w.toNat 0 32

/-- The checks of a far address word: its reserved fields, and on this device the core and, for a range of `len`, the program area. -/
def farChecks (s : State) (tag : Nat) (w : Word) (len : Option Nat) : List (Option Bad) :=
  [badIf (bits w.toNat 49 15 != 0 || (!farPeer w && bits w.toNat 39 9 != 0)) (cmdBad tag 0x0C),
   badIf (!farPeer w && !ownCore s (farCore w)) (cmdBad tag 4),
   (match len with
    | some n => badIf (!farPeer w && farOff w + n > programEnd s (farCore w)) (cmdBad tag 5)
    | none => none)]

/-- A command with nothing decided yet. -/
def newCmd (s : State) (o : ENW) (kind : CmdKind) (reads writes : List Range) (peer : Bool) : Cmd :=
  let w := regG s o.c.toNat
  let x := me s
  { id := s.nextId, bank := s.cur.bank, tag := o.tag.toNat, kind := kind, acq := o.acq, rel := o.rel, scope := o.scope.toNat,
    wait := syncWait w o.wait, signal := syncSignal s w o.signal peer, reads := reads, writes := writes, started := false,
    status := 0, failAt := 0, seen := x.seen, near := [], alt := [], moved := 0, total := 0, part := x.part, pasid := x.pasid, kernel := x.kernel
    born := (myCore s).wcyc.toNat }

/-- A command is accepted (R287, R298): its tag's bit is cleared, its status zeroed. -/
def accept (s : State) (c : Cmd) : State :=
  let s := { s with nextId := s.nextId + 1 }
  modMyCore (occupy s 1) (fun k =>
    { k with cmds := k.cmds ++ [c], ctb := k.ctb &&& ~~~((1 : Word) <<< c.tag), tgst := tset k.tgst c.tag 0 })

/-- A copy instruction: nothing under a false guard, otherwise its checks in order and its acceptance. -/
def cmdRun (s : State) (on : Bool) (checks : List (Option Bad)) (h : Nat) (c : Cmd) : Answer :=
  if !on then .next (occupy s 1)
  else match firstSome checks with
    | some b => .next (trapBad s b h)
    | none => .next (accept s c)

/-- A range of the scratchpad of the acting core, of a far core, and of global memory. -/
def nearRange (s : State) (lo len : Nat) : Range := { space := 0, core := s.cur.core, lo := lo, len := len }
def farRange (core lo len : Nat) : Range := { space := 1, core := core, lo := lo, len := len }
/-- The number of a far core for the scoreboard: cores of a peer device stand apart from those of this one and of the other peers. -/
def farName (w : Word) : Nat := farCore w + if farPeer w then 128 * (bits w.toNat 39 9 + 1) else 0
def globRange (lo len : Nat) : Range := { space := 2, core := 0, lo := lo, len := len }

/-- Offset and length of a near register (R293, R297). -/
def nearOff (w : Word) : Nat := bits w.toNat 0 32
def nearLen (w : Word) : Nat := bits w.toNat 32 32

/-- The most bytes that a packed stream of `n` bytes takes (R215). -/
def packedMost (n : Nat) (sealed : Bool) : Nat := n / 256 * (256 + if sealed then 24 else 8)

/-- The checks that packing and sealing add (R292, R215, R300). -/
def packChecks (s : State) (o : ENW) (len : Nat) (allowed : Bool) : List (Option Bad) :=
  let tag := o.tag.toNat
  let any := o.cmp || o.sealed
  [badIf (any && !allowed) (cmdBad tag 3), badIf (any && len % 256 != 0) (cmdBad tag 2),
   badIf (o.sealed && !(tgetD (partAt s (myPart s)).keys (bits o.sub.toNat 3 3) KeySlot.reset).usable) (cmdBad tag 6)]

/-- The handle register of an EN word. -/
def enH (o : ENW) : Nat := o.d.toNat % 32

def execCpy (x : Mod) (o : ENW) (s : State) : Answer :=
  let dir := bits o.sub.toNat 0 2
  let tag := o.tag.toNat
  let far := regG s o.a.toNat
  let near := regG s o.b.toNat
  let sync := regG s o.c.toNat
  let h := regH s (enH o)
  let off := nearOff near
  let n := nearLen near
  let packed := o.cmp || o.sealed
  let peer := dir == 2 && farPeer far
  let base := hBase h
  let kind := CmdKind.cpy dir off n base (pageBytes (hSize h)) (if dir == 2 then farOff far else far.toNat) (farCore far)
    (if peer then bits far.toNat 39 9 else 512) o.cmp o.sealed (bits o.sub.toNat 3 3)
  let glen := if packed then min (packedMost n o.sealed) (pageBytes (hSize h) - far.toNat) else n
  let pre := packChecks s o n (dir != 2) ++ [badIf (tagBusy s tag) (cmdBad tag 1), syncBad s tag o.signal peer sync]
  match dir with
  | 0 =>
    cmdRun s (guardOn s x)
      (pre ++ pageChecks h (enH o) far.toNat (if packed then min n 1 else n) 0 o.sealed ++ [spCheck s s.cur.core [(off, n)] true 1])
      (enH o) (newCmd s o kind [globRange (base + far.toNat) glen] [nearRange s off n] false)
  | 1 =>
    cmdRun s (guardOn s x)
      (pre ++ pageChecks h (enH o) far.toNat n 1 o.sealed ++ [spCheck s s.cur.core [(off, n)] false 1])
      (enH o) (newCmd s o kind [nearRange s off n] [globRange (base + far.toNat) glen] false)
  | _ =>
    cmdRun s (guardOn s x) (pre ++ farChecks s tag far (some n) ++ [spCheck s s.cur.core [(off, n)] false 1]) 0
      (newCmd s o kind [nearRange s off n] [farRange (farName far) (farOff far) n] peer)

/-- A copy that names a code page traps as it issues, whatever its addresses will be (R10, R199). -/
def namesCode (h : Word128) (off : Nat) : Option Bad := badIf (!hSealed h && hPerms h == 0) ⟨0x0C, accessTval h off 6⟩

def execCpyt (x : Mod) (o : ENW) (s : State) : Answer :=
  let dir := bits o.sub.toNat 0 2
  let tag := o.tag.toNat
  let far := regG s o.a.toNat
  let near := regG s o.b.toNat
  let h := regH s (enH o)
  let peer := dir == 2 && farPeer far
  let size := pageBytes (hSize h)
  let barred := dir != 2 && (hSealed h || !bit (hPerms h) (if dir == 0 then 0 else 1))
  let kind := CmdKind.cpyt dir (bits near.toNat 0 32) (bits near.toNat 32 32) (hBase h) size (if dir == 2 then farOff far else far)
    (farCore far) (if peer then bits far.toNat 39 9 else 512) o.nofill barred
  let window := nearRange s 0 (windowOf s s.cur.core)
  let page := globRange (hBase h) size
  let reads := if dir == 0 then [page, window] else [window]
  let writes := match dir with
    | 0 => [window]
    | 1 => [page]
    | _ => [farRange (farName far) 0 (if peer then 2 ^ 32 else windowOf s (farCore far))]
  cmdRun s (guardOn s x)
    ([badIf (o.cmp || o.sealed) (cmdBad tag 3), badIf (tagBusy s tag) (cmdBad tag 1), syncBad s tag o.signal peer (regG s o.c.toNat)]
      ++ (if dir == 2 then farChecks s tag far none else [checkState h (enH o) 0, namesCode h far.toNat]))
    (enH o) (newCmd s o kind reads writes peer)

def execCfill (x : Mod) (o : ENW) (s : State) : Answer :=
  let tag := o.tag.toNat
  let global := bit o.sub.toNat 0
  let near := regG s o.b.toNat
  let off := nearOff near
  let n := nearLen near
  let h := regH s (enH o)
  let at_ := if global then hBase h + off else off
  let pre := [badIf (o.cmp || o.sealed) (cmdBad tag 3), badIf (tagBusy s tag) (cmdBad tag 1),
    syncBad s tag o.signal false (regG s o.c.toNat)]
  cmdRun s (guardOn s x)
    (pre ++ (if global then pageChecks h (enH o) off n 1 false else [spCheck s s.cur.core [(off, n)] true 1]))
    (enH o) (newCmd s o (.cfill global at_ n (regG s o.a.toNat)) [] [if global then globRange at_ n else nearRange s at_ n] false)

/-! ### Tags (R302) -/

/-- The mask of a tag instruction, and the bits of it that are set. -/
def tagMask (s : State) (o : ENW) : Word := regG s o.a.toNat
def tagSet (s : State) (o : ENW) : Word := (myCore s).ctb &&& tagMask s o

/-- A blocking instruction whose condition is `c` (R288). -/
def blockUnless (s : State) (c : Bool) (act : State) : State := if c then act else block s

def execCtwany (x : Mod) (o : ENW) (s : State) : Answer :=
  .next (if !guardOn s x then occupy s 1
    else if tagMask s o = 0 then trapBad s (cmdBad 0 0x0A) 0
    else blockUnless s (tagSet s o != 0) (occupy s 1))
def execCtwall (x : Mod) (o : ENW) (s : State) : Answer :=
  .next (if !guardOn s x then occupy s 1 else blockUnless s (tagSet s o == tagMask s o) (occupy s 1))

/-- A logged result to g[d] (R317, R381). -/
def resultTo (s : State) (on : Bool) (d due code : Nat) (live : Word) : State :=
  if !on then toG s false d due 1 0
  else gated s (resultGate s s.cur.core s.cur.bank code live) (fun s v => toG s true d due 1 v)

def execCtffr (x : Mod) (o : ENW) (s : State) : Answer :=
  .next (resultTo s (guardOn s x) o.d.toNat 2 0 (BitVec.ofNat 64 (ctz64 (tagSet s o))))
def execCtclr (x : Mod) (o : ENW) (s : State) : Answer := .next (landNext s (guardOn s x) (.ctbClear (tagMask s o)))

/-! ### Semaphores (R303, R304, R327) -/

/-- The semaphore index of a word. -/
def semIndex (o : ENW) : Nat := o.sub.toNat % 256

/-- The low 32 bits of g[a]. -/
def semOperand (s : State) (o : ENW) : Nat := (regG s o.a.toNat).toNat % 2 ^ 32

/-- A store of the LS slot, and an MX instruction that writes scratchpad (R268, R277). -/
def isStore (f : Flight) : Bool := f.slot == 7 && f.dests.isEmpty
def isTileStore (f : Flight) : Bool := f.holds.any (fun h => h.write)

/-- Cycles until every scratchpad store of the context has landed, that of the running bundle's LS slot included, and at least one (R327). -/
def storesLand (s : State) : Nat :=
  ((me s).flights.filter (fun f => isStore f || (isTileStore f && 0 < f.age))).foldl (fun m f => max m (f.last - f.age)) 1

/-- A release of the acting strand at a scope: its atomics are performed or held, then its global writes are published (R210, R319). -/
def release (s : State) (scope : Nat) : State :=
  let s := settleAtomics s s.cur.core s.cur.bank
  publish s s.cur.core s.cur.bank scope (myPlace s)

/-- An acquire of the acting strand at a scope. -/
def acquire (s : State) (scope : Nat) : State :=
  let s := settleAtomics s s.cur.core s.cur.bank
  refresh s s.cur.core s.cur.bank scope (myPlace s)

/-- What a semaphore of a core will hold when what its contexts have on its way to it has landed, in issue order (R303, R304). -/
def semAhead (c : Core) (n : Nat) : Nat :=
  let fs := (c.b0.flights ++ c.b1.flights ++ c.sec.flights).foldl (fun l f => insertById f l) []
  (fs.flatMap (fun f => f.writes.filter (fun w => f.age < w.1))).foldl (fun a w => match w.2 with
    | .semSet m v => if m == n then v else a
    | .semAdd m v => if m == n then a + v else a
    | _ => a) (tgetD c.sems n 0).toNat

/-- `SEMSIG` to this core: the addition lands when its context's stores have (R327). -/
def signalHere (s : State) (n v : Nat) : State :=
  let due := storesLand s
  push s { newFlight s due with writes := [(due, .semAdd n v)] }

/-- `SEMSIG` to another core of the partition: the signal sets out. -/
def signalAway (s : State) (core n v : Nat) : State :=
  let g : Signal := { id := s.nextId, core := s.cur.core, bank := s.cur.bank, target := core, sem := n, inc := v }
  occupy { s with signals := s.signals ++ [g], nextId := s.nextId + 1 } 1

/-- `SEMSIG` (R303, R304): a remote one that names its own core is added there as a local one is. -/
def execSemsig (x : Mod) (o : ENW) (s : State) : Answer :=
  let n := semIndex o
  let v := semOperand s o
  let remote := bit o.sub.toNat 8
  let core := (regG s o.b.toNat).toNat % 128
  let away := remote && core != s.cur.core
  .next (if !guardOn s x then occupy s 1
    else if remote && !ownCore s core then trapBad s (cmdBad 0 0x0B) 0
    else if !away && semAhead (myCore s) n + v ≥ 2 ^ 32 then trap s 0x1C (overflowTval n s.cur.core)
    else
      let go := fun (s : State) => if away then signalAway s core n v else signalHere s n v
      if o.rel then atBoundary s o.scope.toNat (fun s => go (release s o.scope.toNat)) else go s)

def execSemwait (x : Mod) (o : ENW) (s : State) : Answer :=
  .next (if !guardOn s x then occupy s 1
    else if (tgetD (myCore s).sems (semIndex o) 0).toNat < semOperand s o then block s
    else if o.acq then atBoundary s o.scope.toNat (fun s => occupy (acquire s o.scope.toNat) 1)
    else occupy s 1)
def execSemrd (x : Mod) (o : ENW) (s : State) : Answer :=
  .next (resultTo s (guardOn s x) o.d.toNat 2 2 ((tgetD (myCore s).sems (semIndex o) 0).setWidth 64))
def execSemset (x : Mod) (o : ENW) (s : State) : Answer :=
  .next (landNext s (guardOn s x) (.semSet (semIndex o) (semOperand s o)))

/-! ### Segments (R306 to R310, R402) -/

/-- The segment name in g[a]. -/
def segName (s : State) (o : ENW) : Nat := (regG s o.a.toNat).toNat

/-- Trap 0x11 with its reason (R310). -/
def segBad (s : State) (reason : Nat) : State := trap s 0x11 (BitVec.ofNat 64 reason)

/-- A segment handle (R306). -/
def segHandle (d : DirEntry) (write : Bool) : Word :=
  BitVec.ofNat 64 (pack [(32, d.off), (12, d.size / 4096), (1, bitOf write), (3, 0), (16, d.version)])

/-- The acting strand takes an attachment of a copy. -/
def attachTo (s : State) (d : DirEntry) (write : Bool) : State :=
  let s := modDir s s.cur.core d.owner d.name (fun d =>
    { d with attach := d.attach + 1, writers := if write then d.writers + 1 else d.writers })
  modMe s (fun x => { x with atts := x.atts ++ [{ name := d.name, owner := d.owner, write := write }] })

/-- The directory entry of this core that a name means to the acting strand. -/
def myDir (s : State) (name : Nat) : Option DirEntry := dirOf s s.cur.core (myPart s) name

def execSatt (x : Mod) (o : ENW) (s : State) : Answer :=
  let name := segName s o
  let write := bit o.sub.toNat 0
  .next (if !guardOn s x then toG s false o.d.toNat 4 1 0
    else match myDir s name with
      | none => trapLeaf s 0x10 (BitVec.ofNat 64 name) (some (.attach name write))
      | some d =>
        if !copyHit d then trapLeaf s 0x10 (BitVec.ofNat 64 name) (some (.attach name write))
        else if write && d.state == .frozen then segBad s 9
        else attachTo (toG s true o.d.toNat 4 1 (segHandle d write)) d write)

/-- The copy that an attachment of a strand of a core holds. -/
def attDir (s : State) (core : Nat) (a : Attach) : Option DirEntry :=
  (coreAt s core).dir.find? (fun d => d.owner == a.owner && d.name == a.name)

/-- An attachment of the acting strand by name: of the segment that the name means now, otherwise of the one that it meant (log entry 55). -/
def myAtt (s : State) (name : Nat) : Option Attach :=
  match (segOf s (myPart s) name).bind (fun g => (me s).atts.find? (fun a => a.name == name && a.owner == g.owner)) with
  | some a => some a
  | none => (me s).atts.find? (fun a => a.name == name)

/-- An attachment of the acting strand by name, with its copy. -/
def myCopy (s : State) (name : Nat) : Option (Attach × DirEntry) :=
  (myAtt s name).bind (fun a => (attDir s s.cur.core a).map (fun d => (a, d)))

/-- Remove the first attachment that equals `a`. -/
def dropAtt (a : Attach) : List Attach → List Attach
  | [] => []
  | b :: r => if b == a then r else b :: dropAtt a r

/-- Two ranges of one space have a byte in common (R305). -/
def rangesMeet (a b : Range) : Bool :=
  a.space == b.space && a.core == b.core && 0 < a.len && 0 < b.len && a.lo < b.lo + b.len && b.lo < a.lo + a.len

/-- A copy command, and not a link transfer (R287). -/
def isCopy (k : CmdKind) : Bool :=
  match k with
  | .cpy .. | .cpyt .. | .cfill .. => true
  | .lsend .. | .lrecv .. => false

/-- An earlier copy command of the context writes into a copy (R306). -/
def copyPending (s : State) (d : DirEntry) : Bool :=
  (myCore s).cmds.any (fun c => c.bank == s.cur.bank && isCopy c.kind && c.writes.any (rangesMeet (nearRange s d.off d.size)))

def execSdet (x : Mod) (o : ENW) (s : State) : Answer :=
  let name := segName s o
  .next (if !guardOn s x then occupy s 1
    else match myCopy s name with
      | some (a, d) =>
        if copyPending s d then block s
        else modMe (releaseAttach (occupy s 1) s.cur.core a) (fun x => { x with atts := dropAtt a x.atts })
      | none => segBad s 5)

/-- Reason 0x0B of `SCREATE` (R310). -/
def createBad (s : State) (name size image : Nat) : Bool :=
  name == 0 || size == 0 || size % 4096 != 0 || size > 2 ^ 22 || image % 4096 != 0 || (imagePages s (me s).pasid image size).isNone

/-- The scheduler's judgement of a creation (R402): reasons 0x0A, 0x04, or none. The leaf's follows. -/
def judgeCreate (s : State) (part name : Nat) : Option Nat :=
  if (segOwned s part name).isSome then some 0x0A
  else if s.segs.length ≥ 65536 then some 0x04
  else none

/-- A segment as `SCREATE` makes it, its copy placed at `off` of the acting core, zero-filled or loaded from its image. -/
def createAt (s : State) (name size image cls off : Nat) (load : Bool) : State :=
  let x := me s
  let g : Segment :=
    { name := name, owner := x.part, cls := cls, size := size, image := BitVec.ofNat 64 image,
      pages := (imagePages s x.pasid image size).getD [], frozen := false, version := 0, cores := [], kernel := x.kernel, lost := false }
  let s := { s with segs := s.segs ++ [g] }
  let s := placeCopy s s.cur.core g off .clean []
  if load then loadImage s s.cur.core g off
  else modMyCore s (fun c => { c with sp := pokes c.sp off (List.replicate size 0) })

/-- The bundle of a request waits for its answer, or has it (R288, R402). -/
def asked (s : State) (r : Request) (go : State → State) : State :=
  match (me s).ask with
  | .answered q reason =>
    if q != r then block (modMe s (fun x => { x with ask := .waiting r }))
    else if reason != 0 then segBad s reason
    else go (modMe s (fun x => { x with ask := .none }))
  | .waiting _ => block s
  | .none => block (modMe s (fun x => { x with ask := .waiting r }))

/-- A request made again, because what the answer rested on has changed. -/
def askAgain (s : State) (r : Request) : State := block (modMe s (fun x => { x with ask := .waiting r }))

def execScreate (x : Mod) (o : ENW) (s : State) : Answer :=
  let name := segName s o
  let size := (regG s o.b.toNat).toNat
  let image := (regG s o.c.toNat).toNat
  let r := Request.create name size
  .next (if !guardOn s x then toG s false o.d.toNat 4 1 0
    else if createBad s name size image then segBad s 0x0B
    else asked s r (fun s =>
      match judgeCreate s (myPart s) name, spaceFor s s.cur.core size with
      | some _, _ | none, none => askAgain s r
      | none, some off =>
        let s := createAt s name size image (bits o.sub.toNat 0 2) off (bit o.sub.toNat 2)
        match myDir s name with
        | none => s
        | some d => attachTo (toG s true o.d.toNat 4 1 (segHandle d true)) d true))

/-- The strand's own write attachment is the only one (R308). -/
def freezeOk (s : State) (name : Nat) : Bool :=
  match myCopy s name with
  | none => false
  | some (a, d) => a.write && d.attach == 1

/-- The copy is written back and frozen, the version incremented, the attachment read only (R59, R308). -/
def freezeNow (s : State) (d : DirEntry) : State :=
  let s := writeBack s s.cur.core d.owner d.name
  let s := modSeg s d.owner d.name (fun g => { g with frozen := true, version := g.version + 1 })
  let s := modDir s s.cur.core d.owner d.name (fun d => { d with state := .frozen, writers := 0, version := d.version + 1 })
  modMe s (fun x => { x with atts := x.atts.map (fun a => if a.name == d.name && a.owner == d.owner then { a with write := false } else a) })

def execSfreeze (x : Mod) (o : ENW) (s : State) : Answer :=
  let name := segName s o
  .next (if !guardOn s x then occupy s 1
    else if !freezeOk s name then segBad s 6
    else asked s (.freeze name) (fun s => match myCopy s name with
      | none => s
      | some (_, d) => freezeNow (occupy s 1) d))

/-- The scheduler's judgement of `SDROP` (R402): reasons 0x01, 0x08, 0x07, or the segment. -/
def judgeDrop (s : State) (part name : Nat) : Except Nat Segment :=
  match segOf s part name with
  | none => .error 1
  | some g =>
    if g.cls == 0 then .error 8
    else if s.cores.any (fun e => e.2.dir.any (fun d => d.owner == g.owner && d.name == name && d.attach != 0)) then .error 7
    else .ok g

def execSdrop (x : Mod) (o : ENW) (s : State) : Answer :=
  let name := segName s o
  .next (if !guardOn s x then occupy s 1
    else asked s (.drop name) (fun s => match judgeDrop s (myPart s) name with
      | .error _ => askAgain s (.drop name)
      | .ok g => removeSegment (occupy s 1) g))

/-- The code of a copy's state in `SQUERY` (R309). -/
def stateCode (st : CopyState) : Nat :=
  match st with
  | .loading => 1
  | .clean => 2
  | .dirty => 3
  | .frozen => 4
  | .evicting => 5

/-- The result of `SQUERY` (R309). -/
def queryWord (s : State) (name : Nat) : Word :=
  match myDir s name with
  | none => 0x30
  | some d =>
    let cls := ((segOwned s d.owner name).map (fun g => g.cls)).getD 3
    BitVec.ofNat 64 (pack [(3, stateCode d.state), (1, 0), (2, cls), (2, 0), (8, d.attach), (48, d.version)])

def execSquery (x : Mod) (o : ENW) (s : State) : Answer :=
  .next (resultTo s (guardOn s x) o.d.toNat 4 3 (queryWord s (segName s o)))

/-! ### Phase and fence (R311, R312) -/

/-- Every global write of the acting strand has reached its home slice: none has a bridge in training to cross (R311, R395). -/
def writesReached (s : State) : Bool :=
  !inTraining s 52 || (me s).own.all (fun o => o.bytes.all (fun b => stackOf b.1 / 6 == dieOf s.cur.core || !bit s.conf.hbmStacks (stackOf b.1)))

def execPhase (x : Mod) (o : ENW) (s : State) : Answer :=
  let sc := o.scope.toNat
  .next (if !guardOn s x then occupy s 1
    else if !writesReached s then block s
    else atBoundary s sc (fun s =>
      let s := refresh (release s sc) s.cur.core s.cur.bank sc (myPlace s)
      occupy (if sc ≥ 2 then applyWindows s s.cur.core s.cur.bank else s) 1))

/-- Every earlier EN and LK command of a context has completed, and its remote signals have been applied or refused (R312). -/
def fenced (s : State) (core bank : Nat) : Bool :=
  (coreAt s core).cmds.all (fun c => c.bank != bank) && s.signals.all (fun g => !(g.core == core && g.bank == bank))

def execEfence (x : Mod) (_ : ENW) (s : State) : Answer :=
  .next (if !guardOn s x then occupy s 1 else blockUnless s (fenced s s.cur.core s.cur.bank) (occupy s 1))

/-! ### Scheduled link transfers (R313 to R317) -/

/-- Channel and tag of an LK word (R313). -/
def lkChannel (o : LKW) : Nat := bits o.sub.toNat 6 8
def lkTag (o : LKW) : Nat := bits o.sub.toNat 0 6

/-- A port. -/
def portAt (s : State) (n : Nat) : Port := tgetD s.ports n Port.reset

/-- The last cycle of the window of a transfer of `len` bytes at T (R315, R316). -/
def windowEnd (t len : Nat) : Nat := t + 64 * (len / 256 - 1) / 75

/-- Two windows overlap. -/
def windowsMeet (a b c d : Nat) : Bool := a ≤ d && c ≤ b

/-- The checks of a link transfer (R300, R314). -/
def linkChecks (s : State) (o : LKW) (buf len t : Nat) (store : Bool) : List (Option Bad) :=
  let tag := lkTag o
  [badIf (tagBusy s tag) (cmdBad tag 1),
   badIf (len < 256 || len > 65536 || len % 256 != 0 || buf % 256 != 0) (cmdBad tag 7),
   badIf (t < s.gclk + 64) (cmdBad tag 8),
   badIf ((portAt s o.port.toNat).delay = BitVec.allOnes 64) (cmdBad tag 9),
   spCheck s s.cur.core [(buf, len)] store 1]

/-- A link transfer as a command. -/
def linkCmd (s : State) (o : LKW) (kind : CmdKind) (reads writes : List Range) (status : Nat) : Cmd :=
  let x := me s
  { id := s.nextId, bank := s.cur.bank, tag := lkTag o, kind := kind, acq := false, rel := false, scope := 0, wait := none,
    signal := none, reads := reads, writes := writes, started := false, status := status, failAt := 0, seen := x.seen, near := [], alt := [],
    moved := 0, total := 0, part := x.part, pasid := x.pasid, kernel := x.kernel, born := (myCore s).wcyc.toNat }

/-- A port with a send accepted or a receive armed. -/
def addSend (s : State) (n a b : Nat) : State :=
  let p := portAt s n
  { s with ports := tset s.ports n { p with sends := p.sends ++ [(a, b)] } }
def addRecv (s : State) (n ch a b : Nat) : State :=
  let p := portAt s n
  { s with ports := tset s.ports n { p with recvs := p.recvs ++ [(ch, a, b)] } }

def execLsend (x : Mod) (o : LKW) (s : State) : Answer :=
  let buf := (regG s o.a.toNat).toNat
  let len := (regG s o.b.toNat).toNat
  let t := (regG s o.c.toNat).toNat
  let n := o.port.toNat
  let busy := (portAt s n).sends.any (fun w => windowsMeet t (windowEnd t len) w.1 w.2)
  let c := linkCmd s o (.lsend n (lkChannel o) buf len t) [nearRange s buf len] [] (if busy then 0x0A else 0)
  if !guardOn s x then .next (occupy s 1)
  else match firstSome (linkChecks s o buf len t false) with
    | some b => .next (trapBad s b 0)
    | none => .next (if busy then accept s c else addSend (accept s c) n t (windowEnd t len))
def execLrecv (x : Mod) (o : LKW) (s : State) : Answer :=
  let buf := (regG s o.a.toNat).toNat
  let len := (regG s o.b.toNat).toNat
  let t := (regG s o.c.toNat).toNat
  let n := o.port.toNat
  let busy := (portAt s n).recvs.any (fun w => windowsMeet t (windowEnd t len) w.2.1 w.2.2)
  let c := linkCmd s o (.lrecv n (lkChannel o) buf len t) [] [nearRange s buf len] (if busy then 0x0A else 0)
  if !guardOn s x then .next (occupy s 1)
  else match firstSome (linkChecks s o buf len t true) with
    | some b => .next (trapBad s b 0)
    | none => .next (if busy then accept s c else addRecv (accept s c) n (lkChannel o) t (windowEnd t len))
def execLwait (x : Mod) (o : LKW) (s : State) : Answer :=
  .next (if !guardOn s x then occupy s 1 else blockUnless s ((regG s o.a.toNat).toNat ≤ s.gclk) (occupy s 1))
def execLclk (x : Mod) (o : LKW) (s : State) : Answer :=
  .next (resultTo s (guardOn s x) o.d.toNat 1 1 (BitVec.ofNat 64 s.gclk))

end Sys2Proof.Machine
end

