-- ==== Sys2Proof/Machine/Mailbox.lean ====
section
/-! DEFINITION. The mailbox engine (R26 to R28, R38) and the flip and mapping requests (R197, R204): the order of a source's requests, their
checks, what each does, its reply, and the arrival log (R379 to R381). -/
namespace Sys2Proof.Machine

/-! ### The arrival log -/

/-- An arrival record (R379): class 0 mailbox request, 1 peer copy, 2 peer signal; source endpoint; sequence number or tag. -/
def arrivalWord (cls source low : Nat) : Word := BitVec.ofNat 64 (pack [(32, low), (15, 0), (9, source), (4, cls), (4, 6)])

/-- The core and context that a partition's arrivals trap at (R380): the active primary context of its lowest-indexed core. -/
def arrivalCtx (s : State) (part : Nat) : Nat × Nat :=
  let core := (coresOf s part).headD 0
  (core, (coreAt s core).active)

/-- What the arrival log of a partition says of an arrival: nothing, room, no room, its turn, not its turn, or that replay has diverged (R382). -/
inductive Turn where
  | free | room | full | mine | wait | diverged
  deriving DecidableEq, Repr

/-- The turn of an arrival at a partition. -/
def turnAt (s : State) (part : Nat) (w : Word) : Turn :=
  let p := partAt s part
  if p.kernel.isNone || !logConfigured p.log5 then .free
  else if bit p.rmode.toNat 2 then (match wordOfLog s p.log5 0 with
    | none => .diverged
    | some v => if v == w then .mine else if bits v.toNat 60 4 == 6 || bits v.toNat 60 4 == 7 then .wait else .diverged)
  else if bit p.rmode.toNat 1 then (if recordFits p.log5 1 then .room else .full)
  else .free

/-- A record of log 5 of a partition is written, or stepped past. -/
def passArrival (s : State) (part : Nat) (w : Word) : State :=
  let put := fun (r : State × LogRegs) => modPart r.1 part (fun p => { p with log5 := r.2 })
  match turnAt s part w with
  | .room => put (appendLog s (partAt s part).log5 [w])
  | .mine => put (stepLog s (partAt s part).log5 8)
  | _ => s

/-- The cause that an arrival raises at its context's next bundle when the log has no room for it, or replay has diverged (R380, R382); none while it
is owed already, or the leaf is at work on the log. -/
def owedCause (s : State) (part : Nat) (w : Word) : Option Report :=
  let at_ := arrivalCtx s part
  let x := ctxAt s at_.1 at_.2
  let p := partAt s part
  let new := fun (r : Report) => if x.deferred.contains r || x.life == .parked (.log 5 0 []) then none else some r
  match turnAt s part w with
  | .full => new { cause := 0x20, tval := 5, slot := 31, due := 0, wp := 0 }
  | .diverged => new { cause := 0x23, tval := BitVec.ofNat 64 (5 + 256 * (p.log5.hw.toNat - p.log5.base.toNat)), slot := 31, due := 0, wp := 0 }
  | _ => none

/-- The cause that an arrival raises falls due at its context's next bundle. -/
def owesTrap (s : State) (part : Nat) (w : Word) : State :=
  let at_ := arrivalCtx s part
  match owedCause s part w with
  | some r => modCtx s at_.1 at_.2 (fun x => { x with deferred := insertDue r x.deferred })
  | none => s

/-- Every partition's log lets an arrival in. -/
def arrivalLets (s : State) (w : Word) : Bool :=
  (s.parts.map (fun e => turnAt s e.1 w)).all (fun t => t == .free || t == .room || t == .mine)

/-- An arrival raises a cause in some partition. -/
def arrivalOwes (s : State) (w : Word) : Bool := s.parts.any (fun e => (owedCause s e.1 w).isSome)

/-- An arrival goes through every log, or is held unapplied (R380, R381). -/
def arrival (s : State) (w : Word) : State × Bool :=
  let ps := s.parts.map (fun e => e.1)
  if arrivalLets s w then (ps.foldl (fun s p => passArrival s p w) s, true) else (ps.foldl (fun s p => owesTrap s p w) s, false)

/-! ### Addresses -/

/-- A physical address lies in an enabled stack (R195). -/
def addrPresent (s : State) (a : Nat) : Bool := a / 2 ^ 36 < 12 && a % 2 ^ 36 < 48 * 2 ^ 30 && bit s.conf.hbmStacks (a / 2 ^ 36)

/-- A physical range lies in device memory. A stack has no hole, so its ends decide. -/
def rangePresent (s : State) (a n : Nat) : Bool :=
  n == 0 || (addrPresent s a && addrPresent s (a + n - 1) && a / 2 ^ 36 == (a + n - 1) / 2 ^ 36)

/-! ### Requests -/

/-- What a request comes to: a reply with status and data, or none yet. -/
structure Served where
  state : State
  reply : Option (Nat × List Byte)

/-- A refusal, which has no effect. -/
def refuse (s : State) (status : Nat) : Served := ⟨s, some (status, [])⟩

/-- A request done. -/
def doneReq (s : State) : Served := ⟨s, some (0x00, [])⟩

/-- The reserved fields of a header (R26), for an opcode that has no use for bytes 31 to 24. -/
def headerOk (r : Req) : Bool := r.resv == 0 && r.pasid.toNat < 2 ^ 20 && r.hi == 0

/-- The length field is 0 and no payload follows. -/
def bare (r : Req) : Bool := r.length == 0

/-- A data write that covers the command word of a stopped partition's dump wakes the global scheduler (R384). -/
def wakeStops (s : State) (a n : Nat) : State :=
  let wake := fun (p : Part) => match p.halt with
    | .stopped core bank _ => if a ≤ p.stdmpPa && p.stdmpPa + 8 ≤ a + n then { p with halt := .stopped core bank true } else p
    | _ => p
  { s with parts := s.parts.map (fun e => (e.1, wake e.2)) }

/-- Data write (R26): a store in mailbox order, which slice watches see (R385), and the scheduler where it covers a command word (R384). -/
def dataWrite (s : State) (r : Req) : Served :=
  let n := r.length.toNat
  let a := r.operand.toNat
  if !headerOk r || n == 0 || n > 65536 || r.payload.length != n then refuse s 0x01
  else if !rangePresent s a n || touchesCode s a n then refuse s 0x02
  else doneReq (wakeStops (sliceReports (hostWrite s a r.payload) r.source 0 3 0 ((List.range n).map (fun i => a + i))) a n)

/-- Data read (R26, R27). -/
def dataRead (s : State) (r : Req) : Served :=
  let n := r.length.toNat
  if !headerOk r || n == 0 || n > 65536 then refuse s 0x01
  else if !rangePresent s r.operand.toNat n || touchesCode s r.operand.toNat n then refuse s 0x02
  else ⟨s, some (0x00, deviceBytes s r.operand.toNat n)⟩

/-- A chunk of the store. -/
def chunkAt (s : State) (h : BitVec 256) : Option Chunk := s.chunks.find? (fun c => c.hash == h)

/-- Chunk put (R26): a new chunk, or new bytes for one that has not been verified. -/
def chunkPut (s : State) (r : Req) : Served :=
  if r.resv != 0 || r.pasid.toNat ≥ 2 ^ 20 || r.length != 4096 || r.payload.length != 4112 then refuse s 0x01
  else
    let h := hashOf (r.payload.take 16 ++ bytesOf 8 r.operand.toNat ++ bytesOf 8 r.hi.toNat)
    let bytes := pokes [] 0 (r.payload.drop 16)
    match chunkAt s h with
    | some c =>
      if c.verified then doneReq s
      else doneReq { s with chunks := s.chunks.map (fun e => if e.hash == h then { e with bytes := bytes } else e) }
    | none =>
      if s.chunks.length ≥ Config.chunkRoom then refuse s 0x05
      else doneReq { s with chunks := s.chunks ++ [{ hash := h, bytes := bytes, refs := 0, verified := false }] }

/-- Control write (R38). -/
def controlWrite (s : State) (r : Req) : Served :=
  let n := r.index.toNat
  if !headerOk r || !bare r then refuse s 0x01
  else if n == 0 then doneReq { s with qtroot := r.operand &&& 0x000FFFFFFFFFE000 }
  else if 0x100 ≤ n && n ≤ 0x13F then doneReq { s with cc := tset s.cc (n - 0x100) r.operand }
  else refuse s 0x04

/-- Control read (R38). -/
def controlRead (s : State) (r : Req) : Served :=
  let n := r.index.toNat
  if !headerOk r || !bare r then refuse s 0x01
  else if n == 0 then ⟨s, some (0x00, bytesOf 8 s.qtroot.toNat)⟩
  else if 0x100 ≤ n && n ≤ 0x13F then ⟨s, some (0x00, bytesOf 8 (tgetD s.cc (n - 0x100) 0).toNat)⟩
  else refuse s 0x04

/-! ### Flips and mappings (R197) -/

/-- Size code and permissions of the index field. -/
def reqSize (r : Req) : Nat := bits r.index.toNat 0 2
def reqPerms (r : Req) : Nat := bits r.index.toNat 2 5

/-- The fields of a flip or mapping request that status 0x01 covers; only the host sends them. -/
def flipOk (s : State) (r : Req) : Bool :=
  r.resv == 0 && r.pasid.toNat < 2 ^ 20 && bare r && reqSize r != 3 && bits r.index.toNat 8 8 == 0 && some r.source == s.conf.host

/-- The page that the operand names. -/
def reqVa (r : Req) : Nat := r.operand.toNat

/-- The page covers a code page of the space (R10). -/
def onCode (s : State) (r : Req) : Bool :=
  let n := pageBytes (reqSize r)
  s.code.any (fun c => c.pasid == r.pasid.toNat && reqVa r / n == c.va / n)

/-- The address faults that status 0x06 refuses in every flip and mapping request. -/
def badFlip (r : Req) : Bool :=
  let n := pageBytes (reqSize r)
  reqVa r % n != 0 || r.hi.toNat % n != 0 || !canonical r.operand || reqVa r ≥ endPage

/-- The mapping of exactly the page that a request names. -/
def mappingOf (s : State) (r : Req) : Option DataMap :=
  s.maps.find? (fun m => m.pasid == r.pasid.toNat && m.va == r.operand && m.size == reqSize r)

/-- A page holds part of the image of an existing segment (R401). -/
def holdsImage (s : State) (m : DataMap) : Bool :=
  s.segs.any (fun g => g.pages.any (fun p => m.pa ≤ p && p < m.pa + pageBytes m.size))

/-- Replace the ownership of a mapping. -/
def setOwner (s : State) (m : DataMap) (host : Bool) : State :=
  { s with maps := s.maps.map (fun e => if e == m then { e with host := host } else e) }

/-- The bytes of the host page that a give carries: those that came with it, otherwise what host memory holds (a free value). -/
def hostPage (s : State) (r : Req) (n : Nat) : List Byte :=
  (List.range n).map (fun i => (r.payload[i]?).getD (Config.hostByte s.free (r.hi.toNat + i)))

/-- Give. -/
def givePage (s : State) (r : Req) : Served :=
  if !flipOk s r then refuse s 0x01
  else if badFlip r then refuse s 0x06
  else if onCode s r then refuse s 0x02
  else match mappingOf s r with
    | none => refuse s 0x06
    | some m => if m.host then doneReq (setOwner (hostWrite s m.pa (hostPage s r (pageBytes m.size))) m false) else refuse s 0x06

/-- Take: its reply carries the bytes that go to the host address. -/
def takePage (s : State) (r : Req) : Served :=
  if !flipOk s r then refuse s 0x01
  else if badFlip r then refuse s 0x06
  else if onCode s r then refuse s 0x02
  else match mappingOf s r with
    | none => refuse s 0x06
    | some m =>
      if m.host || holdsImage s m then refuse s 0x06
      else
        let s := revokePage s m.pasid m
        ⟨setOwner s m true, some (0x00, deviceBytes s m.pa (pageBytes m.size))⟩

/-- Two pages of a space overlap. -/
def overlaps (m : DataMap) (pasid va size : Nat) : Bool :=
  m.pasid == pasid && m.va.toNat < va + pageBytes size && va < m.va.toNat + pageBytes m.size

/-- Map. -/
def mapPage (s : State) (r : Req) : Served :=
  if !flipOk s r then refuse s 0x01
  else if badFlip r then refuse s 0x06
  else if onCode s r then refuse s 0x02
  else if s.maps.any (fun m => overlaps m r.pasid.toNat (reqVa r) (reqSize r))
    || !rangePresent s r.hi.toNat (pageBytes (reqSize r)) then refuse s 0x06
  else doneReq { s with maps := s.maps ++ [{ pasid := r.pasid.toNat, va := r.operand, size := reqSize r, pa := r.hi.toNat, perms := reqPerms r,
                                             host := bit r.index.toNat 7 }] }

/-- Unmap. -/
def unmapPage (s : State) (r : Req) : Served :=
  if !flipOk s r then refuse s 0x01
  else if badFlip r then refuse s 0x06
  else if onCode s r then refuse s 0x02
  else match mappingOf s r with
    | none => refuse s 0x06
    | some m =>
      if holdsImage s m then refuse s 0x06
      else
        let s := revokePage s m.pasid m
        doneReq { s with maps := s.maps.filter (fun e => e != m) }

/-- Every context with what it is, and a change of it. -/
def mapCtxs (s : State) (f : Nat → Nat → Ctx → Ctx) : State :=
  { s with cores := s.cores.map (fun e => (e.1, { e.2 with b0 := f e.1 0 e.2.b0, b1 := f e.1 1 e.2.b1, sec := f e.1 2 e.2.sec })) }

/-- A context waits for the page that a request names (R204). -/
def waitsFor (r : Req) (x : Ctx) : Bool :=
  match x.life with
  | .parked (.handle h) =>
    x.pasid == r.pasid.toNat && bits x.tcause.toNat 0 8 == 0x0B
      && hVa (tgetD x.h h 0) / pageBytes (reqSize r) == reqVa r / pageBytes (reqSize r)
  | _ => false

/-- Refuse: the strands that wait for the page take trap 0x0B in their handlers (R204). -/
def refusePage (s : State) (r : Req) : Served :=
  if !flipOk s r then refuse s 0x01
  else if badFlip r then refuse s 0x06
  else doneReq (mapCtxs s (fun _ _ x => if waitsFor r x then { x with life := .refused 0x0B x.tval (bits x.tcause.toNat 8 5) } else x))

end Sys2Proof.Machine
end

