-- ==== Sys2Proof/Machine/Commands.lean ====
section
/-! DEFINITION. Engine commands and link transfers from their start to their completion (R287 to R299, R305, R313 to R316, R335), with packing and
sealing (R213 to R216), and what arrives from peer devices (R290, R294). -/
namespace Sys2Proof.Machine

/-! ### Finding and changing a command -/

/-- A command of a core by its id. -/
def cmdOf (s : State) (core id : Nat) : Option Cmd := (coreAt s core).cmds.find? (fun c => c.id == id)

/-- Replace a command of a core. -/
def setCmd (s : State) (core : Nat) (c : Cmd) : State :=
  setCore s core { coreAt s core with cmds := (coreAt s core).cmds.map (fun e => if e.id == c.id then c else e) }

/-! ### What a command moves -/

/-- What a command writes, in its order: scratchpad bytes by core and offset, bytes of global memory; the status it comes to and where it failed;
and the counter values of its key slot that it takes. -/
structure Moved where
  sp     : List (Nat × Nat × Byte)
  mem    : List (Nat × Byte)
  status : Nat
  failAt : Nat
  sealed : Nat

/-- Nothing moved. -/
def Moved.none : Moved := ⟨[], [], 0, 0, 0⟩

/-- A byte of global memory as a command reads it (R335): under R323 with no own stores. -/
def cmdByte (s : State) (core : Nat) (c : Cmd) (a : Nat) : Byte :=
  histByte s.first s.hist (entryVisible (partyOf s core c.bank) c.seen) a

/-- The scratchpad as a command reads it: as it was when the command started, or as it is, byte by byte (R289). -/
def nearByte (s : State) (now : Memory) (c : Cmd) (a : Nat) : Byte :=
  let old := peek c.near a
  let new := peek now a
  if old == new || Config.pick s.free (a + 2 ^ 33 * c.id) % 2 == 1 then new else old

/-- Bytes of a core's scratchpad, and of global memory, in order. -/
def spBytes (core : Nat) (bs : List (Nat × Byte)) : List (Nat × Nat × Byte) := bs.map (fun e => (core, e))

/-! ### Packed and sealed streams (R215, R216) -/

/-- The key slot of a command. -/
def keyOf (s : State) (c : Cmd) (key : Nat) : KeySlot := tgetD (partAt s c.part).keys key KeySlot.reset

/-- The key schedule of a key slot, quarter 0 first (R301). -/
def keySchedule (k : KeySlot) : List (List Byte) := aesKeys (bytesOf 32 k.key.toNat)

/-- The nonce of a block whose uncompressed side is a scratchpad offset. -/
def sealNonce (off counter : Nat) : List Byte := bytesOf 8 (off + 2 ^ 63) ++ bytesOf 4 counter

/-- The words of a block of 256 bytes, and its bytes. -/
def blockWords (bs : List Byte) : List Nat := (List.range 64).map (fun i => natOfBytes ((bs.drop (4 * i)).take 4))
def wordBytes (ws : List Nat) : List Byte := ws.flatMap (bytesOf 4)

/-- The header and payload of a block to write: packed, or raw when it is only sealed. -/
def packBlock (cmp : Bool) (ws : List Nat) : List Byte × List Byte :=
  if cmp then hpkEncode ws else (bytesOf 8 (hpkHeadNat { base := 0, w := 32, mode := 0 }), wordBytes ws)

/-- A sealed block: header, counter, encrypted payload, tag. -/
def sealBlock (keys : List (List Byte)) (off counter : Nat) (b : List Byte × List Byte) : List Byte :=
  let aad := b.1 ++ bytesOf 4 counter
  let nonce := sealNonce off counter
  let body := gcmCrypt keys nonce b.2
  aad ++ body ++ gcmTag keys nonce aad body

/-- Blocks `i` onward of a `.sg` stream: `near` is the uncompressed side, `pos` where the next block goes in its page of `size` bytes at `base`, `left` the
blocks still to do. -/
def packRun (read : Nat → Byte) (keys : Option (List (List Byte))) (cmp : Bool) (near base size counter : Nat) :
    Nat → Nat → Nat → Moved
  | 0, _, _ => Moved.none
  | left + 1, i, pos =>
    let off := near + 256 * i
    let b := packBlock cmp (blockWords ((List.range 256).map (fun j => read (off + j))))
    let used := if keys.isSome then 1 else 0
    let bytes := match keys with
      | some k => sealBlock k off (counter + i) b
      | none => b.1 ++ b.2
    if keys.isSome && counter + i ≥ 2 ^ 32 then { Moved.none with status := 0x04, failAt := 256 * i }
    else if pos + bytes.length > size then { Moved.none with status := 0x06, failAt := 256 * i }
    else
      let r := packRun read keys cmp near base size counter left (i + 1) (pos + bytes.length)
      { r with mem := placed (base + pos) bytes ++ r.mem, sealed := used + r.sealed }

/-- Blocks `i` onward of a `.gs` stream, written to the scratchpad of `core` from `near` upward. -/
def unpackRun (read : Nat → Byte) (keys : Option (List (List Byte))) (cmp : Bool) (core near size : Nat) : Nat → Nat → Nat → Moved
  | 0, _, _ => Moved.none
  | left + 1, i, pos =>
    let off := near + 256 * i
    let fail := fun (st : Nat) => { Moved.none with status := st, failAt := 256 * i }
    let at_ := fun (a n : Nat) => (List.range n).map (fun j => read (a + j))
    if pos + 8 > size then fail 0x06
    else
      let head := natOfBytes (at_ pos 8)
      let w := bits head 8 6
      let total := if keys.isSome then 24 + 8 * w else 8 + 8 * w
      if pos + total > size then fail 0x06
      else
        let payload := if keys.isSome then at_ (pos + 12) (8 * w) else at_ (pos + 8) (8 * w)
        let clear : Option (List Byte) := match keys with
          | none => some payload
          | some k =>
            let aad := at_ pos 12
            let nonce := sealNonce off (natOfBytes (at_ (pos + 8) 4))
            if gcmTag k nonce aad payload == at_ (pos + 12 + 8 * w) 12 then some (gcmCrypt k nonce payload) else none
        match clear with
        | none => fail 0x01
        | some p =>
          if !hpkOk head || (!cmp && (hpkHead head).mode != 0) then fail 0x02
          else
            let r := unpackRun read keys cmp core near size left (i + 1) (pos + total)
            { r with sp := spBytes core (placed off (wordBytes (hpkWords (hpkHead head) (natOfBytes p)))) ++ r.sp }

/-! ### Tensor copies (R295, R296) -/

/-- A dimension of a tensor: extent, box, strides. -/
structure Dim where
  extent : Nat
  low    : Nat
  high   : Nat
  far    : Int
  near   : Int

/-- A tensor descriptor: log2 of the element size, fill element, dimensions with dimension 0 first. -/
structure Tensor where
  size : Nat
  fill : List Byte
  dims : List Dim

/-- Dimension `d` of a descriptor's bytes. -/
def dimAt (bs : List Byte) (d : Nat) : Dim :=
  let f := fun (o n : Nat) => natOfBytes ((bs.drop (16 + 16 * d + o)).take n)
  { extent := f 0 2, low := f 2 2, high := f 4 2, far := sextNat 32 (f 8 4), near := sextNat 32 (f 12 4) }

/-- The descriptor in 128 bytes; none when it is malformed (R295). -/
def tensorOf (bs : List Byte) : Option Tensor :=
  let n := ((bs[1]?).getD 0).toNat
  let size := ((bs[0]?).getD 0).toNat
  let zero := fun (lo hi : Nat) => ((bs.drop lo).take (hi - lo)).all (fun b => b == 0)
  let dims := (List.range n).map (dimAt bs)
  let ok := 1 ≤ n && n ≤ 4 && size ≤ 3 && zero 2 8 && zero 80 128 && zero (16 + 16 * n) 80
    && (List.range n).all (fun d => zero (16 + 16 * d + 6) (16 + 16 * d + 8)) && dims.all (fun d => 1 ≤ d.extent)
    && dims.foldl (fun m d => m * d.extent) 1 ≤ 2 ^ 26
  if ok then some { size := size, fill := (bs.drop 8).take (2 ^ size), dims := dims } else none

/-- The elements of a box, the last dimension of the list innermost: whether each lies in the box, its far and its near address. -/
def boxRun : List Dim → Bool → Int → Int → List (Bool × Int × Int)
  | [], inside, far, near => [(inside, far, near)]
  | d :: r, inside, far, near =>
    (List.range d.extent).flatMap (fun i =>
      boxRun r (inside && d.low ≤ i && i < d.high) (far + i * d.far) (near + i * d.near))

/-- What a tensor copy does with an element: the source and destination addresses, the source absent where it writes the fill; none for a clipped element
under `.nofill`. -/
def elementMove (toFar nofill : Bool) (e : Bool × Int × Int) : Option (Option Int × Int) :=
  let src := if toFar then e.2.2 else e.2.1
  let dst := if toFar then e.2.1 else e.2.2
  if e.1 then some (some src, dst) else if nofill then none else some (none, dst)

/-- The check of a scratchpad side of an element: 0, or the status it fails with (R296, R206). `prog` limits it to the program area (R294). -/
def tensorSpBad (s : State) (core : Nat) (prog store : Bool) (a : Int) (n : Nat) : Nat :=
  let off := a.toNat
  let len := if prog then programEnd s core else windowOf s core
  if a < 0 || off + n > len then 0x08
  else match segCheck s core off n store with
    | none => 0
    | some b =>
      if !store then 0x08
      else if b.cause == 0x0D || ((copyAt (coreAt s core) off).any (fun d => off + n ≤ d.off + d.size)) then 0x09 else 0x08

/-- The check of the page side of an element. -/
def tensorPageBad (size : Nat) (barred : Bool) (a : Int) (n : Nat) : Nat := if a < 0 || a.toNat + n > size || barred then 0x08 else 0

/-! ### The whole of a command -/

/-- The bytes of a tensor copy. `dir` 0 is `.gs`, 1 `.sg`, 2 `.ss`; `read` gives a byte of its source. -/
def moveTensor (s : State) (core : Nat) (desc : List Byte) (read : Nat → Byte) (dir near base size : Nat) (far : Word) (farCore : Nat)
    (peer nofill barred : Bool) : Moved :=
  match tensorOf desc with
  | none => { Moved.none with status := 0x07 }
  | some t =>
    let n := 2 ^ t.size
    let moves := (boxRun t.dims.reverse true far.toNat near).map (elementMove (dir != 0) nofill)
    let srcBad := fun (a : Int) => if dir == 0 then tensorPageBad size barred a n else tensorSpBad s core false false a n
    let dstBad := fun (a : Int) => match dir with
      | 0 => tensorSpBad s core false true a n
      | 1 => tensorPageBad size barred a n
      | _ => if peer then (if a < 0 || a.toNat + n > 2 ^ 32 then 0x08 else 0) else tensorSpBad s farCore true true a n
    let bad := fun (m : Option (Option Int × Int)) => match m with
      | none => 0
      | some (src, dst) =>
        let b := match src with
          | some a => srcBad a
          | none => 0
        if b != 0 then b else dstBad dst
    match ((List.range moves.length).zip moves).find? (fun m => bad m.2 != 0) with
    | some m => { Moved.none with status := bad m.2, failAt := m.1 * n }
    | none =>
      let out := moves.flatMap (fun m => match m with
        | none => []
        | some (src, dst) =>
          let bytes := match src with
            | some a => (List.range n).map (fun j => read (a.toNat + j))
            | none => t.fill
          placed dst.toNat bytes)
      match dir with
      | 0 => { Moved.none with sp := spBytes core out }
      | 1 => { Moved.none with mem := out.map (fun e => (base + e.1, e.2)) }
      | _ => { Moved.none with sp := spBytes farCore out }

/-- The pattern of a fill (R297). -/
def fillBytes (at_ len : Nat) (pattern : Word) : List (Nat × Byte) :=
  let p := bytesOf 8 pattern.toNat
  (List.range len).map (fun x => (at_ + x, (p[x % 8]?).getD 0))

/-- What a started command moves. `now` is the scratchpad of its core as it finds it. -/
def movedBy (s : State) (core : Nat) (now : Memory) (c : Cmd) : Moved :=
  let near := nearByte s now c
  match c.kind with
  | .cpy dir off n base size far farCore _ cmp seals key =>
    let keys := if seals then some (keySchedule (keyOf s c key)) else none
    match dir with
    | 0 =>
      if cmp || seals then unpackRun (fun a => cmdByte s core c (base + a)) keys cmp core off size (n / 256) 0 far
      else { Moved.none with sp := spBytes core (placed off ((List.range n).map (fun j => cmdByte s core c (base + far + j)))) }
    | 1 =>
      if cmp || seals then packRun near keys cmp off base size (keyOf s c key).counter.toNat (n / 256) 0 far
      else { Moved.none with mem := placed (base + far) ((List.range n).map (fun j => near (off + j))) }
    | _ => { Moved.none with sp := spBytes farCore (placed far ((List.range n).map (fun j => near (off + j)))) }
  | .cpyt dir off desc base size far farCore farDev nofill barred =>
    if desc % 64 != 0 then { Moved.none with status := 0x07 }
    else if desc + 128 > windowOf s core then { Moved.none with status := 0x08 }
    else
      moveTensor s core (peeks c.near desc 128) (if dir == 0 then fun a => cmdByte s core c (base + a) else near) dir off base size far farCore
        (farDev != 512) nofill barred
  | .cfill global at_ n pattern =>
    let bs := fillBytes at_ n pattern
    if global then { Moved.none with mem := bs } else { Moved.none with sp := spBytes core bs }
  | .lsend _ _ _ _ _ | .lrecv _ _ _ _ _ => Moved.none

/-- The peer device that a command writes to, with the far core (R294). -/
def peerOf (c : Cmd) : Option (Nat × Nat) :=
  match c.kind with
  | .cpy _ _ _ _ _ _ farCore farDev _ _ _ => if farDev == 512 then none else some (farDev, farCore)
  | .cpyt _ _ _ _ _ _ farCore farDev _ _ => if farDev == 512 then none else some (farDev, farCore)
  | _ => none

/-! ### Start (R287, R289, R305) -/

/-- A link transfer. -/
def isLink (c : Cmd) : Bool :=
  match c.kind with
  | .lsend _ _ _ _ _ | .lrecv _ _ _ _ _ => true
  | _ => false

/-- Two commands conflict (R305). -/
def conflicts (a b : Cmd) : Bool :=
  b.writes.any (fun w => a.writes.any (rangesMeet w) || a.reads.any (rangesMeet w)) || b.reads.any (fun r => a.writes.any (rangesMeet r))

/-- The commands accepted before one. -/
def earlier (c : Cmd) : List Cmd → List Cmd
  | [] => []
  | e :: r => if e.id == c.id then [] else e :: earlier c r

/-- MX instructions in flight on the core hold a range of the command (R268, R305). -/
def heldByMx (s : State) (core : Nat) (c : Cmd) : Bool :=
  let k := coreAt s core
  (k.b0.flights ++ k.b1.flights ++ k.sec.flights).any (fun f => (f.holds.filter (fun h => f.age < h.upto)).any (fun h =>
    let r : Range := { space := 0, core := core, lo := h.lo, len := h.len }
    c.writes.any (rangesMeet r) || (h.write && c.reads.any (rangesMeet r))))

/-- An LS store that a stream of the core issued at or before the cycle of the command has still to land (R289). -/
def storesOwed (s : State) (core : Nat) (c : Cmd) : Bool :=
  let k := coreAt s core
  let owed := fun (bank : Nat) (f : Flight) =>
    isStore f && (f.id < c.id || (bank == 2 && c.bank != 2 && k.wcyc.toNat ≤ c.born + f.age))
  [0, 1, 2].any (fun b => (ctxIn k b).flights.any (owed b))

/-- A command may start: two cycles have passed, its wait holds, no earlier command or MX instruction holds its ranges, the stores before it have
landed, and its core is not frozen (R287, R289, R290, R305, R357). -/
def mayStart (s : State) (core : Nat) (c : Cmd) : Bool :=
  let k := coreAt s core
  !c.started && c.status == 0 && !k.frozen && c.born + 2 ≤ k.wcyc.toNat
    && (match c.wait with
      | some w => w.2 ≤ (tgetD k.sems w.1 0).toNat
      | none => true)
    && (earlier c k.cmds).all (fun a => !conflicts a c) && !heldByMx s core c && !storesOwed s core c

/-- A cause for the command's context at its next bundle boundary, because no bundle of its own is there to trap. -/
def owes (s : State) (core bank cause : Nat) (tval : Word) : State :=
  let r : Report := { cause := cause, tval := tval, slot := 31, due := 0, wp := 0 }
  if (ctxAt s core bank).deferred.contains r then s
  else modCtx s core bank (fun x => { x with deferred := insertDue r x.deferred })

/-- A boundary of a command may take its place in the boundary order now: after the strands of its core and before the next core, in the last cycle of its gclk,
when no epoch is to close first (R320, R338). -/
def engineTurn (s : State) (core tag : Nat) : Bool :=
  lastCore s == core && roundMoved s && placeOpen s (enginePlace s tag) && !epochPending s

/-- A boundary of a command takes its turn (R335, R379 to R382): it is held while its record does not fit or another's turn comes first. -/
def cmdBoundary (s : State) (core : Nat) (c : Cmd) (k : State → State) : State :=
  if !engineTurn s core c.tag then s
  else if recordFull s core c.bank 5 1 then owes s core c.bank 0x20 5
  else match boundaryGate s core c.bank c.scope 3 c.tag with
    | .go s _ => k (takePlace s (enginePlace s c.tag))
    | .hold => s
    | .diverge t => owes s core c.bank 0x23 t

/-- The refresh that a command makes before its first read: at its scope with `.acq`, otherwise at the core (R335). -/
def cmdRefresh (s : State) (c : Cmd) : Seen :=
  let scope := if c.acq then memScope c.scope else 1
  let p := enginePlace s c.tag
  { core := if scope == 1 then laterPlace c.seen.core p else c.seen.core
    die := if scope == 2 then laterPlace c.seen.die p else c.seen.die
    device := if scope == 3 then laterPlace c.seen.device p else c.seen.device }

/-- The command starts: its refresh is made, the scratchpad it reads is as it finds it now, and the scratchpad bytes it will write hold an old or a new
value from now on (R289). -/
def startCmd (s : State) (core : Nat) (c : Cmd) : State :=
  let near := spView s core c.bank 0 (16 + c.tag)
  let c := { c with started := true, near := near, seen := cmdRefresh s c }
  let m := movedBy s core near c
  let c := { c with alt := if (peerOf c).isSome then [] else m.sp, status := m.status, failAt := m.failAt }
  nextStamp (setCmd s core c)

/-- `COMMAND_START` (R287). -/
def execCommandStart (core id : Nat) (s : State) : Answer :=
  match cmdOf s core id with
  | none => .next s
  | some c =>
    if !mayStart s core c then .next s
    else if isLink c then .next (setCmd s core { c with started := true })
    else if c.acq then .next (cmdBoundary s core c (fun s => startCmd s core c))
    else .next (startCmd s core c)

/-! ### Completion (R299) -/

/-- Flits of a transfer of `len` bytes (R314). -/
def flits (len : Nat) : Nat := len / 256

/-- A command has nothing left to move. -/
def cmdDone (c : Cmd) : Bool :=
  match c.kind with
  | .lsend _ _ _ len _ => c.status != 0 || c.moved == flits len
  | .lrecv _ _ _ _ _ => (c.status != 0 && (c.status != 0x0D || c.total == 0)) || (c.total != 0 && c.moved == c.total)
  | _ => c.started

/-- Scratchpad bytes of one core land, and its watches see them (R289, R385). -/
def landNear (s : State) (core : Nat) (c : Cmd) (target : Nat) (bs : List (Nat × Byte)) : State :=
  if bs.isEmpty then s
  else
    let s := setCore s target (spStore (coreAt s target) bs)
    scratchReports s target 0 c.tag 1 core (bs.map (fun e => e.1))

/-- Global bytes of a command: published at its scope with `.rel`, otherwise among the unpublished writes of its strand; its home slices' watches see
them (R335, R385). Of two bytes at one address the later wins (R296). -/
def landFar (s : State) (core : Nat) (c : Cmd) (bs : List (Nat × Byte)) : State :=
  if bs.isEmpty then s
  else
    let bs := bs.reverse
    let s := if c.rel then writeHome s (partyOf s core c.bank) c.kernel true c.scope (enginePlace s c.tag) bs
      else
        let x := ctxAt s core c.bank
        if x.kernel != c.kernel || x.life == .empty || x.life == .discarded then s
        else setCtx s core c.bank { x with own := x.own ++ [{ index := x.index, bytes := bs }] }
    sliceReports s 0 c.tag 1 core (bs.map (fun e => e.1))

/-- The bytes that a command writes were fixed when it started: what a load from global memory gave, and what lands on another core, where a byte that has been
read new stays new (R326, R336). -/
def fixedAtStart (c : Cmd) : Bool :=
  match c.kind with
  | .cpy dir .. | .cpyt dir .. => dir == 0 || (dir == 2 && (peerOf c).isNone)
  | _ => false

/-- What a command writes that meets no error. -/
def wholeMoved (s : State) (core : Nat) (c : Cmd) : Moved :=
  if fixedAtStart c then { Moved.none with sp := c.alt, status := c.status, failAt := c.failAt }
  else movedBy s core (spView s core c.bank 0 (16 + c.tag)) { c with alt := [] }

/-- The first `n` of a command's units, where it fails, with the offset of the failing one within its uncompressed side (R298). -/
def cutAt (n unit : Nat) (m : Moved) : Moved := { m with status := 0x03, failAt := n * unit }

/-- The blocks, elements or bytes before an uncorrectable error stay written, and no others are (R216, R299, R359): how many, the spec leaves to the device. -/
def cutMoved (s : State) (core : Nat) (c : Cmd) : Moved :=
  let upTo := fun (count : Nat) => if fixedAtStart c && c.alt.isEmpty then 0 else Config.pick s.free (2 ^ 40 + c.id) % max 1 count
  let m := wholeMoved s core c
  match c.kind with
  | .cpy dir near len base size off farCore farDev cmp seals key =>
    let unit := if cmp || seals then 256 else 1
    let n := upTo (len / unit)
    cutAt n unit (if fixedAtStart c then { m with sp := m.sp.take (n * unit) }
      else wholeMoved s core { c with kind := .cpy dir near (n * unit) base size off farCore farDev cmp seals key })
  | .cpyt dir near desc _ _ far _ _ nofill _ =>
    (match tensorOf (peeks c.near desc 128) with
    | none => cutAt 0 1 Moved.none
    | some t =>
      let moves := (boxRun t.dims.reverse true far.toNat near).map (elementMove (dir != 0) nofill)
      let n := upTo moves.length
      let kept := ((moves.take n).filter (fun e => e.isSome)).length * 2 ^ t.size
      cutAt n (2 ^ t.size) { m with sp := m.sp.take kept, mem := m.mem.take kept })
  | .cfill _ _ len _ =>
    let n := upTo len
    cutAt n 1 { m with sp := m.sp.take n, mem := m.mem.take n }
  | .lsend .. | .lrecv .. => m

/-- What the command wrote, at its end. -/
def finalMoved (s : State) (core : Nat) (c : Cmd) : Moved :=
  if !c.started || isLink c then { Moved.none with status := c.status, failAt := c.failAt }
  else if c.status == 0x03 then cutMoved s core c else wholeMoved s core c

/-- The counter of a key slot after `n` blocks more (R215, R301). -/
def useCounter (s : State) (c : Cmd) (n : Nat) : State :=
  match c.kind with
  | .cpy _ _ _ _ _ _ _ _ _ true key =>
    modPart s c.part (fun p =>
      let k := tgetD p.keys key KeySlot.reset
      { p with keys := if n == 0 then p.keys else tset p.keys key { k with counter := k.counter + BitVec.ofNat 64 n } })
  | _ => s

/-- The bytes of a command land: those for a peer device leave over the fabric, and the peer takes them or not (R294). The answer is its status. -/
def landMoved (s : State) (core : Nat) (c : Cmd) (m : Moved) : State × Nat :=
  match peerOf c with
  | some (dev, far) =>
    let refused := Config.pick s.free (2 ^ 41 + c.id) % 2 == 1
    let out := m.sp.map (fun e => Parcel.copy dev core c.tag far e.2.1 [e.2.2])
    ({ s with outbox := s.outbox ++ out }, if m.status != 0 then m.status else if refused then 0x05 else 0)
  | none =>
    let targets := (List.range 96).filter (fun k => m.sp.any (fun e => e.1 == k))
    let s := targets.foldl (fun s k => landNear s core c k ((m.sp.filter (fun e => e.1 == k)).map (fun e => e.2))) s
    (landFar (useCounter s c m.sealed) core c m.mem, m.status)

/-- The rank of an addition among those of one cycle that the engines and other cores make (R304): an engine signal by its tag, a remote signal by
its source core, and then those of peers. -/
def remoteRank (source : Nat) : Nat := 64 + source
def peerRank : Nat := 255

/-- An addition was made in this cycle. -/
def hear (s : State) (core sem rank : Nat) : State := setCore s core { coreAt s core with heard := (coreAt s core).heard ++ [(sem, rank)] }

/-- An addition of a rank comes too late for this cycle, because one of a higher rank has been made. -/
def overtaken (s : State) (core sem rank : Nat) : Bool := (coreAt s core).heard.any (fun h => h.1 == sem && rank < h.2)

/-- The signal of a command waits for the next cycle. -/
def signalWaits (s : State) (core : Nat) (c : Cmd) : Bool :=
  match c.signal with
  | some (false, target, sem, _) => target == core && overtaken s core sem c.tag
  | _ => false

/-- The signal of a command (R290, R299, R303, R304); one that the peer refuses is sent too. -/
def cmdSignal (s : State) (core : Nat) (c : Cmd) : State :=
  match c.signal with
  | none => s
  | some (true, target, sem, inc) =>
    (match peerOf c with
    | none => s
    | some (dev, far) =>
      let s := { s with outbox := s.outbox ++ [.signal dev c.tag far target sem inc] }
      -- the peer may have no room for the addition, and reports it (R304)
      if Config.pick s.free (2 ^ 42 + c.id) % 2 == 1 then
        sendReport s core c.bank { cause := 0x1C, tval := overflowTval sem target, slot := 31, due := 0, wp := 0 }
      else s)
  | some (false, target, sem, inc) =>
    if target == core then hear (landWrite s core c.bank (.semAdd sem inc)) core sem c.tag
    else
      let g : Signal := { id := s.nextId, core := core, bank := c.bank, target := target, sem := sem, inc := inc }
      { s with signals := s.signals ++ [g], nextId := s.nextId + 1 }

/-- A list without its first entry equal to `a`. -/
def dropOne {α : Type} [BEq α] (a : α) : List α → List α
  | [] => []
  | b :: r => if b == a then r else b :: dropOne a r

/-- The window of a link transfer is over. One that was refused for an overlap held none. -/
def closeWindow (s : State) (c : Cmd) : State :=
  if c.status == 0x0A then s
  else match c.kind with
    | .lsend n _ _ len t =>
      let p := portAt s n
      { s with ports := tset s.ports n { p with sends := dropOne (t, windowEnd t len) p.sends } }
    | .lrecv n ch _ len t =>
      let p := portAt s n
      { s with ports := tset s.ports n { p with recvs := dropOne (ch, t, windowEnd t len) p.recvs } }
    | _ => s

/-- The tag status (R298). -/
def tagStatus (status failAt : Nat) : Word := BitVec.ofNat 64 (pack [(8, status), (32, failAt)])

/-- The end of a command (R299): its bytes have landed; the status, the tag's bit, the signal, in that order. -/
def completeEngine (s : State) (core : Nat) (c : Cmd) : State :=
  let m := finalMoved s core c
  let (s, status) := landMoved s core c m
  let s := closeWindow s c
  let k := coreAt s core
  let k := { k with cmds := k.cmds.filter (fun e => e.id != c.id), tgst := tset k.tgst c.tag (tagStatus status m.failAt)
                    ctb := k.ctb ||| (1 : Word) <<< c.tag }
  cmdSignal (setCore s core (pokeCore k)) core c

/-- The addresses of device memory that a started command works at: a page lies in one stack, so the start of a range decides (R195). -/
def cmdHomes (c : Cmd) : List Nat :=
  if c.started then ((c.reads ++ c.writes).filter (fun r => r.space == 2 && r.len != 0)).map (fun r => r.lo) else []

/-- The dies whose scratchpads a started command works at. -/
def cmdDies (c : Cmd) : List Nat :=
  if c.started then ((c.reads ++ c.writes).filter (fun r => r.space == 1 && r.len != 0 && r.core < 96)).map (fun r => dieOf r.core) else []

/-- What a command works at can be reached (R395). -/
def cmdReached (s : State) (core : Nat) (c : Cmd) : Bool :=
  (cmdHomes c).all (homeReached s (dieOf core)) && (cmdDies c).all (bridgeReached s (dieOf core))

/-- A command that works at a failed home, or across a failed bridge, ends as on an uncorrectable error, and delivers nothing that it read there (R299, R359, R395). -/
def cmdStruck (s : State) (core : Nat) (c : Cmd) : Cmd :=
  if c.status == 0 && ((cmdHomes c).any (homeFailed s (dieOf core)) || (cmdDies c).any (bridgeFailed s (dieOf core))) then { c with status := 0x03, alt := [] } else c

/-- `COMMAND_COMPLETE` (R287, R299). -/
def execCommandComplete (core id : Nat) (s : State) : Answer :=
  match (cmdOf s core id).map (cmdStruck s core) with
  | none => .next s
  | some c =>
    if !cmdDone c || !cmdReached s core c || signalWaits s core c then .next s
    else if c.rel && c.started then .next (cmdBoundary s core c (fun s => completeEngine s core c))
    else .next (completeEngine s core c)

/-! ### Signals between cores (R303, R304, R327) -/

/-- A signal may arrive: it can cross the bridge, the stores of its strand before it have landed, no earlier signal of its source to the same semaphore is on its
way, and none that comes after it in one cycle has been applied (R304, R327, R395). -/
def signalReady (s : State) (g : Signal) : Bool :=
  bridgeReached s (dieOf g.core) (dieOf g.target) && (s.signals.find? (fun e => e.core == g.core && e.target == g.target && e.sem == g.sem)).map (fun e => e.id) == some g.id
    && (ctxAt s g.core g.bank).flights.all (fun f => !(f.id < g.id && (isStore f || isTileStore f)))
    && !overtaken s g.target g.sem (remoteRank g.core)

/-- `REMOTE_SIGNAL_ARRIVAL` (R303, R304). A signal that meets a failed bridge is not added: R395 ends its request, and it has no status to end with (log
entry 53). -/
def execRemoteSignalArrival (id : Nat) (s : State) : Answer :=
  match s.signals.find? (fun g => g.id == id) with
  | none => .next s
  | some g =>
    if !signalReady s g then .next s
    else if bridgeFailed s (dieOf g.core) (dieOf g.target) then .next { s with signals := s.signals.filter (fun e => e.id != id) }
    else
      let s := { s with signals := s.signals.filter (fun e => e.id != id) }
      let r := semAdd (coreAt s g.target) g.sem g.inc
      .next (if r.2 then hear (setCore s g.target r.1) g.target g.sem (remoteRank g.core)
        else sendReport (setCore s g.target (pokeCore r.1)) g.core g.bank
          { cause := 0x1C, tval := overflowTval g.sem g.target, slot := 31, due := 0, wp := 0 })

/-! ### Peer devices (R290, R294, R379) -/

/-- An arrival from a peer device goes through the arrival logs, or is held unapplied. -/
def peerArrival (s : State) (e : Event) (w : Word) (k : State → State) : State :=
  if !s.powered || s.boot != .running then s
  else
    let s := { s with peers := dropOne e s.peers }
    match arrival s w with
    | (s, true) => k s
    | (s, false) => { s with peers := s.peers ++ [e] }

/-- The answer to a peer device. -/
def answerPeer (s : State) (endpoint tag status : Nat) : State := { s with outbox := s.outbox ++ [.answer endpoint tag status] }

/-- `PEER_COPY_ARRIVAL` (R294): bytes of a peer's copy are written when the core belongs to a partition and they lie in its program area. -/
def execPeerCopyArrival (endpoint sender tag core offset : Nat) (bytes : List Byte) (s : State) : Answer :=
  .next (peerArrival s (.peerCopyArrival endpoint sender tag core offset bytes) (arrivalWord 1 endpoint tag) (fun s =>
    if (partOfCore s core).isNone || offset + bytes.length > programEnd s core then answerPeer s endpoint tag 0x05
    else
      let bs := placed offset bytes
      let s := setCore s core (spStore (coreAt s core) bs)
      answerPeer (scratchReports s core endpoint tag 1 sender (bs.map (fun e => e.1))) endpoint tag 0))

/-- `PEER_SIGNAL_ARRIVAL` (R290): a peer's signal is applied when its core belongs to the partition that holds the far core of the copy. -/
def execPeerSignalArrival (endpoint tag far core sem : Nat) (inc : BitVec 32) (s : State) : Answer :=
  .next (peerArrival s (.peerSignalArrival endpoint tag far core sem inc) (arrivalWord 2 endpoint tag) (fun s =>
    if (partOfCore s core).isNone || partOfCore s core != partOfCore s far then answerPeer s endpoint tag 0x05
    else
      let r := semAdd (coreAt s core) sem inc.toNat
      if r.2 then answerPeer (hear (setCore s core r.1) core sem peerRank) endpoint tag 0
      else { setCore s core (pokeCore r.1) with outbox := s.outbox ++ [.overflow endpoint core sem] }))

/-! ### Scheduled links (R314 to R316) -/

/-- The next flit of a send may leave, or its cycle is missed. -/
def sendDue (s : State) (c : Cmd) : Bool :=
  match c.kind with
  | .lsend _ _ _ len t =>
    c.status == 0 && c.moved < flits len && ((c.started && t + 64 * c.moved / 75 ≤ s.gclk) || (c.moved == 0 && t ≤ s.gclkWas))
  | _ => false

/-- `LINK_DEPARTURE` (R314, R315): the next flit of a send leaves its port with its framing; a send whose cycle gclk has passed ends with status 0x0B. -/
def execLinkDeparture (core id : Nat) (s : State) : Answer :=
  match cmdOf s core id with
  | none => .next s
  | some c =>
    match c.kind with
    | .lsend port ch buf len t =>
      if !sendDue s c then .next s
      else if c.moved == 0 && t ≤ s.gclkWas then .next (setCmd s core { c with status := 0x0B })
      else
        let bytes := peeks (spView s core c.bank 0 (16 + c.tag)) (buf + 256 * c.moved) 256
        let s := setCmd s core { c with moved := c.moved + 1 }
        .next { s with outbox := s.outbox ++ [.flit port ch c.moved (flits len) (t + 64 * c.moved / 75) bytes] }
    | _ => .next s

/-- The receive that takes a flit of a channel on a port: for flit 0 one whose cycle it is, afterwards the one under way (R316). A receive that nothing
hinders from starting has started by then. -/
def takesFlit (s : State) (port ch index core : Nat) (c : Cmd) : Bool :=
  match c.kind with
  | .lrecv p h _ _ a =>
    p == port && h == ch && (c.started || mayStart s core c) && (c.status == 0 || c.status == 0x0D)
      && (if index == 0 then c.total == 0 && s.gclkWas < a && a ≤ s.gclk else c.moved < c.total)
  | _ => false

/-- The cycle of a link transfer has come, and it can start (R314). -/
def linkStarts (s : State) (core : Nat) (c : Cmd) : Bool :=
  match c.kind with
  | .lsend _ _ _ _ t | .lrecv _ _ _ _ t => t ≤ s.gclk && mayStart s core c
  | _ => false

/-- The receives of the device, with their cores. -/
def receives (s : State) : List (Nat × Cmd) := s.cores.flatMap (fun e => e.2.cmds.map (fun c => (e.1, c)))

/-- A flit reaches an armed receive (R316): it lands, or lies past the receive's length and is counted. -/
def takeFlit (s : State) (core : Nat) (c : Cmd) (index count : Nat) (bytes : List Byte) : State :=
  match c.kind with
  | .lrecv _ _ buf len _ =>
    let n := flits len
    let c := { c with started := true, moved := index + 1, total := count, status := if count == n then 0 else 0x0D }
    if index ≥ n then bump (setCmd s core c) 0x1C8 1
    else
      let bs := placed (buf + 256 * index) (padTo 256 0 bytes)
      let old := bs.map (fun e => (core, e.1, peek (coreAt s core).sp e.1))
      let s := setCmd s core { c with alt := c.alt ++ old }
      setCore s core (spStore (coreAt s core) bs)
  | _ => s

/-- `FLIT_ARRIVAL` (R314, R316): a flit with its framing; one that meets no armed receive is discarded and counted. -/
def execFlitArrival (port ch index count : Nat) (bytes : List Byte) (s : State) : Answer :=
  match (receives s).find? (fun e => takesFlit s port ch index e.1 e.2) with
  | some e => .next (takeFlit s e.1 e.2 index count bytes)
  | none => .next (bump s 0x1C8 1)

/-- A receive whose cycle passed without its first flit. -/
def receiveMissed (s : State) (c : Cmd) : Bool :=
  match c.kind with
  | .lrecv _ _ _ _ a => c.status == 0 && c.total == 0 && a ≤ s.gclkWas
  | _ => false

/-- `LINK_RECEIVE_MISS` (R315). -/
def execLinkReceiveMiss (core id : Nat) (s : State) : Answer :=
  match cmdOf s core id with
  | none => .next s
  | some c => .next (if receiveMissed s c then setCmd s core { c with status := 0x0C } else s)

end Sys2Proof.Machine
end

