-- ==== Sys2Proof/Machine/Control.lean ====
section
/-! DEFINITION. The instructions of the BR slot: transfers, loops, prepare-to-branch, predicate logic (R137, R138, R154 to R166). -/
namespace Sys2Proof.Machine

/-! ### The bundle and its page -/

/-- The bytes of the page of the running bundle. -/
def curBytes (s : State) : Memory :=
  match codePage s (me s).pasid s.cur.page with
  | some c => c.bytes
  | none => []

/-- The offset after the running bundle. -/
def nextOff (s : State) : Nat := s.cur.off + s.cur.size

/-- Bytes of the bundle at an offset, by its header count (R68). -/
def bundleSize (m : Memory) (b : Nat) : Nat := 4 + 4 * bits (unitAt m b) 5 6

/-- `n` bundles from offset `b` lie before the bundle length `len`. -/
def bundlesFit (m : Memory) (len : Nat) : Nat → Nat → Bool
  | 0, b => b ≤ len
  | n + 1, b => b < len && bundlesFit m len n (b + bundleSize m b)

/-- The offset after the body of a loop entry, and that of its loop-back bundle (R159). -/
def bodyEnd (m : Memory) (e : LoopEntry) : Nat := skipBundles m e.start e.len
def bodyLast (m : Memory) (e : LoopEntry) : Nat := skipBundles m e.start (e.len - 1)

/-- The running bundle is a delay bundle (R137). -/
def inDelay (s : State) : Bool := s.cur.pend0.isSome

/-- The running bundle is one of the last three of a pinned body (R161). -/
def nearEnd (s : State) : Bool :=
  (me s).seq.loops.any (fun e => skipBundles (curBytes s) e.start (e.len - 3) ≤ s.cur.off)

/-- The two delay bundles lie in the page (R72). -/
def delaysFit (s : State) : Bool := bundlesFit (curBytes s) (pageLength (curBytes s)) 2 (nextOff s)

/-- Entries whose body does not contain a place are popped from the top (R161). -/
def leaveBodies (m : Memory) (page toPage toOff : Nat) : List LoopEntry → List LoopEntry
  | [] => []
  | e :: r => if page == toPage && e.start ≤ toOff && toOff < bodyEnd m e then e :: r else leaveBodies m page toPage toOff r

/-! ### Transfers -/

/-- A refused target traps at the bundle (R154). -/
def trapTarget (s : State) (e : BadTarget) : State :=
  trapLeaf s e.cause e.tval (if e.cause == 0x0A then some (.codePage (e.tval.toNat / 4096 * 4096)) else none)

/-- A pointer to a loop-start anchor meets the condition of R162: it names the first bundle of the top entry's body, and the transfer stands
within that body. -/
def loopStartOk (s : State) (ptr : Word) : Bool :=
  match (me s).seq.loops, placeOf s (me s).pasid ptr with
  | e :: _, some p => p.1 == s.cur.page && p.2 == e.start
  | _, _ => false

/-- A check that accepts `kinds`, and a loop start under the condition of R162. -/
def withLoopStart (s : State) (r : List Nat → Except BadTarget Word) (kinds : List Nat) : Except BadTarget Word :=
  match r kinds with
  | .ok p => .ok p
  | .error e =>
    match r [3] with
    | .ok p => if loopStartOk s p then .ok p else .error e
    | .error _ => .error e

/-- The causes 0x03 that `BR`, `BRC`, `JMP` and `RET` share, taken or not (R137, R138, R72, R161). -/
def branchIllegal (s : State) : Bool := inDelay s || !s.cur.gelxis || !delaysFit s || nearEnd s

/-- A taken branch: the target is pending with two delay bundles (R137). -/
def setPending (s : State) (target : Word) : State := modMe s (fun x => { x with seq := { x.seq with pend := some ⟨target, 2⟩ } })

/-- A branch that is taken when `on`, to a resolved target. -/
def branch (s : State) (on : Bool) (r : Except BadTarget Word) : State :=
  if branchIllegal s then trap s 0x03 0
  else if !on then occupy s 1
  else match r with
    | .error e => trapTarget s e
    | .ok p => setPending (occupy s 1) p

/-- The encoded target of a BX word. -/
def encoded (s : State) (o : BX) (kinds : List Nat) : Except BadTarget Word :=
  checkTarget s (me s).pasid s.cur.home o.page o.anchor.toNat kinds

def execBr (_ : Mod) (o : BX) (s : State) : Host.Outcome State Fault Refusal :=
  .next (branch s true (withLoopStart s (encoded s o) [0, 1]))
def execBrc (x : Mod) (o : BX) (s : State) : Host.Outcome State Fault Refusal :=
  .next (branch s (guardOn s x) (withLoopStart s (encoded s o) [0, 1]))
def execJmp (x : Mod) (o : SR) (s : State) : Host.Outcome State Fault Refusal :=
  .next (branch s (guardOn s x) (checkPointer s (me s).pasid (regG s o.a.toNat) [0, 1]))
def execRet (_ : Mod) (o : SR) (s : State) : Host.Outcome State Fault Refusal :=
  .next (branch s true (checkPointer s (me s).pasid (regG s o.a.toNat) [2]))

/-- The link of a call (R156): the return-point anchor of the home page. -/
def linkOf (s : State) (back : Nat) : Option Word :=
  match codePage s (me s).pasid s.cur.home with
  | none => none
  | some c => if kindOf c back == some 2 then some (codePointer s.cur.home back) else none

/-- A call (R156): a taken transfer that writes its link, due 1. DESIGN CHOICE (log entry 56): where both the target and the return point are bad, the trap 0x06
is that of the target. -/
def call (s : State) (d back : Nat) (r : Except BadTarget Word) : State :=
  if inDelay s || !s.cur.gelxis || !delaysFit s || !(me s).seq.loops.isEmpty then trap s 0x03 0
  else match r with
    | .error e => trapTarget s e
    | .ok p =>
      match linkOf s back with
      | none => trap s 0x06 (codePointer s.cur.home back)
      | some l => setPending (toG s true d 1 1 l) p

def execCall (_ : Mod) (o : BX) (s : State) : Host.Outcome State Fault Refusal :=
  .next (call s o.d.toNat o.aux.toNat (encoded s o [0, 1]))
def execCallr (_ : Mod) (o : SR) (s : State) : Host.Outcome State Fault Refusal :=
  .next (call s o.d.toNat o.b.toNat (checkPointer s (me s).pasid (regG s o.a.toNat) [0, 1]))

/-! ### Loops (R157 to R160) -/

/-- A loop instruction may not stand here (R158). -/
def loopIllegal (s : State) (n : Nat) : Bool :=
  let m := curBytes s
  let loops := (me s).seq.loops
  inDelay s || loops.length ≥ 6 || !bundlesFit m (pageLength m) n (nextOff s)
    || loops.any (fun e => bodyLast m e < skipBundles m (nextOff s) n)

/-- Control goes on at an offset of the page. -/
def jumpOff (s : State) (off : Nat) : State :=
  let s := modMe s (fun x => { x with seq := { x.seq with off := off } })
  { s with cur := { s.cur with moved := true } }

/-- A loop of `n` bundles with a count (R157). -/
def startLoop (s : State) (count n : Nat) : State :=
  let s := occupy s 1
  if count == 0 then jumpOff s (skipBundles (curBytes s) (nextOff s) n)
  else modMe s (fun x => { x with seq := { x.seq with loops := ⟨0, count, s.cur.off + s.cur.size, n⟩ :: x.seq.loops } })

/-- The count of `LOOP`: bits [63:38] of its word, which the page and anchor fields hold. -/
def loopCount (o : BX) : Nat := o.anchor.toNat + 64 * o.page.toNat

def execLoop (_ : Mod) (o : BX) (s : State) : Host.Outcome State Fault Refusal :=
  let n := o.aux.toNat + 1
  .next (if loopIllegal s n then trap s 0x03 0 else startLoop s (loopCount o) n)
def execLoopr (_ : Mod) (o : SR) (s : State) : Host.Outcome State Fault Refusal :=
  let n := o.b.toNat + 1
  let a := regG s o.a.toNat
  .next (if loopIllegal s n then trap s 0x03 0
    else if a.toNat ≥ 2 ^ 26 then trap s 0x03 a
    else startLoop s a.toNat n)
def execLexit (x : Mod) (o : SR) (s : State) : Host.Outcome State Fault Refusal :=
  let _ := o
  if inDelay s then .next (trap s 0x03 0)
  else if !guardOn s x then .next (occupy s 1)
  else match (me s).seq.loops with
    | [] => .next (trap s 0x03 0)
    | e :: r =>
      let dest := bodyEnd (curBytes s) e
      .next (jumpOff (modMe (occupy s 1) (fun x => { x with seq := { x.seq with loops := r } })) dest)

/-! ### Prepare-to-branch (R163, R164) -/

/-- A resolved pointer to bt[n]; the register is interlocked. -/
def toBt (s : State) (n : Nat) (v : Word) : State :=
  push s { newFlight s 1 with dests := [(.bt n, 1)], writes := [(1, .bt n v)] }

/-- `PBT` with a resolution. -/
def prepare (s : State) (d : Nat) (r : Except BadTarget Word) : State :=
  if inDelay s || s.cur.gelxis then trap s 0x03 0
  else match r with
    | .error e => trapTarget s e
    | .ok p => toBt s (d % 4) p

def execPbt (_ : Mod) (o : BX) (s : State) : Host.Outcome State Fault Refusal :=
  .next (prepare s o.d.toNat (encoded s o [0, 1, 3]))
def execPbtReg (_ : Mod) (o : BX) (s : State) : Host.Outcome State Fault Refusal :=
  .next (prepare s o.d.toNat (checkPointer s (me s).pasid (regG s o.anchor.toNat) [0, 1, 2]))

/-- Control passes to a code pointer, at once by `BT` and after its delay bundles by a branch (R137, R161, R164). A page that the Still has yet to schedule
is entered by the pointer itself (R74). A return crosses an edge even within its page (R85). -/
def goTo (s : State) (ptr : Word) : State :=
  let va := ptr.toNat / 4096 * 4096
  let blf := match codePage s (me s).pasid va with
    | some c => isBlf c
    | none => true
  let m := curBytes s
  let back := ((codePage s (me s).pasid va).bind (fun c => kindOf c (bits ptr.toNat 6 6))) == some 2
  match (if blf then none else placeOf s (me s).pasid ptr) with
  | none =>
    modMe s (fun x => { x with seq :=
      { x.seq with page := va, off := ptr.toNat % 4096, home := va, pend := none, loops := [], entering := true, crossing := true } })
  | some p =>
    modMe s (fun x => { x with seq :=
      { x.seq with page := p.1, off := p.2, home := va, pend := none, entering := false, crossing := back || p.1 != s.cur.page,
                   loops := leaveBodies m s.cur.page p.1 p.2 x.seq.loops } })

/-- Control passes at once to a resolved pointer (R164, R161). -/
def transferNow (s : State) (ptr : Word) : State :=
  let s := goTo s ptr
  { s with cur := { s.cur with moved := true } }

/-- `BT` (R164): the pointer is resolved again. DESIGN CHOICE (log entry 56): an anchor of any kind that some form of `PBT` takes is a target, whichever form
wrote the register: entry, target, return point, and loop start under R162. -/
def execBt (x : Mod) (o : SR) (s : State) : Host.Outcome State Fault Refusal :=
  let v := regBt s (o.a.toNat % 4)
  .next (if inDelay s || s.cur.gelxis then trap s 0x03 0
    else if !guardOn s x then occupy s 1
    else if v = 0 then trap s 0x06 0
    else match withLoopStart s (checkPointer s (me s).pasid v) [0, 1, 2] with
      | .error e => trapTarget s e
      | .ok p => transferNow (occupy s 1) p)

/-! ### Predicate logic (R165) -/

/-- p[n] of a field's low four bits. -/
def rdP (s : State) (f : BitVec 6) : Bool := regP s (f.toNat % 16)

def execPand (_ : Mod) (o : SR) (s : State) : Host.Outcome State Fault Refusal :=
  .next (toP s true (o.d.toNat % 16) 1 (rdP s o.a && rdP s o.b))
def execPor (_ : Mod) (o : SR) (s : State) : Host.Outcome State Fault Refusal :=
  .next (toP s true (o.d.toNat % 16) 1 (rdP s o.a || rdP s o.b))
def execPxor (_ : Mod) (o : SR) (s : State) : Host.Outcome State Fault Refusal :=
  .next (toP s true (o.d.toNat % 16) 1 (rdP s o.a != rdP s o.b))
def execPnot (_ : Mod) (o : SR) (s : State) : Host.Outcome State Fault Refusal :=
  .next (toP s true (o.d.toNat % 16) 1 (!rdP s o.a))
def execPmov (_ : Mod) (o : SR) (s : State) : Host.Outcome State Fault Refusal :=
  .next (toP s true (o.d.toNat % 16) 1 (rdP s o.a))

end Sys2Proof.Machine
end

