-- ==== Sys2Proof/Machine/System.lean ====
section
/-! DEFINITION. The instructions of the SY slot (R128, R360 to R368). -/
namespace Sys2Proof.Machine

/-! ### CSR access (R361, R362) -/

/-- The CSR number of a word. -/
def csrNo (o : SI) : Nat := bits o.imm.toNat 0 12

/-- A CSR that the acting context may name: it exists, and a primary's is not named from the secondary stream (R362). -/
def csrNamed (s : State) (n : Nat) : Bool := csrExists n && !(onSecondary s && primaryCsr n)

/-- Trap 0x0C of a CSR instruction (R205): reason and CSR number. -/
def csrBad (n reason : Nat) : Bad := ⟨0x0C, reasonTval reason (n % 4096)⟩

/-- A window CSR is held by another partition (R249). -/
def windowHeld (s : State) (n : Nat) : Bool :=
  let b := (windowAt s (dieOf s.cur.core) ((n - 0x100) / 4)).base.toNat
  0x100 ≤ n && n ≤ 0x11F && bit b 11 && bits b 4 5 != myPart s

/-- The address that a log or dump CSR must find mapped and writable (R378, R384): a limit is exclusive. -/
def logAddress (l : LogRegs) (f : Nat) (v : Word) : Word :=
  let v := v &&& logMask f
  if f == 1 || f == 4 || (f == 2 && v == l.lim) || (f == 5 && v == l.slim) then v - 1 else v

/-- The checks of a CSR write of value `v`. -/
def csrWriteChecks (s : State) (n : Nat) (v : Word) : List (Option Bad) :=
  [badIf (!csrNamed s n) ⟨0x01, BitVec.ofNat 64 n⟩,
   badIf (!csrWritable n) (csrBad n 0x0A),
   badIf (windowHeld s n) (csrBad n 0x09),
   (match logCsr n with
    | some (l, f) =>
      if l != 0 && (recording s (myPart s) || replaying s (myPart s)) then some (csrBad n 0x0A)
      else badIf (writablePa s (me s).pasid (logAddress (logRegs s s.cur.core s.cur.bank l) f v)).isNone (csrBad n 0x04)
    | none => none),
   badIf (n == 0x181 && (writablePa s (me s).pasid (v &&& ~~~(0xFFF : Word))).isNone) (csrBad n 0x04)]

/-- A CSR write of value `v`, in force from c + 1. -/
def csrPut (x : Mod) (o : SI) (s : State) (v : Word) : Answer :=
  let n := csrNo o
  if !guardOn s x then .next (occupy s 1)
  else match firstSome (csrWriteChecks s n v) with
    | some b => .next (trapBad s b 0)
    | none => .next (landNext s true (.csr n v))

/-- The value that `CSRS` and `CSRC` start from. -/
def csrRead (s : State) (o : SI) : Word := csrValue s s.cur.core s.cur.bank (csrNo o)

def execCsrr (x : Mod) (o : SI) (s : State) : Answer :=
  .next (if guardOn s x && !csrNamed s (csrNo o) then trap s 0x01 (BitVec.ofNat 64 (csrNo o))
    else toG s (guardOn s x) o.d.toNat 2 1 (csrRead s o))
def execCsrw (x : Mod) (o : SI) (s : State) : Answer := csrPut x o s (regG s o.a.toNat)
def execCsrs (x : Mod) (o : SI) (s : State) : Answer := csrPut x o s (csrRead s o ||| regG s o.a.toNat)
def execCsrc (x : Mod) (o : SI) (s : State) : Answer := csrPut x o s (csrRead s o &&& ~~~regG s o.a.toNat)

/-! ### Traps and the return from one (R363, R364) -/

/-- `TRAP`: run after its bundle has issued; `epc` names the bundle that would issue next, which is where the sequencer stands. -/
def execTrap (x : Mod) (o : SI) (s : State) : Answer :=
  let q := (me s).seq
  if !guardOn s x then .next (occupy s 1)
  else .next (trapAt s s.cur.core s.cur.bank 0x30 s.cur.slot (BitVec.ofNat 64 (bits o.imm.toNat 0 16)) .after none q.page q.home q.off)

def execRfe (x : Mod) (_ : SR) (s : State) : Answer :=
  .next (if !guardOn s x then occupy s 1
    else if s.cur.gelxis || !inhibited (me s) then trap s 0x03 0
    else returnFromTrap (occupy s 1))

/-- `IDLE` (R365): blocks until the event latch is set, then clears it. -/
def execIdle (x : Mod) (_ : SR) (s : State) : Answer :=
  .next (if !guardOn s x then occupy s 1
    else if (me s).latch then modMe (occupy s 1) (fun c => { c with latch := false }) else block s)

/-! ### Watches (R366) -/

/-- Remove watch `w` of the acting core, its slice part included. -/
def clearWatch (s : State) (w : Nat) : State :=
  let s := modMyCore s (fun c => { c with watches := tdel c.watches w })
  { s with sliceWatches := s.sliceWatches.filter (fun e => !(e.core == s.cur.core && e.w == w)) }

/-- The slice holds a part of watch `w` of the acting core. -/
def sliceHolds (s : State) (w : Nat) : Bool := s.sliceWatches.any (fun e => e.core == s.cur.core && e.w == w)

/-- The number of a home slice among all slices. -/
def sliceNo (pa : Nat) : Nat := 384 * (sliceOf pa).1 + (sliceOf pa).2

/-- The instruction waits for the slice's answer where a slice part is involved. -/
def sliceAnswer (s : State) (needed : Bool) (w : Nat) (go : State → State) : State := if needed then asked s (.watch w) go else go s

/-- Install a global watch: at the core, and at its slice unless its eight are in use; g[d] is 0 or 1. -/
def watchGlobal (s : State) (d w mask pa : Nat) (va : Word) : State :=
  let s := clearWatch s w
  let n := sliceNo pa
  let full := (s.sliceWatches.filter (fun e => e.slice == n)).length ≥ 8
  let s := modMyCore s (fun c =>
    { c with watches := tset c.watches w { sp := false, at_ := pa, va := va, mask := mask, slice := !full, bank := s.cur.bank } })
  let s := if full then s else { s with sliceWatches := s.sliceWatches ++ [{ slice := n, core := s.cur.core, w := w }] }
  toG s true d 1 1 (if full then 1 else 0)

/-- Install a scratchpad watch; g[d] is 2. -/
def watchScratch (s : State) (d w mask off : Nat) : State :=
  let s := modMyCore (clearWatch s w) (fun c =>
    { c with watches := tset c.watches w { sp := true, at_ := off, va := 0, mask := mask, slice := false, bank := s.cur.bank } })
  toG s true d 1 1 2

/-- The checks of a watch's range (R366). -/
def watchChecks (s : State) (o : SI) : List (Option Bad) :=
  let off := (regG s o.b.toNat).toNat
  let hn := o.a.toNat % 32
  let h := regH s hn
  if bit o.imm.toNat 18 then [badIf (off % 16 != 0) (spBad off 3), badIf (off + 16 > windowOf s s.cur.core) (spBad off 1)]
  else [checkState h hn off, badIf (off % 16 != 0) ⟨0x0C, accessTval h off 3⟩,
        badIf (off + 16 > pageBytes (hSize h)) ⟨0x09, accessTval h off 0⟩]

def execWpset (x : Mod) (o : SI) (s : State) : Answer :=
  let d := o.d.toNat
  let mask := bits o.imm.toNat 0 16
  let w := bits o.imm.toNat 16 2
  let sp := bit o.imm.toNat 18
  let off := (regG s o.b.toNat).toNat
  let h := regH s (o.a.toNat % 32)
  .next (if !guardOn s x then toG s false d 1 1 0
    else if mask == 0 then sliceAnswer s (sliceHolds s w) w (fun s => toG (clearWatch s w) true d 1 1 0)
    else match firstSome (watchChecks s o) with
      | some b => trapBad s b (o.a.toNat % 32)
      | none =>
        if sp then sliceAnswer s (sliceHolds s w) w (fun s => watchScratch s d w mask off)
        else asked s (.watch w) (fun s => watchGlobal s d w mask (hBase h + off) (BitVec.ofNat 64 (hVa h + off))))
def execWpclr (x : Mod) (o : SI) (s : State) : Answer :=
  let w := bits o.imm.toNat 16 2
  .next (if !guardOn s x then occupy s 1 else sliceAnswer s (sliceHolds s w) w (fun s => occupy (clearWatch s w) 1))

/-! ### Logs (R367) -/

/-- The log a word names. -/
def logNo (o : SI) : Nat := bits o.imm.toNat 0 8

/-- The high-water of a log: for log 4, of the slice g[a][8:0] (R378). -/
def highWater (s : State) (o : SI) : Word :=
  if logNo o == 4 then tgetD (partAt s (myPart s)).hw4 (384 * dieOf s.cur.core + (regG s o.a.toNat).toNat % 512) 0
  else (logRegs s s.cur.core s.cur.bank (logNo o)).hw

def execLogctlHw (x : Mod) (o : SI) (s : State) : Answer := .next (toG s (guardOn s x) o.d.toNat 2 1 (highWater s o))

/-- `LOGCTL.flush`: records reach memory as they are written (log entry 6), so the wait ends at once. -/
def execLogctlFlush (x : Mod) (o : SI) (s : State) : Answer := .next (toG s (guardOn s x) o.d.toNat 1 1 (highWater s o))
def execLogctlMark (x : Mod) (o : SI) (s : State) : Answer :=
  .next (if !guardOn s x then occupy s 1
    else gated s (markGate s s.cur.core s.cur.bank (logNo o) (regG s o.a.toNat)) (fun s _ => occupy s 1))
def execLogctlDrift (x : Mod) (o : SI) (s : State) : Answer :=
  .next (if !guardOn s x then occupy s 1
    else modMe (occupy s 1) (fun c => { c with drift := (regG s o.a.toNat).toNat % 2 ^ 32 }))

/-! ### Ending, stopping, starting the secondary (R128, R354, R368, R384) -/

/-- `HALT`: the context drains and the kernel ends with reason 3; its report names slot 14 and the bundle of the `HALT`. -/
def execHalt (x : Mod) (o : SR) (s : State) : Answer :=
  let v := regG s o.a.toNat
  .next (if !guardOn s x then occupy s 1
    else endKernel (drain s s.cur.core s.cur.bank) s.cur.core s.cur.bank 3 14 0 v (BitVec.ofNat 64 (s.cur.page + s.cur.off)))

/-- Stops are enabled for a partition (R384). -/
def stopsOn (s : State) (part : Nat) : Bool := bit (partAt s part).stctl.toNat 0

/-- A context stops its core (R384): kind 0 `bkps`, 1 `bkpa`, 2 `DSTOP`. -/
def stopCore (s : State) (core bank kind : Nat) : State :=
  let part := (ctxAt s core bank).part
  let s := setCore s core { coreAt s core with frozen := true }
  modPart s part (fun p => if p.halt == .none then { p with halt := .stopping s.gclk core bank kind } else p)

def execDstop (x : Mod) (_ : SR) (s : State) : Answer :=
  .next (if guardOn s x && stopsOn s (myPart s) then stopCore (occupy s 1) s.cur.core s.cur.bank 2 else occupy s 1)

/-- The secondary context `old` at the start of strand `no`, one of the iteration of `x`, whose epoch and issue order it shares (R128, R318, R338): it enters its page by the code pointer, and what R128 does not name,
the event latch and `wpinfo`, stays. -/
def secondaryStart (x old : Ctx) (no : Nat) (entry start : Word) : Ctx :=
  { Ctx.reset with
    latch := old.latch, wpinfo := old.wpinfo,
    life := .ready, part := x.part, pasid := x.pasid, kernel := x.kernel, ordinal := x.ordinal, strand := no, epoch := x.epoch, index := x.index,
    seq := { page := entry.toNat / 4096 * 4096, off := entry.toNat % 4096, home := entry.toNat / 4096 * 4096, pend := none, loops := [],
             entering := true, crossing := false },
    g := tset (tset [] 1 start) 62 secondaryEnd }

def execSstart (x : Mod) (o : SR) (s : State) : Answer :=
  let ptr := regG s o.a.toNat
  .next (if !guardOn s x then toG s false o.d.toNat 2 1 0
    else if onSecondary s then trap s 0x03 0
    else match checkPointer s (me s).pasid ptr [0] with
      | .error e => trapTarget s e
      | .ok p =>
        if (myCore s).sec.life != .empty then toG s true o.d.toNat 2 1 1
        else
          let t := toG s true o.d.toNat 2 1 0
          modMyCore { t with nextId := t.nextId + 1 } (fun c =>
            { c with sec := secondaryStart (me s) c.sec t.nextId p (regG s o.b.toNat), secHold := 4 }))

end Sys2Proof.Machine
end

