-- ==== Sys2Proof/Machine/Uses.lean ====
section
/-! DEFINITION. What every instruction reads at its issue (R130): the places, and the operand that a schedule error names (R131). The
matrix operands of the multi-row moves are read row by row from the issue cycle on (R189, R207); those of `XPOSE` at issue (R252). -/
namespace Sys2Proof.Machine

/-- Places that an instruction reads, the cycle after issue at which it reads them, and the operand in the form of R18. -/
structure Use where
  locs  : List Loc
  delay : Nat
  code  : Nat
  /-- an accumulation: one of the array in flight on the same tile comes before it in the array itself (R267) -/
  chain : Bool
  deriving DecidableEq, Repr

/-- The operand codes of R18: file in [13:11], number below. -/
def fileCode (file n : Nat) : Nat := 2048 * file + n

/-- A matrix operand as R18 names it. -/
def matCode (cluster : Nat) (f : BitVec 10) : Nat := fileCode (4 + cluster) f.toNat

/-- A register of a file read at issue: none for the register that reads as a constant. -/
def gUse {n : Nat} (f : BitVec n) : List Use :=
  let i := f.toNat % 64
  if i == 0 then [] else [⟨[.g i], 0, fileCode 0 i, false⟩]
def pUse {n : Nat} (f : BitVec n) : List Use :=
  let i := f.toNat % 16
  if i == 0 then [] else [⟨[.p i], 0, fileCode 1 i, false⟩]
def kUse {n : Nat} (f : BitVec n) : List Use :=
  let i := f.toNat % 8
  if i == 0 then [] else [⟨[.k i], 0, fileCode 2 i, false⟩]
def hUse {n : Nat} (f : BitVec n) : List Use := [⟨[.h (f.toNat % 32)], 0, fileCode 3 (f.toNat % 32), false⟩]
def btUse {n : Nat} (f : BitVec n) : List Use := [⟨[.bt (f.toNat % 4)], 0, 0, false⟩]
def tileUse {n : Nat} (f : BitVec n) : List Use := [⟨[.tile (f.toNat % 4)], 0, fileCode 6 (f.toNat % 4), false⟩]
def sumUse {n : Nat} (f : BitVec n) : List Use := [⟨[.tile (f.toNat % 4)], 0, fileCode 6 (f.toNat % 4), true⟩]
def slotUse (i : Nat) : List Use := [⟨[.fslot (i % 4)], 0, 0, false⟩]

/-- The guard. -/
def guardUse (x : Mod) : List Use := pUse x.pred

/-- A matrix operand read at issue. -/
def mUse (s : State) (cluster : Nat) (f : BitVec 10) : List Use := [⟨opLocs (matOp (me s) cluster f), 0, matCode cluster f, false⟩]

/-- `n` consecutive operand rows, row r read r cycles after issue. -/
def rowsUse (s : State) (cluster : Nat) (f : BitVec 10) (n : Nat) : List Use :=
  (List.range n).map (fun r => ⟨opLocs (advance (matOp (me s) cluster f) r), r, matCode cluster f, false⟩)

/-- `n` consecutive operand rows, all read at issue (R252). -/
def rowsNow (s : State) (cluster : Nat) (f : BitVec 10) (n : Nat) : List Use :=
  (List.range n).map (fun r => ⟨opLocs (advance (matOp (me s) cluster f) r), 0, matCode cluster f, false⟩)

/-- Uses that hold under a condition on the word. -/
def onlyIf (c : Bool) (u : List Use) : List Use := if c then u else []

/-- An operand of a multiply: a fetch slot, or a g register with a handle (R102). -/
def operandUse (slot : Bool) (f : BitVec 6) : List Use := if slot then slotUse f.toNat else gUse f

/-- The B operand of `MMAS`: with a fetch slot, the pair of consecutive slots. -/
def stepsUse (o : MXW) : List Use := if o.bs == 1 then slotUse o.b.toNat ++ slotUse (o.b.toNat + 1) else gUse o.b

/-- The shift register of a funnel form (R150). -/
def funnelUse (o : SI) : List Use := onlyIf (bit o.imm.toNat 6) (gUse (o.imm.extractLsb' 8 6))

/-- What `WPSET` reads: nothing with a mask of 0 (R366). -/
def watchUse (o : SI) : List Use :=
  onlyIf (bits o.imm.toNat 0 16 != 0) (gUse o.b ++ onlyIf (!bit o.imm.toNat 18) (hUse o.a))

/-- What an instruction reads. -/
def usesOf (s : State) (i : Instr) : List Use :=
  match i with
  | .nop => []
  | .add x o => guardUse x ++ gUse o.a ++ gUse o.b
  | .sub x o => guardUse x ++ gUse o.a ++ gUse o.b
  | .and x o => guardUse x ++ gUse o.a ++ gUse o.b
  | .or x o => guardUse x ++ gUse o.a ++ gUse o.b
  | .xor x o => guardUse x ++ gUse o.a ++ gUse o.b
  | .andn x o => guardUse x ++ gUse o.a ++ gUse o.b
  | .orn x o => guardUse x ++ gUse o.a ++ gUse o.b
  | .sel x o => guardUse x ++ gUse o.a ++ gUse o.b
  | .shl x o => guardUse x ++ gUse o.a ++ gUse o.b
  | .shr x o => guardUse x ++ gUse o.a ++ gUse o.b
  | .sar x o => guardUse x ++ gUse o.a ++ gUse o.b
  | .rol x o => guardUse x ++ gUse o.a ++ gUse o.b
  | .min x o => guardUse x ++ gUse o.a ++ gUse o.b
  | .max x o => guardUse x ++ gUse o.a ++ gUse o.b
  | .minu x o => guardUse x ++ gUse o.a ++ gUse o.b
  | .maxu x o => guardUse x ++ gUse o.a ++ gUse o.b
  | .absd x o => guardUse x ++ gUse o.a ++ gUse o.b
  | .clz x o => guardUse x ++ gUse o.a
  | .ctz x o => guardUse x ++ gUse o.a
  | .popc x o => guardUse x ++ gUse o.a
  | .sext x o => guardUse x ++ gUse o.a
  | .zext x o => guardUse x ++ gUse o.a
  | .addi x o => guardUse x ++ gUse o.a ++ gUse o.b
  | .movi x _ => guardUse x
  | .movh x o => guardUse x ++ gUse o.a
  | .fshl x o => guardUse x ++ gUse o.a ++ gUse o.b ++ funnelUse o
  | .fshr x o => guardUse x ++ gUse o.a ++ gUse o.b ++ funnelUse o
  | .shadd x o => guardUse x ++ gUse o.a ++ gUse o.b
  | .bext x o => guardUse x ++ gUse o.a
  | .bins x o => guardUse x ++ gUse o.a ++ gUse o.b
  | .cmpEq x o => guardUse x ++ gUse o.a ++ gUse o.b
  | .cmpNe x o => guardUse x ++ gUse o.a ++ gUse o.b
  | .cmpLt x o => guardUse x ++ gUse o.a ++ gUse o.b
  | .cmpLtu x o => guardUse x ++ gUse o.a ++ gUse o.b
  | .cmpLe x o => guardUse x ++ gUse o.a ++ gUse o.b
  | .cmpLeu x o => guardUse x ++ gUse o.a ++ gUse o.b
  | .cmpGt x o => guardUse x ++ gUse o.a ++ gUse o.b
  | .cmpGtu x o => guardUse x ++ gUse o.a ++ gUse o.b
  | .cmpGe x o => guardUse x ++ gUse o.a ++ gUse o.b
  | .cmpGeu x o => guardUse x ++ gUse o.a ++ gUse o.b
  | .cmpiEq x o => guardUse x ++ gUse o.a
  | .cmpiNe x o => guardUse x ++ gUse o.a
  | .cmpiLt x o => guardUse x ++ gUse o.a
  | .cmpiLtu x o => guardUse x ++ gUse o.a
  | .cmpiLe x o => guardUse x ++ gUse o.a
  | .cmpiLeu x o => guardUse x ++ gUse o.a
  | .cmpiGt x o => guardUse x ++ gUse o.a
  | .cmpiGtu x o => guardUse x ++ gUse o.a
  | .cmpiGe x o => guardUse x ++ gUse o.a
  | .cmpiGeu x o => guardUse x ++ gUse o.a
  | .mul x o => guardUse x ++ gUse o.a ++ gUse o.b
  | .mulh x o => guardUse x ++ gUse o.a ++ gUse o.b
  | .mulhu x o => guardUse x ++ gUse o.a ++ gUse o.b
  | .div x o => guardUse x ++ gUse o.a ++ gUse o.b
  | .divu x o => guardUse x ++ gUse o.a ++ gUse o.b
  | .rem x o => guardUse x ++ gUse o.a ++ gUse o.b
  | .remu x o => guardUse x ++ gUse o.a ++ gUse o.b
  | .br _ _ => []
  | .brc x _ => guardUse x
  | .jmp x o => guardUse x ++ gUse o.a
  | .call _ _ => []
  | .callr _ o => gUse o.a
  | .ret _ o => gUse o.a
  | .loop _ _ => []
  | .loopr _ o => gUse o.a
  | .lexit x _ => guardUse x
  | .pbt _ _ => []
  | .pbtReg _ o => gUse o.anchor
  | .bt x o => guardUse x ++ btUse o.a
  | .pand _ o => pUse o.a ++ pUse o.b
  | .por _ o => pUse o.a ++ pUse o.b
  | .pxor _ o => pUse o.a ++ pUse o.b
  | .pnot _ o => pUse o.a
  | .pmov _ o => pUse o.a
  | .vadd x o => guardUse x ++ mUse s (clusterOf s) o.a ++ mUse s (clusterOf s) o.b ++ kUse o.k
  | .vsub x o => guardUse x ++ mUse s (clusterOf s) o.a ++ mUse s (clusterOf s) o.b ++ kUse o.k
  | .vmul x o => guardUse x ++ mUse s (clusterOf s) o.a ++ mUse s (clusterOf s) o.b ++ kUse o.k
  | .vmulh x o => guardUse x ++ mUse s (clusterOf s) o.a ++ mUse s (clusterOf s) o.b ++ kUse o.k
  | .vmin x o => guardUse x ++ mUse s (clusterOf s) o.a ++ mUse s (clusterOf s) o.b ++ kUse o.k
  | .vmax x o => guardUse x ++ mUse s (clusterOf s) o.a ++ mUse s (clusterOf s) o.b ++ kUse o.k
  | .vminu x o => guardUse x ++ mUse s (clusterOf s) o.a ++ mUse s (clusterOf s) o.b ++ kUse o.k
  | .vmaxu x o => guardUse x ++ mUse s (clusterOf s) o.a ++ mUse s (clusterOf s) o.b ++ kUse o.k
  | .vabs x o => guardUse x ++ mUse s (clusterOf s) o.a ++ kUse o.k
  | .vand x o => guardUse x ++ mUse s (clusterOf s) o.a ++ mUse s (clusterOf s) o.b ++ kUse o.k
  | .vor x o => guardUse x ++ mUse s (clusterOf s) o.a ++ mUse s (clusterOf s) o.b ++ kUse o.k
  | .vxor x o => guardUse x ++ mUse s (clusterOf s) o.a ++ mUse s (clusterOf s) o.b ++ kUse o.k
  | .vshl x o => guardUse x ++ mUse s (clusterOf s) o.a ++ mUse s (clusterOf s) o.b ++ kUse o.k
  | .vshr x o => guardUse x ++ mUse s (clusterOf s) o.a ++ mUse s (clusterOf s) o.b ++ kUse o.k
  | .vsar x o => guardUse x ++ mUse s (clusterOf s) o.a ++ mUse s (clusterOf s) o.b ++ kUse o.k
  | .vfshl x o => guardUse x ++ mUse s (clusterOf s) o.a ++ mUse s (clusterOf s) o.b ++ mUse s (clusterOf s) o.c ++ kUse o.k
  | .vfshr x o => guardUse x ++ mUse s (clusterOf s) o.a ++ mUse s (clusterOf s) o.b ++ mUse s (clusterOf s) o.c ++ kUse o.k
  | .vclz x o => guardUse x ++ mUse s (clusterOf s) o.a ++ kUse o.k
  | .vpopc x o => guardUse x ++ mUse s (clusterOf s) o.a ++ kUse o.k
  | .vcmp x o => guardUse x ++ mUse s (clusterOf s) o.a ++ mUse s (clusterOf s) o.b ++ kUse o.k
  | .vsel x o => guardUse x ++ mUse s (clusterOf s) o.a ++ mUse s (clusterOf s) o.b ++ kUse o.c ++ kUse o.k
  | .vgmaxu x o => guardUse x ++ mUse s (clusterOf s) o.a ++ kUse o.k
  | .fadd x o => guardUse x ++ mUse s (clusterOf s) o.a ++ mUse s (clusterOf s) o.b ++ kUse o.k
  | .fsub x o => guardUse x ++ mUse s (clusterOf s) o.a ++ mUse s (clusterOf s) o.b ++ kUse o.k
  | .fmul x o => guardUse x ++ mUse s (clusterOf s) o.a ++ mUse s (clusterOf s) o.b ++ kUse o.k
  | .fma x o => guardUse x ++ mUse s (clusterOf s) o.a ++ mUse s (clusterOf s) o.b ++ mUse s (clusterOf s) o.c ++ kUse o.k
  | .fms x o => guardUse x ++ mUse s (clusterOf s) o.a ++ mUse s (clusterOf s) o.b ++ mUse s (clusterOf s) o.c ++ kUse o.k
  | .fnma x o => guardUse x ++ mUse s (clusterOf s) o.a ++ mUse s (clusterOf s) o.b ++ mUse s (clusterOf s) o.c ++ kUse o.k
  | .fmin x o => guardUse x ++ mUse s (clusterOf s) o.a ++ mUse s (clusterOf s) o.b ++ kUse o.k
  | .fmax x o => guardUse x ++ mUse s (clusterOf s) o.a ++ mUse s (clusterOf s) o.b ++ kUse o.k
  | .fabs x o => guardUse x ++ mUse s (clusterOf s) o.a ++ kUse o.k
  | .fneg x o => guardUse x ++ mUse s (clusterOf s) o.a ++ kUse o.k
  | .fcmp x o => guardUse x ++ mUse s (clusterOf s) o.a ++ mUse s (clusterOf s) o.b ++ kUse o.k
  | .fdiv x o => guardUse x ++ mUse s (clusterOf s) o.a ++ mUse s (clusterOf s) o.b ++ kUse o.k
  | .fsqrt x o => guardUse x ++ mUse s (clusterOf s) o.a ++ kUse o.k
  | .frcp x o => guardUse x ++ mUse s (clusterOf s) o.a ++ kUse o.k
  | .frsq x o => guardUse x ++ mUse s (clusterOf s) o.a ++ kUse o.k
  | .cvtif x o => guardUse x ++ mUse s (clusterOf s) o.a ++ kUse o.k
  | .cvtfi x o => guardUse x ++ mUse s (clusterOf s) o.a ++ kUse o.k
  | .cvtfb x o => guardUse x ++ mUse s (clusterOf s) o.a ++ mUse s (clusterOf s) o.d ++ kUse o.k
  | .cvtbf x o => guardUse x ++ mUse s (clusterOf s) o.a ++ kUse o.k
  | .vredadd x o => guardUse x ++ mUse s (clusterOf s) o.a ++ kUse o.k
  | .vredmax x o => guardUse x ++ mUse s (clusterOf s) o.a ++ kUse o.k
  | .vredmaxu x o => guardUse x ++ mUse s (clusterOf s) o.a ++ kUse o.k
  | .vredmin x o => guardUse x ++ mUse s (clusterOf s) o.a ++ kUse o.k
  | .fredadd x o => guardUse x ++ mUse s (clusterOf s) o.a ++ kUse o.k
  | .fredmax x o => guardUse x ++ mUse s (clusterOf s) o.a ++ kUse o.k
  | .vbcstG x o => guardUse x ++ gUse o.a ++ kUse o.k
  | .vbcstLane x o => guardUse x ++ mUse s (clusterOf s) o.a ++ kUse o.k
  | .vrotG x o => guardUse x ++ mUse s (clusterOf s) o.a ++ gUse o.b ++ kUse o.k
  | .vrotImm x o => guardUse x ++ mUse s (clusterOf s) o.a ++ kUse o.k
  | .vperm x o => guardUse x ++ mUse s (clusterOf s) o.a ++ mUse s (clusterOf s) o.b ++ kUse o.k
  | .vcmpr x o => guardUse x ++ mUse s (clusterOf s) o.a ++ kUse o.k
  | .viota x o => guardUse x ++ kUse o.b ++ kUse o.k
  | .vmovs x o => guardUse x ++ mUse s (clusterOf s) o.a ++ kUse o.k
  | .vins x o => guardUse x ++ gUse o.a ++ kUse o.k
  | .kand x o => guardUse x ++ kUse o.a ++ kUse o.b
  | .kor x o => guardUse x ++ kUse o.a ++ kUse o.b
  | .knot x o => guardUse x ++ kUse o.a
  | .kpopc x o => guardUse x ++ kUse o.a
  | .mvx x o => guardUse x ++ mUse s (bits o.sub.toNat 0 1) o.a ++ kUse o.k
  | .mvxm x o => guardUse x ++ rowsUse s (bits o.sub.toNat 0 1) o.a (o.c.toNat % 64 + 1) ++ kUse o.k
  | .mvgr x o => guardUse x ++ mUse s (bits o.sub.toNat 0 1) o.a
  | .mvkKm x o => guardUse x ++ mUse s (bits o.sub.toNat 0 1) o.a ++ kUse o.k
  | .mvkMk x o => guardUse x ++ kUse o.a ++ kUse o.k
  | .mvkGk x o => guardUse x ++ kUse o.a
  | .mvkKg x o => guardUse x ++ gUse o.a ++ kUse o.k
  | .lds x o => guardUse x ++ gUse o.a
  | .sts x o => guardUse x ++ gUse o.a ++ gUse o.t
  | .ldsv x o => guardUse x ++ gUse o.a ++ kUse o.k
  | .stsv x o => guardUse x ++ gUse o.a ++ mUse s (bitOf o.cl) o.t ++ kUse o.k
  | .ldsvu x o => guardUse x ++ gUse o.a ++ kUse o.k
  | .stsvm x o => guardUse x ++ gUse o.a ++ gUse o.b ++ mUse s (bitOf o.cl) o.t ++ kUse o.k
  | .ldsx x o => guardUse x ++ gUse o.a ++ gUse o.b ++ kUse o.k
  | .stsx x o => guardUse x ++ gUse o.a ++ gUse o.b ++ mUse s (bitOf o.cl) o.t ++ kUse o.k
  | .ldsm x o => guardUse x ++ gUse o.a ++ kUse o.k
  | .stsm x o => guardUse x ++ gUse o.a ++ rowsUse s (bitOf o.cl) o.t (rowCount o) ++ kUse o.k
  | .ldg x o => guardUse x ++ gUse o.a ++ hUse o.h
  | .stg x o => guardUse x ++ gUse o.a ++ hUse o.h ++ gUse o.t
  | .ldgv x o => guardUse x ++ gUse o.a ++ hUse o.h ++ kUse o.k
  | .stgv x o => guardUse x ++ gUse o.a ++ hUse o.h ++ mUse s (bitOf o.cl) o.t ++ kUse o.k
  | .stgvm x o => guardUse x ++ gUse o.a ++ hUse o.h ++ gUse o.b ++ mUse s (bitOf o.cl) o.t ++ kUse o.k
  | .pfg x o => guardUse x ++ gUse o.a ++ hUse o.h
  | .flg x o => guardUse x ++ gUse o.a ++ hUse o.h
  | .aadd x o => guardUse x ++ gUse o.a ++ hUse o.h ++ gUse o.b
  | .afadd x o => guardUse x ++ gUse o.a ++ hUse o.h ++ gUse o.b
  | .amin x o => guardUse x ++ gUse o.a ++ hUse o.h ++ gUse o.b
  | .amax x o => guardUse x ++ gUse o.a ++ hUse o.h ++ gUse o.b
  | .aminu x o => guardUse x ++ gUse o.a ++ hUse o.h ++ gUse o.b
  | .amaxu x o => guardUse x ++ gUse o.a ++ hUse o.h ++ gUse o.b
  | .aand x o => guardUse x ++ gUse o.a ++ hUse o.h ++ gUse o.b
  | .aor x o => guardUse x ++ gUse o.a ++ hUse o.h ++ gUse o.b
  | .axor x o => guardUse x ++ gUse o.a ++ hUse o.h ++ gUse o.b
  | .axchg x o => guardUse x ++ gUse o.a ++ hUse o.h ++ gUse o.b
  | .acas x o => guardUse x ++ gUse o.a ++ hUse o.h ++ gUse o.b ++ gUse o.t
  | .aradd x o => guardUse x ++ gUse o.a ++ hUse o.h ++ mUse s (bitOf o.cl) o.t ++ kUse o.k
  | .xlt x o => guardUse x ++ gUse o.a
  | .xltp x o => guardUse x ++ gUse o.a ++ gUse o.b
  | .xrel x _ => guardUse x
  | .xinv x o => guardUse x ++ gUse o.a
  | .xpose x o => guardUse x ++ rowsNow s (bits o.sub.toNat 0 1) o.a (o.c.toNat % 64 + 1)
  | .xcvt x o => guardUse x ++ mUse s (bits o.sub.toNat 0 1) o.a ++ mUse s (bits o.sub.toNat 1 1) o.d ++ kUse o.k
  | .xexp x o => guardUse x ++ mUse s (bits o.sub.toNat 0 1) o.a ++ mUse s (bits o.sub.toNat 0 1) o.b ++ gUse o.c ++ onlyIf (bit o.sub.toNat 2) (mUse s (bits o.sub.toNat 1 1) o.d)
  | .xpack x o => guardUse x ++ mUse s (bits o.sub.toNat 0 1) o.a ++ mUse s (bits o.sub.toNat 1 1) o.d
  | .xdec x _ => guardUse x
  | .xdcfg x o => guardUse x ++ gUse o.a ++ gUse o.b
  | .xwiden x o => guardUse x ++ mUse s (bits o.sub.toNat 0 1) o.a ++ kUse o.k
  | .tcfg x o => guardUse x ++ tileUse o.t
  | .tzero x o => guardUse x ++ tileUse o.t
  | .tfet x o => guardUse x ++ gUse o.a ++ gUse o.b ++ hUse o.imm
  | .trel x _ => guardUse x
  | .mma x o => guardUse x ++ operandUse o.fa o.a ++ operandUse (o.bs == 1) o.b ++ sumUse o.t
  | .mmas x o => guardUse x ++ operandUse o.fa o.a ++ stepsUse o ++ sumUse o.t
  | .mmac x o => guardUse x ++ operandUse o.fa o.a ++ gUse o.b ++ sumUse o.t
  | .tld x o => guardUse x ++ gUse o.a
  | .tst x o => guardUse x ++ gUse o.a ++ tileUse o.t
  | .trowv x o => guardUse x ++ tileUse o.t
  | .tvrow x o => guardUse x ++ mUse s (bits o.imm.toNat 10 1) (o.imm.extractLsb' 0 10)
  | .agen x o => guardUse x ++ gUse o.a ++ gUse o.b
  | .aproj x o => guardUse x ++ gUse o.a ++ gUse o.b
  | .aseek x o => guardUse x ++ gUse o.a ++ gUse o.b
  | .tswap x o => guardUse x ++ tileUse o.t ++ tileUse o.b
  | .cpy x o => guardUse x ++ gUse o.a ++ gUse o.b ++ gUse o.c ++ onlyIf (bits o.sub.toNat 0 2 != 2) (hUse o.d)
  | .cpyt x o => guardUse x ++ gUse o.a ++ gUse o.b ++ gUse o.c ++ onlyIf (bits o.sub.toNat 0 2 != 2) (hUse o.d)
  | .cfill x o => guardUse x ++ gUse o.a ++ gUse o.b ++ gUse o.c ++ onlyIf (bit o.sub.toNat 0) (hUse o.d)
  | .ctwany x o => guardUse x ++ gUse o.a
  | .ctwall x o => guardUse x ++ gUse o.a
  | .ctffr x o => guardUse x ++ gUse o.a
  | .ctclr x o => guardUse x ++ gUse o.a
  | .semsig x o => guardUse x ++ gUse o.a ++ onlyIf (bit o.sub.toNat 8) (gUse o.b)
  | .semwait x o => guardUse x ++ gUse o.a
  | .semrd x _ => guardUse x
  | .semset x o => guardUse x ++ gUse o.a
  | .screate x o => guardUse x ++ gUse o.a ++ gUse o.b ++ gUse o.c
  | .satt x o => guardUse x ++ gUse o.a
  | .sdet x o => guardUse x ++ gUse o.a
  | .sfreeze x o => guardUse x ++ gUse o.a
  | .sdrop x o => guardUse x ++ gUse o.a
  | .squery x o => guardUse x ++ gUse o.a
  | .phase x _ => guardUse x
  | .efence x _ => guardUse x
  | .csrr x _ => guardUse x
  | .csrw x o => guardUse x ++ gUse o.a
  | .csrs x o => guardUse x ++ gUse o.a
  | .csrc x o => guardUse x ++ gUse o.a
  | .trap x _ => guardUse x
  | .rfe x _ => guardUse x
  | .idle x _ => guardUse x
  | .wpset x o => guardUse x ++ watchUse o
  | .wpclr x _ => guardUse x
  | .logctlHw x o => guardUse x ++ onlyIf (logNo o == 4) (gUse o.a)
  | .logctlFlush x o => guardUse x ++ onlyIf (logNo o == 4) (gUse o.a)
  | .logctlMark x o => guardUse x ++ gUse o.a
  | .logctlDrift x o => guardUse x ++ gUse o.a
  | .halt x o => guardUse x ++ gUse o.a
  | .dstop x _ => guardUse x
  | .sstart x o => guardUse x ++ gUse o.a ++ gUse o.b
  | .lsend x o => guardUse x ++ gUse o.a ++ gUse o.b ++ gUse o.c
  | .lrecv x o => guardUse x ++ gUse o.a ++ gUse o.b ++ gUse o.c
  | .lwait x o => guardUse x ++ gUse o.a
  | .lclk x _ => guardUse x
  | .powerOn | .functionTrained _ _ | .clockResync _ | .powerClockStep _ | .thermalStepDown _ | .thermalShutdown _
  | .lifetimeCounterFlush | .readiness _ | .attest _ _ | .recordPut _ _ | .powerLimit _ _ | .dataWrite _
  | .tailWrite _ | .qcbFetchDone _ _ | .qcbFetchTimeout _ | .dataRead _ | .chunkPut _ | .qcbInvalidate _
  | .controlWrite _ | .controlRead _ | .give _ | .take _ | .map _ | .unmap _
  | .refuse _ | .noOperation _ _ | .launch _ _ | .launchAdmit _ | .slotLoad _ _ | .slotRelease _ _
  | .slotReleaseDone _ | .slotRestore _ | .kernelComplete _ | .firmwareLinkMessage _ _ | .firmwareLinkError _ | .iterationAssign _
  | .patienceExpiry _ | .segmentLoadDone _ _ | .bundleIssue _ | .stillRewriteDone _ _ | .codePageInDone _ _ | .pageReplace _ _
  | .partitionStopFreeze _ | .dumpResume _ | .dumpEndKernel _ | .secondaryBubble _ | .variableResultArrival _ _ | .leafAnswer _ _
  | .impreciseReportArrival _ | .preemptRequest _ | .watchdogExpiry _ | .partitionResume _ | .machineCheck _ | .iterationRetire _ _
  | .secondaryEnd _ | .epochClose _ | .atomicPerform _ | .commandStart _ _ | .commandComplete _ _ | .remoteSignalArrival _
  | .peerCopyArrival _ _ _ _ _ _ | .peerSignalArrival _ _ _ _ _ _ | .linkDeparture _ _ | .flitArrival _ _ _ _ _ | .linkReceiveMiss _ _ | .fmodeWrite _ _
  | .srngWrite _ _ | .skeyWrite _ _ _ | .formatWindowWrite _ _ _ | .logCsrWrite _ _ _ | .csrWrite _ _ _ | .lossOfSupply => []

/-- The operand that names an instruction's matrix destination, in the form of R18: of `XPOSE`, whose operand is a row, the first column (R252). -/
def destCode (s : State) (i : Instr) : Nat :=
  match i with
  | .vadd _ o | .vsub _ o | .vmul _ o | .vmulh _ o | .vmin _ o | .vmax _ o | .vminu _ o | .vmaxu _ o
  | .vabs _ o | .vand _ o | .vor _ o | .vxor _ o | .vshl _ o | .vshr _ o | .vsar _ o | .vfshl _ o
  | .vfshr _ o | .vclz _ o | .vpopc _ o | .vcmp _ o | .vsel _ o | .vgmaxu _ o | .fadd _ o | .fsub _ o
  | .fmul _ o | .fma _ o | .fms _ o | .fnma _ o | .fmin _ o | .fmax _ o | .fabs _ o | .fneg _ o
  | .fcmp _ o | .fdiv _ o | .fsqrt _ o | .frcp _ o | .frsq _ o | .cvtif _ o | .cvtfi _ o | .cvtfb _ o
  | .cvtbf _ o | .vredadd _ o | .vredmax _ o | .vredmaxu _ o | .vredmin _ o | .fredadd _ o | .fredmax _ o | .vbcstG _ o
  | .vbcstLane _ o | .vrotG _ o | .vrotImm _ o | .vperm _ o | .vcmpr _ o | .viota _ o | .vmovs _ o | .vins _ o
  | .kand _ o | .kor _ o | .knot _ o | .kpopc _ o => matCode (clusterOf s) o.d
  | .mvx _ o | .mvxm _ o | .mvgr _ o | .mvkKm _ o | .mvkMk _ o | .mvkGk _ o | .mvkKg _ o
  | .xcvt _ o | .xexp _ o | .xpack _ o | .xdec _ o | .xdcfg _ o | .xwiden _ o => matCode (bits o.sub.toNat 1 1) o.d
  | .xpose _ o => matCode (bits o.sub.toNat 1 1) (o.d ||| 4)
  | .lds _ o | .sts _ o | .ldsv _ o | .stsv _ o | .ldsvu _ o | .stsvm _ o | .ldsx _ o | .stsx _ o
  | .ldsm _ o | .stsm _ o | .ldg _ o | .stg _ o | .ldgv _ o | .stgv _ o | .stgvm _ o | .pfg _ o
  | .flg _ o | .aadd _ o | .afadd _ o | .amin _ o | .amax _ o | .aminu _ o | .amaxu _ o | .aand _ o
  | .aor _ o | .axor _ o | .axchg _ o | .acas _ o | .aradd _ o => matCode (bitOf o.cl) o.t
  | .trowv _ o => matCode (bits o.imm.toNat 10 1) (o.imm.extractLsb' 0 10)
  | _ => 0

/-- The code of a place that is no matrix element (R18). -/
def placeCode (l : Loc) : Nat :=
  match l with
  | .g n => fileCode 0 n
  | .p n => fileCode 1 n
  | .k n => fileCode 2 n
  | .h n => fileCode 3 n
  | .tile n => fileCode 6 n
  | .el _ _ => 0
  | .bt _ => 0
  | .fslot _ => 0

end Sys2Proof.Machine
end

