-- ==== Sys2Proof/Machine/Sequencer.lean ====
section
/-! DEFINITION. The next bundle of a context: entering a page, falling through, the tag, the parse (R66 to R76, R89, R93, R128, R374), and
where control goes after a bundle (R137, R144, R159, R161). -/
namespace Sys2Proof.Machine

/-- A trap found on the way to a bundle: cause, slot, `tval`, what the leaf is to serve, and the place B. -/
structure OnTheWay where
  cause : Nat
  slot  : Nat
  tval  : Word
  wait  : Option Wait
  page  : Nat
  home  : Nat
  off   : Nat
  deriving DecidableEq, Repr

/-- What stands where a context would issue next. -/
inductive Look where
  /-- the end page: the iteration or the secondary strand is over -/
  | ending
  | trap (t : OnTheWay)
  | bundle (q : Seq) (gelxis : Bool) (b : Bundle)
  deriving DecidableEq, Repr

/-- An anchor of a home page that names a place of its chain, as a code pointer (R75). DESIGN CHOICE (log entry 50): where several anchors name the
place, the lowest of them; R75 saves the one that the transfer named, and all of them lead to that bundle. -/
def pointerTo (s : State) (pasid home page off : Nat) : Word :=
  match codePage s pasid home with
  | none => codePointer home 0
  | some c =>
    codePointer home (((List.range (pageAnchors c.bytes)).find? (fun i =>
      match anchorPlace s pasid c (anchorWord c.bytes i) with
      | some (p, o) => p.va == page && o == off
      | none => false)).getD 0)

/-- A trap at the place of a sequencer. -/
def atSeq (q : Seq) (cause slot : Nat) (tval : Word) (w : Option Wait) : Look := .trap ⟨cause, slot, tval, w, q.page, q.home, q.off⟩

/-- A refused page on the way: a code page that is not there is the leaf's (R70). -/
def badPage (q : Seq) (e : BadTarget) : Look :=
  atSeq q e.cause 31 e.tval (if e.cause == 0x0A then some (.codePage (e.tval.toNat / 4096 * 4096)) else none)

/-- The bundle at a place of a page, by the page's tag and the stream (R73, R93). -/
def lookAt (s : State) (pasid bank : Nat) (q : Seq) (c : CodePage) : Look :=
  let tag := pageTag c.bytes
  if tag == 0x2A then atSeq q 0x04 31 (BitVec.ofNat 64 q.page) (some (.still (pointerTo s pasid q.home q.page q.off)))
  else if tag != 0x31 && tag != 0 then atSeq q 0x05 31 (BitVec.ofNat 64 q.page) none
  else if tag == 0x31 && bank == 2 then atSeq q 0x03 31 0 none
  else match parseBundle ⟨tag == 0x31, bank == 2, s.conf.features⟩ (unitAt c.bytes) q.off with
    | .error r => atSeq q r.reason.cause.toNat r.slot (BitVec.ofNat 64 (q.page + r.off)) none
    | .ok b => .bundle q (tag == 0x31) b

/-- Entering a home page by a code pointer that has passed its check. -/
def lookEnter (s : State) (pasid bank : Nat) (q : Seq) (ptr : Word) : Look :=
  let va := ptr.toNat / 4096 * 4096
  match codePage s pasid va with
  | none => .ending
  | some c =>
    if isBlf c then atSeq { q with page := va, home := va, off := ptr.toNat % 4096 } 0x04 31 (BitVec.ofNat 64 va) (some (.still ptr))
    else match anchorPlace s pasid c (anchorWord c.bytes (bits ptr.toNat 6 6)) with
      | none => badPage q ⟨0x01, BitVec.ofNat 64 va⟩
      | some (p, off) => lookAt s pasid bank { q with page := p.va, home := va, off := off, entering := false, crossing := true } p

/-- The page after the chain of a home page, entered at its anchor 0 (R69). -/
def lookNext (s : State) (pasid bank : Nat) (q : Seq) : Look :=
  let next := BitVec.ofNat 64 (q.home + 4096)
  match checkPointer s pasid next [0, 1] with
  | .error e => badPage q e
  | .ok p => lookEnter s pasid bank q p

/-- What follows the last bundle of a page (R69, R70). DESIGN CHOICE (log entry 50): R71 says what an annex satisfies, and R68 makes only a page that is
not flagged as an annex malformed here: the link of a third annex is followed as any other, and an annex with another tag or with anchors of its own is
fetched by its tag. -/
def lookThrough (s : State) (pasid bank : Nat) (q : Seq) (c : CodePage) : Look :=
  let link := pageAnnex c.bytes
  if link == 0 then lookNext s pasid bank q
  else match codePage s pasid link with
    | none => badPage q ⟨0x0A, BitVec.ofNat 64 (link + 0xFFF)⟩
    | some a =>
      if !a.present then badPage q ⟨0x0A, BitVec.ofNat 64 (link + 0xFFF)⟩
      else if annexOk s pasid a then lookAt s pasid bank { q with page := link, off := 0, crossing := true } a
      else badPage q ⟨0x01, BitVec.ofNat 64 link⟩

/-- What stands where a context of a core would issue next. A return from a trap comes to a page by a bundle address: such a page is held and checked
here, and the address in a page of a BLF unit is the code pointer it was to be entered by (R70, R74, R364). -/
def look (s : State) (core bank : Nat) : Look :=
  let x := ctxAt s core bank
  let q := x.seq
  if q.entering then
    let ptr := BitVec.ofNat 64 (q.page + q.off)
    if q.page == endPage then .ending
    else match checkPointer s x.pasid ptr [0, 1, 2, 3] with
      | .error e => badPage q e
      | .ok p => lookEnter s x.pasid bank q p
  else if q.page == endPage then .ending
  else match codePage s x.pasid q.page with
    | none => badPage q ⟨0x0A, BitVec.ofNat 64 (q.page + 0xFFF)⟩
    | some c =>
      if !c.present then badPage q ⟨0x0A, BitVec.ofNat 64 (q.page + 0xFFF)⟩
      else if isBlf c then atSeq q 0x04 31 (BitVec.ofNat 64 q.page) (some (.still (BitVec.ofNat 64 (q.page + q.off))))
      else if !c.checked && !trailerOk s x.pasid c (q.page != q.home) then badPage q ⟨0x01, BitVec.ofNat 64 q.page⟩
      else if q.off ≥ pageLength c.bytes then lookThrough s x.pasid bank q c
      else lookAt s x.pasid bank q c

/-! ### After a bundle -/

/-- A base one lower modulo 64 (R144). -/
def rotated (b : Nat) : Nat := (b + 63) % 64

/-- The loop-back of the top entry when this bundle is the last of its body (R144, R159). -/
def loopBack (s : State) : State :=
  match (me s).seq.loops with
  | [] => s
  | e :: r =>
    if bodyLast (curBytes s) e != s.cur.off then s
    else if e.index + 1 < e.count then
      modMe s (fun x => { x with rba := rotated x.rba, rbb := rotated x.rbb
                                 seq := { x.seq with off := e.start, loops := { e with index := e.index + 1 } :: r } })
    else modMe s (fun x => { x with seq := { x.seq with loops := r } })

/-- Where control goes after the running bundle (R137, R159). DESIGN CHOICE (log entry 56): a taken `BT` in the loop-back bundle of a body sends control to its
target as R164 says, without the step of the loop, as R159 says of `LEXIT`. -/
def sequence (s : State) : State :=
  match s.cur.pend0 with
  | some p =>
    if p.delays ≤ 1 then goTo s p.target
    else modMe s (fun x => { x with seq := { x.seq with pend := some { p with delays := p.delays - 1 } } })
  | none => if s.cur.moved then s else loopBack s

end Sys2Proof.Machine
end

