-- ==== Sys2Proof/Machine/Issue.lean ====
section
/-! DEFINITION. One wall cycle of a core: which bundles issue, what stalls or interlocks them, which cause decides, and what follows the issue
of a bundle (R125 to R145, R153, R170, R268, R288, R346 to R350, R355, R379 to R387). The instructions of a bundle run through a meaning
that `step` supplies. -/
namespace Sys2Proof.Machine

/-! ### The pipelines of a cycle (R126, R133, R135) -/

/-- A primary context holds the SM slot in the cycle that ends now (R126): with a multi-cycle instruction, or with what it issued in that cycle, which is
none in which it waited. -/
def smOf (x : Ctx) : Bool := x.flights.any (fun f => f.slot == 2 && f.age < f.occ && (0 < f.age || 1 < f.occ || x.stall.1 == 0))

/-- A primary instruction holds the SM slot in the cycle that ends now. -/
def smHeld (c : Core) : Bool := smOf c.b0 || smOf c.b1

/-- The results of a core that advance with the wall clock. -/
def wallMoves (c : Core) (bank : Nat) (f : Flight) : Bool :=
  f.wall && !(ctxIn c bank).swapped && !(bank == 2 && f.slot == 2 && f.occ > 1 && smHeld c)

/-- Wall-clock pipelines one cycle on. -/
def tickWalls (s : State) (core : Nat) : State := tickCore s core (wallMoves (coreAt s core))

/-- Wall-clock pipelines one cycle on together with the schedule pipelines of a context (R133): what lands in one cycle lands in one order (R304). -/
def tickBoth (s : State) (core bank : Nat) : State :=
  tickCore s core (fun b f => wallMoves (coreAt s core) b f || (b == bank && !f.wall))

/-- A schedule cycle of a context: the decoder's spacing and the deferred causes (R258, R346). -/
def advanceClock (x : Ctx) : Ctx :=
  { x with dec := x.dec.map (fun d => { d with since := d.since + 1 }), deferred := x.deferred.map (fun r => { r with due := r.due - 1 }) }

/-! ### Waits, stalls and their records (R379, R383, R387) -/

/-- The trace record of a wait (R379). -/
def traceWord (cause cycles : Nat) (scyc : Word) : Word :=
  BitVec.ofNat 64 (pack [(32, scyc.toNat), (20, min cycles (2 ^ 20 - 1)), (8, cause), (4, 0xA)])

/-- A whole-core stall: late result, landing buffer, machine-wide (R134, R85). -/
def wholeCore (cause : Nat) : Bool := 1 ≤ cause && cause ≤ 3

/-- The trace records that a context owes go to log 0 when there is room for them all; otherwise they stay owed (R380). -/
def payTraces (s : State) (core bank : Nat) : State :=
  let ws := (ctxAt s core bank).traces
  if ws.isEmpty || recordFull s core bank 0 ws.length then s
  else modCtx (record s core bank 0 ws) core bank (fun x => { x with traces := [] })

/-- The wait of a context ends: the stall histogram, and a trace record while trace is armed. -/
def endWait (s : State) (core bank : Nat) : State :=
  let x := ctxAt s core bank
  let n := x.stall.1
  if n == 0 then payTraces s core bank
  else
    let s := if wholeCore x.stall.2 then bump s (0x1D0 + min 15 (Nat.log2 n)) 1 else s
    payTraces (modCtx s core bank (fun x =>
      { x with stall := (0, 0), traces := if x.trace then x.traces ++ [traceWord x.stall.2 n x.scyc] else x.traces })) core bank

/-- One more wall cycle of a wait with a cause of R379. -/
def waitOne (s : State) (core bank cause : Nat) : State :=
  let x := ctxAt s core bank
  let s := if x.stall.1 != 0 && x.stall.2 != cause then endWait s core bank else s
  modCtx s core bank (fun x => { x with stall := (x.stall.1 + 1, cause) })

/-! ### Sources and slots (R131, R134, R135, R86) -/

/-- A place of a result in flight that is not due when it would be read. -/
def notDue (delay : Nat) (l : Loc) (f : Flight) : Bool :=
  f.dests.any (fun d => d.1 == l && (f.age + delay < d.2 || (f.var && !f.arrived)))

/-- A use meets a result in flight of a kind. -/
def useMeets (x : Ctx) (kind : Use → Flight → Bool) (u : Use) : Bool :=
  x.flights.any (fun f => kind u f && u.locs.any (fun l => notDue u.delay l f))

/-- A use is held up by a result in flight, unless both are accumulations, which follow each other in the array (R267). -/
def holdsUp (u : Use) (f : Flight) : Bool :=
  !(u.chain && (match f.late with
    | .mma _ | .idleArray => true
    | _ => false))

/-- Some instruction of a bundle reads a result in flight of a kind. -/
def readsFlying (s : State) (jobs : List Job) (kind : Use → Flight → Bool) : Bool :=
  !(me s).flights.isEmpty && jobs.any (fun j =>
    (usesOf { s with cur := { s.cur with slot := j.slot } } j.instr).any (useMeets (me s) kind))

/-- A translation on its way to a handle, under a true or a false guard (R130, R135). -/
def isWalk (f : Flight) : Bool := 2 ≤ f.last && f.dests.any (fun d => match d.1 with | .h _ => true | _ => false)

/-- The slots that the primary instructions of a core still occupy (R125). -/
def busySlots (c : Core) : List Nat :=
  ((c.b0.flights ++ c.b1.flights).filter (fun f => f.age < f.occ && (0 < f.age || 1 < f.occ))).map (fun f => f.slot)

/-- A multi-cycle instruction of the context still occupies a slot (R153, R170, R207, R251, R267). -/
def slotBusy (x : Ctx) (n : Nat) : Bool := x.flights.any (fun f => 0 < f.age && f.slot == n && f.age < f.occ)

/-- Schedule checking is on: chk, in a Gelxis page (R131). -/
def checking (s : State) : Bool := s.cur.gelxis && bit (me s).icfg.toNat 0

/-- A matrix element. -/
def isElement (l : Loc) : Bool :=
  match l with
  | .el _ _ => true
  | _ => false

/-- The code of the destination of a result in flight at a place due at an age (R131, R18): of a form of several rows, the row by its due cycle. -/
def flightCode (f : Flight) (d : Loc × Nat) : Nat :=
  if isElement d.1 then
    let first := ((f.dests.find? (fun e => isElement e.1)).map (fun e => e.2)).getD d.2
    f.code - bits f.code 4 6 * 16 + (bits f.code 4 6 + (d.2 - first)) % 64 * 16
  else placeCode d.1

/-- The destination in flight that a use meets before it is due. -/
def metBy (x : Ctx) (u : Use) : Option Nat :=
  firstSome (x.flights.map (fun f =>
    if !holdsUp u f then none
    else (f.dests.find? (fun d => u.locs.contains d.1 && notDue u.delay d.1 f)).map (flightCode f)))

/-- The schedule error of an instruction before it runs: its slot is occupied, or it reads a result before its due cycle. -/
def scheduleError (s : State) (i : Instr) : Option Word :=
  if s.cur.bank == 2 then none
  else if slotBusy (me s) s.cur.slot then some 0
  else if !checking s then none
  else (firstSome ((usesOf s i).map (metBy (me s)))).map (BitVec.ofNat 64)

/-- The earlier write in flight to the same place at or before whose due cycle a write lands (R131): `fs` are the results in flight, those of the
lower slots of the bundle among them. -/
def writesEarly (fs : List Flight) (d : Loc × Nat) : Option Nat :=
  firstSome (fs.map (fun f =>
    if f.buffered then none else (f.dests.find? (fun e => e.1 == d.1 && f.age < e.2 && d.2 + f.age ≤ e.2)).map (flightCode f)))

/-- What an instruction put in flight, with the code of its matrix destination: `s` is the state in which it ran and `t` the state after it. -/
def newFlights (s t : State) (i : Instr) : List Flight :=
  ((me t).flights.filter (fun f => s.nextId ≤ f.id)).map (fun f => { f with code := destCode s i })

/-- The schedule error of the writes `fs` of an instruction, after those of the lower slots of its bundle. -/
def writeError (s : State) (before fs : List Flight) : Option Word :=
  if s.cur.bank == 2 || !checking s then none
  else (firstSome ((fs.flatMap (fun f => f.dests)).map (writesEarly ((me s).flights ++ before)))).map (BitVec.ofNat 64)

/-- `XDEC` with chk clear stalls the core until its block has been read (R258); the schedule is to advance by `n` before it issues. -/
def decoderWaits (s : State) (n : Nat) (jobs : List Job) : Bool :=
  match (me s).dec with
  | none => false
  | some d => !bit (me s).icfg.toNat 0 && d.since + n < spacing d && jobs.any (fun j => match j.instr with
    | .xdec x _ => guardOn s x
    | _ => false)

/-! ### The landing buffer (R85, R86) -/

/-- Entries that a result takes: one for each register or tile, one for each row of matrix elements. -/
def entriesOf (f : Flight) : Nat :=
  let open_ := f.dests.filter (fun d => f.age < d.2 || (f.var && !f.arrived))
  let els := (open_.filter (fun d => match d.1 with | .el _ _ => true | _ => false)).map (fun d => d.2)
  (open_.filter (fun d => match d.1 with | .el _ _ => false | _ => true)).length + els.eraseDups.length

/-- Entries that results in flight take. -/
def entries (fs : List Flight) : Nat := (fs.map entriesOf).foldl (fun a b => a + b) 0

/-- Entries that the landing buffer of a core needs when a context of it crosses a page edge: its results in flight, and what is buffered for the other
contexts. -/
def entriesAt (c : Core) (bank : Nat) : Nat :=
  (([0, 1, 2].map (fun b => entries (if b == bank then (ctxIn c b).flights else (ctxIn c b).flights.filter (fun f => f.buffered))))).foldl (fun a b => a + b) 0

/-- At a page edge every result in flight goes on in wall time. -/
def crossEdge (x : Ctx) : Ctx := { x with flights := x.flights.map (fun f => { f with wall := true }) }

/-- The results in flight are captured. -/
def capture (x : Ctx) : Ctx := { x with flights := x.flights.map (fun f => { f with buffered := true }) }

/-- The places that the results of the running bundle write. -/
def newPlaces (x : Ctx) : List Loc :=
  (x.flights.filter (fun f => f.age == 0 && (!f.writes.isEmpty || (f.late != .none && f.late != .idleArray)))).flatMap
    (fun f => f.dests.map (fun d => d.1))

/-- A buffered result whose destination a new instruction writes is discarded (R86): the place is struck from its flight, whose landings heed that
whenever they are formed. -/
def discardBuffered (x : Ctx) : Ctx :=
  if x.flights.all (fun f => !f.buffered) then x
  else
    let ls := newPlaces x
    { x with flights := x.flights.map (fun f => if f.buffered then { f with dests := f.dests.filter (fun d => !ls.contains d.1) } else f) }

/-! ### Preemption and drain points (R145, R356) -/

/-- The partition of a context is being pre-empted (R356), or halted by a link error (R42). -/
def preempting (s : State) (x : Ctx) : Bool := (partAt s x.part).halt == .preempting || (partAt s x.part).halt == .halted

/-- The kernel of a partition is ending under R354. -/
def endingKernel (s : State) (part : Nat) : Bool :=
  match (partAt s part).kernel with
  | some k => k.report.isSome
  | none => false

/-- A pre-empted context goes to shadow storage, or is discarded with its kernel (R354, R356). -/
def setAside (s : State) (core bank : Nat) : State :=
  if endingKernel s (ctxAt s core bank).part then discardCtx s core bank else modCtx s core bank (fun x => { x with swapped := true })

/-- The conditions of a drain point (R145). -/
def honoured (s : State) (core bank : Nat) : Bool :=
  let x := ctxAt s core bank
  x.flights.isEmpty && x.seq.pend.isNone && (coreAt s core).cmds.all (fun c => c.bank != bank || c.started)

/-- A context that is pre-empted at once: parked or standby, or the secondary at a bundle boundary with nothing in flight (R356). -/
def asideNow (s : State) (core bank : Nat) : Bool :=
  let c := coreAt s core
  let x := ctxIn c bank
  preempting s x && !x.swapped && (match x.life with
    | .empty | .discarded => false
    | .parked _ => true
    | .ready | .refused _ _ _ | .ending => if bank == 2 then x.flights.isEmpty else bank != c.active)

/-- The contexts of a core that can be pre-empted at once are. -/
def asideAll (s : State) (core : Nat) : State :=
  [0, 1, 2].foldl (fun s b => if asideNow s core b then setAside s core b else s) s

/-! ### Causes before the bundle (R348, R350, R384) -/

/-- The place B of what a context meets next. -/
def lookPlace (x : Ctx) (l : Look) : Nat × Nat × Nat :=
  match l with
  | .ending => (x.seq.page, x.seq.home, x.seq.off)
  | .trap t => (t.page, t.home, t.off)
  | .bundle q _ _ => (q.page, q.home, q.off)

/-- Trap 0x20 for a log (R380). -/
def logTrap (s : State) (core bank log slice slot : Nat) (ws : List Word) (p : Nat × Nat × Nat) : State :=
  trapAt s core bank 0x20 slot (BitVec.ofNat 64 (log + 256 * slice)) .precise (some (.log log slice ws)) p.1 p.2.1 p.2.2

/-- What becomes of the pending imprecise reports at a boundary (R348, R381). -/
inductive ReportTurn where
  | nothing
  | hold
  | take (r : Report)
  | diverge
  deriving DecidableEq, Repr

/-- The turn of the first pending report: at once, or in replay that of the logged one at the logged `scyc`; a log that is used up or holds a record of no kind
diverges (R382). -/
def reportTurn (s : State) (core bank : Nat) : ReportTurn :=
  let x := ctxAt s core bank
  if inhibited x then .nothing
  else if readsLog s core bank 3 then
    match nextWord s core bank 3 0 with
    | none => if x.reports.isEmpty then .nothing else .diverge
    | some w =>
      if bits w.toNat 60 4 == 0 || 0xB ≤ bits w.toNat 60 4 then .diverge
      else if bits w.toNat 60 4 == 4 && bits w.toNat 58 2 == bank && bits w.toNat 0 48 == x.scyc.toNat % 2 ^ 48 then
        match x.reports.find? (fun r => r.cause == bits w.toNat 48 8 && nextWord s core bank 3 1 == some r.tval) with
        | none => .hold
        | some r => .take r
      else .nothing
  else match x.reports with
    | [] => .nothing
    | r :: _ => .take r

/-- A pending imprecise report is taken (R348, R379, R386): its record on log 3, then the trap. -/
def takeReport (s : State) (core bank : Nat) (r : Report) (p : Nat × Nat × Nat) : State :=
  if recordFull s core bank 3 2 then logTrap s core bank 3 0 31 [] p
  else
    let word := stampWord 4 bank r.cause (ctxAt s core bank).scyc
    let s := if readsLog s core bank 3 then consumeRecord s core bank 3 else record s core bank 3 [word, r.tval]
    let s := modCtx s core bank (fun x =>
      { x with reports := x.reports.erase r, wpinfo := if r.cause == 0x22 then r.wp else x.wpinfo })
    trapAt s core bank r.cause r.slot r.tval .imprecise none p.1 p.2.1 p.2.2

/-- The first deferred cause that is due (R346), and the first record of log 1, 4 or 5 that did not fit: it comes to its context the same way, and is taken
after the causes of the bundle's slots (R350, step 6; R380). -/
def dueCause (x : Ctx) : Option Report := x.deferred.find? (fun r => r.due == 0 && r.cause != 0x20)
def dueRecord (x : Ctx) : Option Report := x.deferred.find? (fun r => r.due == 0 && r.cause == 0x20)

/-- A deferred cause is taken; of a record that did not fit, `wp` holds that of log 1, and the number of the refused atomic of log 4 (R380). -/
def takeDeferred (s : State) (core bank : Nat) (r : Report) (p : Nat × Nat × Nat) : State :=
  let s := modCtx s core bank (fun x => { x with deferred := x.deferred.erase r })
  if r.cause == 0x20 then
    logTrap s core bank (bits r.tval.toNat 0 8) (bits r.tval.toNat 8 9) r.slot (if r.wp = 0 then [] else [r.wp]) p
  else trapAt s core bank r.cause r.slot r.tval .deferred none p.1 p.2.1 p.2.2

/-- A breakpoint of a primary context names what it is about to issue (R384), before anything of it is judged (R350): kind 0 by `scyc`, kind 1 by
address. -/
def breakpoint (s : State) (bank : Nat) (x : Ctx) (l : Look) : Option Nat :=
  if bank == 2 || x.skipBreak || !stopsOn s x.part || l == .ending then none
  else
    let b := x.bkps.toNat
    let a := x.bkpa.toNat
    let p := lookPlace x l
    if bit b 63 && bits b 0 48 == x.scyc.toNat % 2 ^ 48 then some 0
    else if bit a 0 && a - 1 == p.1 + p.2.2 then some 1
    else none

/-! ### Replay of the issue order (R381) -/

/-- The issue run that log 2 allows now: read when the one before it is used up. `none` in the pair's second part means the log is exhausted or
holds another record. -/
def replayRun (s : State) (core bank : Nat) : State × Option (Nat × Nat × Nat) :=
  match (coreAt s core).run with
  | some r => (s, some r)
  | none =>
    match nextWord s core bank 2 0 with
    | none => (s, none)
    | some w =>
      let w := w.toNat
      if bits w 60 4 != 2 then (s, none)
      else
        let r := (bits w 58 2, bits w 57 1, bits w 0 32)
        let s := consumeRecord s core bank 2
        (setCore s core { coreAt s core with run := some r }, some r)

/-- Whether a replayed run lets a stream issue; a diverged log answers none. Where both are to issue, the secondary does so after the primary, `p` saying
whether that goes. -/
def replayLets (s : State) (core bank : Nat) (p : Bool) : State × Option Bool :=
  if !readsLog s core bank 2 then (s, some true)
  else match replayRun s core bank with
    | (s, none) => (s, none)
    | (s, some r) =>
      (s, some (if bank == 2 then r.1 == 2 || (r.1 == 3 && p) else (r.1 == 1 || r.1 == 3) && r.2.1 == bank))

/-! ### Opening a cycle (R125) -/

/-- The issue register of a core with nothing latched. -/
def idleCur (core bank : Nat) : Cur := { Cur.reset with core := core, bank := bank }

/-- The instructions of a bundle; an empty bundle is a `NOP`, which takes no slot (R89). -/
def jobsOf (q : Seq) (b : Bundle) : List Job :=
  match b.words with
  | [] => [{ slot := 31, off := q.off, instr := .nop }]
  | ws => ws.map (fun w => { slot := w.slot, off := w.off, instr := w.instr })

/-- The issue register points at a context, with what it would issue. -/
def aimCur (core bank : Nat) (l : Look) : Cur :=
  match l with
  | .bundle q gelxis b =>
    { idleCur core bank with
      page := q.page, home := q.home, off := q.off, size := b.size, gelxis := gelxis, drain := b.drain, pend0 := q.pend
      jobs := jobsOf q b, word := q.off }
  | _ => idleCur core bank

/-- The bundle is latched: the sequencer stands after it, its page is checked (R68). -/
def latch (s : State) (core bank : Nat) (l : Look) : State :=
  match l with
  | .bundle q _ b =>
    let s := modCtx s core bank (fun x => { x with seq := { q with off := q.off + b.size, crossing := false } })
    let pasid := (ctxAt s core bank).pasid
    let s := markChecked (markChecked s pasid q.home) pasid q.page
    { s with cur := { aimCur core bank l with out := .ran } }
  | _ => s

/-- In replay log 2 says which bank has the primary stream (R376): the other bank takes it when its run has come and it can issue, as at a switch (R355), once what
the active one has in flight can land. -/
def replayBank (s : State) (core : Nat) : State :=
  let a := (coreAt s core).active
  if (coreAt s core).frozen || !readsLog s core a 2 then s
  else match replayRun s core a with
    | (s, some r) =>
      if r.1 != 2 && r.2.1 == 1 - a && canIssue (ctxAt s core r.2.1) && !drainWaits s core a then
        let s := drain s core a
        setCore s core { coreAt s core with active := r.2.1, hold := 8 }
      else s
    | (s, none) => s

/-- A wall cycle of a core begins (R136): its clock, the holds of a switch and of a start, the contexts that are pre-empted at once, and which
context takes the primary stream. -/
def startCycle (s : State) (core : Nat) : State :=
  let c := coreAt s core
  let s := asideAll (setCore s core
    { c with wcyc := c.wcyc + 1, stale := [], heard := [], hold := c.hold - 1, secHold := c.secHold - 1 }) core
  replayBank (setCore s core (settleActive (coreAt s core))) core

/-- A refused context enters its handler when it next takes its stream (R355, R62). -/
def enterRefused (s : State) (core bank cause slot : Nat) (tval : Word) : State :=
  let s := modCtx s core bank (fun x => { x with life := .ready, tcause := tcauseOf cause slot .precise, tval := tval })
  enterHandler s core bank cause slot

/-- A context is at the end of its iteration or strand, and retires (R374, R128). -/
def beginEnding (s : State) (core bank : Nat) : State := modCtx s core bank (fun x => { x with life := .ending })

/-- A wait or stall of a stream: nothing is latched. -/
def noIssue (s : State) (core bank cause : Nat) (whole : Bool) : State :=
  let s := waitOne s core bank cause
  { s with cur := { idleCur core bank with stalled := whole } }

/-- The result of an atomic that was refused at its slice (R380): it comes when the leaf has served its due bundle. -/
def isRefused (s : State) (f : Flight) : Bool := s.atomics.any (fun a => a.refused && a.flight == f.id)

/-- A late variable result of the schedule, which is to advance by `n` (R134): the core stalls from the start of its due cycle. -/
def lateResult (s : State) (n : Nat) : Bool :=
  (me s).flights.any (fun f => f.var && !f.arrived && !f.wall && f.last ≤ f.age + n && !isRefused s f)

/-- The landing buffer stalls the core before the bundle that the issue register points at: more results in flight at a page edge than it can hold, or a
read of a result that it holds or is about to capture (R85, R86). -/
def bufferStalls (s : State) (l : Look) : Bool :=
  match l with
  | .bundle q _ _ =>
    (q.crossing && entriesAt (myCore s) s.cur.bank > 16) || readsFlying s s.cur.jobs (fun _ f => f.buffered || q.crossing)
  | _ => false

/-- The landing buffer stalls the core before the secondary's bundle. -/
def secondaryStalls (s : State) (core : Nat) : Bool :=
  let c := coreAt s core
  if c.sec.life != .ready || c.secHold != 0 || c.sec.swapped then false
  else
    let l := look s core 2
    bufferStalls { s with cur := aimCur core 2 l } l

/-- What stalls the whole core before the primary's bundle, by its cause of R379: a late result or a translation (R134, R135), the landing buffer on
either stream (R85, R86). The schedule is to advance by `n` for the bundle. -/
def stallCause (s : State) (n : Nat) (l : Look) : Option Nat :=
  match l with
  | .bundle _ gelxis _ =>
    if gelxis && lateResult s n then some 1
    else if bufferStalls s l || secondaryStalls s s.cur.core then some 2
    else if readsFlying s s.cur.jobs (fun _ f => isWalk f) then some 1
    else if gelxis && decoderWaits s n s.cur.jobs then some 1
    else none
  | _ => if secondaryStalls s s.cur.core then some 2 else none

/-- A trap on the way to a bundle. -/
def takeOnTheWay (s : State) (core bank : Nat) (t : OnTheWay) : State :=
  trapAt s core bank t.cause t.slot t.tval .precise t.wait t.page t.home t.off

/-- Nothing is latched, because a trap was taken. -/
def trappedAt (s : State) (core bank : Nat) : State := { s with cur := { idleCur core bank with out := .trapped } }

/-- The cause of R379 of a wait for a drain: a late result (R134), or the turn of an atomic in replay (R381). -/
def drainCause (s : State) (core bank : Nat) : Nat := if homesOwed s core bank then 1 else 5

/-- A trap of a context on the way to its bundle. It waits while something that its drain is to await cannot be had (R347, R381, R395). -/
def trapOr (s : State) (core bank : Nat) (t : State → State) : State :=
  if drainWaits s core bank then noIssue s core bank (drainCause s core bank) false else trappedAt (t (endWait s core bank)) core bank

/-- Replay of a context has diverged in a log (R382). -/
def divergeAt (s : State) (core bank : Nat) (v : Word) (p : Nat × Nat × Nat) : State :=
  trappedAt (trapAt s core bank 0x23 31 v .precise none p.1 p.2.1 p.2.2) core bank

/-- The refresh of an iteration's start (R319, R320): it takes its place and its record before the first bundle. While its record does not fit it is still to be
made, and the bundle is judged without it (R350, step 6). -/
def startBoundary (s : State) (core bank : Nat) (p : Nat × Nat × Nat) (k : State → State) : State :=
  if !(ctxAt s core bank).starting then k s
  else if !gclkMoves s || epochPending s then noIssue s core bank 5 false
  else if recordFull s core bank 5 1 then k s
  else match boundaryGate s core bank 3 bank ((ctxAt s core bank).scyc.toNat % 2 ^ 48) with
    | .hold => noIssue s core bank 5 false
    | .diverge v => divergeAt s core bank v p
    | .go s _ =>
      let place := corePlace s core bank
      k (modCtx (refresh (takePlace s place) core bank 3 place) core bank (fun x => { x with starting := false }))

/-- A pre-empted context is at a point where it can be set aside (R145, R356): a drain point that is honoured, on the secondary stream any boundary with
nothing in flight. -/
def asideHere (s : State) (core bank : Nat) : Bool :=
  preempting s (ctxAt s core bank)
    && (if bank == 2 then (ctxAt s core 2).flights.isEmpty else s.cur.drain && honoured s core bank)

/-- The boundary before a bundle of a context whose pipelines have advanced (R350, steps 2 to 4): a pre-emption, a deferred or imprecise cause, a
trap on the way, an interlock, or the bundle latched. -/
def boundary (s : State) (core bank : Nat) (l : Look) : State :=
  let x := ctxAt s core bank
  let p := lookPlace x l
  if l == .ending then { beginEnding s core bank with cur := idleCur core bank }
  else if asideHere s core bank then { setAside s core bank with cur := idleCur core bank }
  else match dueCause x with
    | some r => trapOr s core bank (fun s => takeDeferred s core bank r p)
    | none =>
      match reportTurn s core bank with
      | .take r => trapOr s core bank (fun s => takeReport s core bank r p)
      | .hold => noIssue s core bank 5 false
      | .diverge => divergeAt s core bank (divergence s core bank 3) p
      | .nothing => startBoundary s core bank p (fun s =>
        match l with
        | .ending => s
        | .trap t => trapOr s core bank (fun s => takeOnTheWay s core bank t)
        | .bundle q gelxis _ =>
          match (dueRecord x).filter (fun _ => readsFlying s s.cur.jobs (fun _ f => isRefused s f)) with
          | some r => trapOr s core bank (fun s => takeDeferred s core bank r p)
          | none =>
          if !gelxis && readsFlying s s.cur.jobs holdsUp then noIssue s core bank 7 false
          else latch (if q.crossing then modCtx s core bank capture else s) core bank l)

/-- A deferred cause falls due within `n` schedule cycles. -/
def dueWithin (s : State) (core bank n : Nat) : Bool := (ctxAt s core bank).deferred.any (fun r => r.due ≤ n && r.cause != 0x20)

/-- A report is taken now, or its log has diverged: whichever stream replay lets issue (R381). -/
def reportTurns (s : State) (core bank : Nat) : Bool :=
  match reportTurn s core bank with
  | .take _ | .diverge => true
  | _ => false

/-- A cause is waiting that no stall holds back. -/
def causeWaits (s : State) (core bank n : Nat) : Bool :=
  dueWithin s core bank n || reportTurns s core bank

/-- The page of what a context meets is a Gelxis page. -/
def inGelxis (l : Look) : Bool :=
  match l with
  | .bundle _ g _ => g
  | _ => false

/-- A wall cycle of a core in which a context of it does not issue. In a neutral page its clock runs on (R133). -/
def waitCycle (s : State) (core bank : Nat) (l : Look) : State :=
  let s := tickWalls s core
  if inGelxis l then s else modCtx s core bank advanceClock

/-- Replay lets the stream go on to the end of its iteration or strand, and otherwise as its issue run says (R381). -/
def replayTurn (s : State) (core bank : Nat) (p : Bool) (l : Look) : State × Option Bool :=
  if l == .ending then (s, some true) else replayLets s core bank p

/-- The schedule advances for the bundle that is to issue: once, however often the bundle is tried (R5, R133). -/
def advanceSchedule (s : State) (core bank : Nat) : State :=
  modCtx (tickBoth s core bank) core bank (fun x => { advanceClock x with ticked := true })

/-- The primary stream of a cycle of a context that may issue: `s` is the state before the cycle's landings. The schedule pipelines move only when the bundle
is about to issue, or a cause is taken at it (R133). -/
def openReady (s : State) (core bank : Nat) : State :=
  let l := look s core bank
  let gelxis := inGelxis l
  let edge := match l with
    | .bundle q _ _ => q.crossing
    | _ => false
  let s := { (if edge then modCtx s core bank crossEdge else s) with cur := aimCur core bank l }
  let owes := gelxis && !(ctxAt s core bank).ticked
  match breakpoint s bank (ctxAt s core bank) l with
  | some k =>
    let s := modCtx (stopCore (waitCycle s core bank l) core bank k) core bank (fun x => { x with skipBreak := true })
    { s with cur := idleCur core bank }
  | none =>
    match replayTurn s core bank true l with
    | (s, none) => divergeAt s core bank (divergence s core bank 2) (lookPlace (ctxAt s core bank) l)
    | (s, some false) =>
      let w := waitCycle s core bank l
      if reportTurns w core bank then boundary w core bank l else noIssue w core bank 5 false
    | (s, some true) =>
      let w := waitCycle s core bank l
      let n := bitOf owes
      match (if causeWaits w core bank n then none else stallCause w n l) with
      | some c =>
        -- the decoder goes on reading while the core waits for it (R258)
        let dec := fun (x : Ctx) => { x with dec := x.dec.map (fun d => { d with since := d.since + 1 }) }
        noIssue (if decoderWaits w n w.cur.jobs then modCtx w core bank dec else w) core bank c true
      | none =>
        if reportTurn w core bank == .hold && !dueWithin w core bank n then noIssue w core bank 5 false
        else boundary (if owes then advanceSchedule s core bank else w) core bank l

/-- The primary stream of a cycle (R125). -/
def openPrimary (s : State) (core : Nat) : State :=
  let c := coreAt s core
  let x := ctxIn c c.active
  let idle := fun (s : State) => { tickWalls s core with cur := idleCur core c.active }
  if c.hold != 0 || x.swapped then idle s
  else match x.life with
    | .ready =>
      if c.bubble then noIssue (waitCycle s core c.active (look s core c.active)) core c.active 4 false
      else openReady s core c.active
    | .refused cause tval slot =>
      let s := enterRefused (tickWalls s core) core c.active cause slot tval
      { s with cur := { idleCur core c.active with out := .trapped } }
    | _ => idle s

/-- `BUNDLE_ISSUE` (R125): a wall cycle of the core whose turn it is begins; the primary's next bundle is latched if it may issue. `step` runs
what was latched. The reports that have been on their way long enough reach the core first (R304, R385). A frozen core does nothing but count, which is a machine-wide
stall of its active context, or of its secondary one where that alone runs (R357, R379, R384). -/
def execBundleIssue (core : Nat) (s : State) : Answer :=
  if core != s.turn then .next s
  else
    let s := startCycle (landReports s core) core
    let c := coreAt s core
    let s := if !c.frozen then openPrimary s core
      else if (ctxIn c c.active).life == .ready then noIssue s core c.active 3 false
      else if c.sec.life == .ready then noIssue s core 2 3 false
      else { s with cur := idleCur core c.active }
    .next { s with issued := true }

/-! ### The secondary's bundle (R125 to R129) -/

/-- The collision count of R129. -/
def setCollide (s : State) (core n : Nat) : State := setCore s core { coreAt s core with collide := n }

/-- The secondary's stream with nothing latched. -/
def secondaryRests (s : State) (core : Nat) : State := { setCollide s core 0 with cur := idleCur core 2 }

/-- The secondary stream of a cycle: `mask` holds the slots of the primary's bundle, if one issued, `p` says whether replay lets the secondary go with the
primary. -/
def openSecondary (s : State) (core : Nat) (p : Bool) (mask : List Nat) : State :=
  let c := coreAt s core
  if c.secHold != 0 || c.sec.swapped || c.frozen then secondaryRests s core
  else match c.sec.life with
    | .refused cause tval slot => secondaryRests (enterRefused s core 2 cause slot tval) core
    | .ready =>
      let s := modCtx s core 2 advanceClock
      let l := look s core 2
      let edge := match l with
        | .bundle q _ _ => q.crossing
        | _ => false
      let s := { (if edge then modCtx s core 2 crossEdge else s) with cur := aimCur core 2 l }
      match replayTurn s core 2 p l with
      | (s, none) => secondaryRests (divergeAt s core 2 (divergence s core 2 2) (lookPlace (ctxAt s core 2) l)) core
      | (s, some false) => if reportTurns s core 2 then setCollide (boundary s core 2 l) core 0 else noIssue s core 2 5 false
      | (s, some true) =>
        if !causeWaits s core 2 0 && bufferStalls s l then noIssue (setCollide s core 0) core 2 2 false
        else
          let t := boundary s core 2 l
          if t.cur.out == .ran && t.cur.jobs.any (fun j => mask.contains j.slot || (busySlots (coreAt t core)).contains j.slot) then
            { setCollide s core (c.collide + 1) with cur := idleCur core 2 }
          else setCollide t core 0
    | _ => secondaryRests s core

/-! ### Judging a bundle (R350, steps 5 to 8) -/

/-- A meaning for instructions, as `step` supplies it. -/
abbrev Meaning := Instr → State → Answer

/-- The issue register points at one instruction of the bundle. -/
def aim (s : State) (j : Job) : State := { s with cur := { s.cur with slot := j.slot, word := j.off, out := .ran } }

/-- What the lower slots of a bundle will have done, for the judgement of the next: results put in flight, and tags taken. -/
structure Sofar where
  flights : List Flight
  tags    : List Nat

/-- How a bundle was judged. -/
inductive Verdict where
  | go (b : Sofar)
  | hold (s : State)
  | trap (s : State)
  | stuck (a : Answer)

/-- `TRAP` takes effect after its bundle (R350, step 9). -/
def isTrap (i : Instr) : Bool :=
  match i with
  | .trap _ _ => true
  | _ => false

/-- The tag that a copy or a link transfer takes (R298). -/
def tagTaken (s : State) (i : Instr) : Option Nat :=
  match i with
  | .cpy x o | .cpyt x o | .cfill x o => if guardOn s x then some o.tag.toNat else none
  | .lsend x o | .lrecv x o => if guardOn s x then some (lkTag o) else none
  | _ => none

/-- The instruction names a tag that a lower slot of its bundle takes: trap 0x1D, reason 0x01 (R298, R300). -/
def tagClash (s : State) (b : Sofar) (i : Instr) : Option Nat := (tagTaken s i).filter (fun n => b.tags.contains n)

/-- One instruction judged on the state before its bundle, after the lower slots. -/
def judgeOne (run : Meaning) (s : State) (b : Sofar) (j : Job) : Verdict :=
  let a := aim s j
  match scheduleError a j.instr, tagClash a b j.instr with
  | some v, _ => .trap (trap a 0x03 v)
  | none, some n => .trap (trapBad a (cmdBad n 1) 0)
  | none, none =>
    if isTrap j.instr then .go b
    else match run j.instr a with
      | .next t =>
        if t.cur.out == .trapped then .trap t
        else if t.cur.out == .blocked then .hold t
        else
          let fs := newFlights a t j.instr
          (match writeError a b.flights fs with
          | some v => .trap (trap a 0x03 v)
          | none => .go { flights := b.flights ++ fs, tags := b.tags ++ (tagTaken a j.instr).toList })
      | .fault f => .stuck (.fault f)
      | .refused r => .stuck (.refused r)

/-- The records that an instruction owes (R317, R319, R367), as log and words. -/
def owedBy (s : State) (i : Instr) : List (Nat × Nat) :=
  let on := fun (x : Mod) (l : List (Nat × Nat)) => if guardOn s x then l else []
  match i with
  | .ctffr x _ | .semrd x _ | .squery x _ | .phase x _ => on x (match i with | .phase _ _ => [(5, 1)] | _ => [(3, 2)])
  | .lclk x _ => on x [(3, 2)]
  | .logctlMark x o => on x [(logNo o, 2)]
  | .semsig x o => on x (if o.rel then [(5, 1)] else [])
  | .semwait x o => on x (if o.acq then [(5, 1)] else [])
  | .aadd x o | .afadd x o | .amin x o | .amax x o | .aminu x o | .amaxu x o | .aand x o | .aor x o | .axor x o | .axchg x o
  | .acas x o | .aradd x o => on x (if bit o.mod.toNat 3 || bit o.mod.toNat 4 then [(5, 1)] else [])
  | _ => []

/-- Words that an instruction uses of a log. -/
def wordsOf (s : State) (log : Nat) (j : Job) : Nat :=
  ((owedBy (aim s j) j.instr).filter (fun e => e.1 == log)).foldl (fun a e => a + e.2) 0

/-- The state in which the slots above a judged instruction are judged: in replay its records are used up, or they come after it (R381). -/
def pastJob (s : State) (j : Job) (go : Bool) : State :=
  let a := s.cur.ahead
  { s with cur := { s.cur with ahead := if go then (a.1 + wordsOf s 3 j, a.2 + wordsOf s 5 j) else a, behind := s.cur.behind || !go } }

/-- The slots judged in ascending order: the lowest with a cause decides, and a blocked one holds the bundle. -/
def judge (run : Meaning) (s : State) (b : Sofar) : List Job → Verdict
  | [] => .go b
  | j :: r =>
    match judgeOne run s b j with
    | .go b => judge run (pastJob s j true) b r
    | .hold t =>
      (match judge run (pastJob s j false) b r with
      | .trap u => .trap u
      | .stuck a => .stuck a
      | _ => .hold t)
    | v => v

/-- The results that an instruction put in flight carry the code of its matrix destination (R131). -/
def markFlights (s t : State) (i : Instr) : State :=
  modMe t (fun x => { x with flights := x.flights.map (fun f => if s.nextId ≤ f.id then { f with code := destCode s i } else f) })

/-- The instructions of a bundle run in ascending slot order. One that must wait for what a lower slot has just done holds the whole bundle (R210, R319): the run
ends there, blocked. -/
def runJobs (run : Meaning) (s : State) : List Job → Answer
  | [] => .next s
  | j :: r =>
    if isTrap j.instr then runJobs run s r
    else match run j.instr (aim s j) with
      | .next t => if t.cur.out == .blocked then .next t else runJobs run (markFlights (aim s j) t j.instr) r
      | a => a

/-- The marker of the running bundle, which only the primary stream heeds (R90, R383). -/
def markerOf (s : State) : Option Nat :=
  if s.cur.bank == 2 then none
  else match parseBundle ⟨s.cur.gelxis, false, s.conf.features⟩ (unitAt (curBytes s)) s.cur.off with
    | .ok b => b.marker
    | .error _ => none

/-- Words that the running bundle owes a log, with the slot that owes them. -/
def owed (s : State) (log : Nat) : Nat × Nat :=
  let js := s.cur.jobs.filterMap (fun j =>
    let n := wordsOf s log j
    if n == 0 then none else some (j.slot, n))
  let x := me s
  let extra := if log == 0 then bitOf ((markerOf s).isSome && !x.measured) else 0
  ((js.head?.map (fun e => e.1)).getD 31, js.foldl (fun a e => a + e.2) extra)

/-- The first log whose records of this bundle would not fit (R350, step 6), with the slot that owes one; trace records owed from a wait that ended come
with it, and the leaf writes them (R380). -/
def fullLog (s : State) : Option (Nat × Nat × List Word) :=
  if !(me s).traces.isEmpty then some (0, 31, (me s).traces)
  else ([0, 3, 5].find? (fun l => (owed s l).2 != 0 && recordFull s s.cur.core s.cur.bank l (owed s l).2)).map (fun l => (l, (owed s l).1, []))

/-- A full log traps the running bundle. The trace records owed go to the leaf. -/
def fullTrap (s : State) (log slot : Nat) (ws : List Word) : State :=
  logTrap (modMe s (fun x => { x with traces := if ws.isEmpty then x.traces else [] })) s.cur.core s.cur.bank log 0 slot ws
    (s.cur.page, s.cur.home, s.cur.off)

/-- Drift of a marker (R383): wall cycles since the iteration's first bundle less the marker, as a signed 30-bit value. -/
def driftOf (s : State) (m : Nat) : Int :=
  let now := (myCore s).wcyc.toNat
  let w := now - ((me s).firstCyc.getD now)
  sextNat 30 ((w + 2 ^ 30 - m % 2 ^ 30) % 2 ^ 30)

/-- Bin of the drift histogram (R387). -/
def driftBin (d : Int) : Nat := if d == 0 then 0 else min 15 (Nat.log2 d.natAbs + 1)

/-- The drift record (R379). -/
def driftWord (m : Nat) (d : Int) : Word :=
  let sat := max (-(2 ^ 29 - 1 : Int)) (min d (2 ^ 29 - 1))
  BitVec.ofNat 64 (pack [(30, (BitVec.ofInt 30 sat).toNat), (30, m), (4, 9)])

/-- The drift of a marker is measured, once for each instance of its bundle (R383): record, histogram, and the end of trace. -/
def measure (s : State) (m : Nat) : State :=
  let d := driftOf s m
  let s := bump (record s s.cur.core s.cur.bank 0 [driftWord m d]) (0x1E0 + driftBin d) 1
  modMe s (fun x => { x with measured := true, trace := false })

/-- A marker whose drift passes the threshold (R383, R367). -/
def driftTraps (s : State) (m : Nat) : Bool := !(me s).measured && (me s).drift != 0 && (driftOf s m).natAbs > (me s).drift

/-- The scratchpad bytes that a store of the LS slot will write, the later rows of `STSM` among them. -/
def storedAt (f : Flight) : List Nat :=
  f.writes.flatMap (fun w => match w.2 with
    | .sp bs => bs.map (fun b => b.1)
    | _ => [])
  ++ (match f.late with
    | .storeRows _ n off mask => (List.range n).flatMap (fun r =>
        (lanes.filter (laneOn mask)).flatMap (fun i => (List.range 4).map (fun j => off + 256 * r + 4 * i + j)))
    | _ => [])

/-- A secondary LS store that overlaps a range an MX instruction holds waits (R268); `t` is the state after the bundle ran. -/
def storeWaits (s t : State) : Bool :=
  let c := coreAt s s.cur.core
  let held := (c.b0.flights ++ c.b1.flights).flatMap (fun f => f.holds.filter (fun h => f.age < h.upto))
  s.cur.bank == 2 && !held.isEmpty && ((me t).flights.filter (fun f => s.nextId ≤ f.id && f.slot == 7)).any (fun f =>
    (storedAt f).any (fun a => held.any (fun h => h.lo ≤ a && a < h.lo + h.len)))

/-! ### After a bundle has issued -/

/-- A drain point that was not honoured is counted (R145). -/
def countRefusal (s : State) (before : State) : State :=
  if s.cur.drain && s.cur.bank != 2 && !honoured before s.cur.core s.cur.bank then bump s 0x1C6 1 else s

/-- An instance of a bundle ends when it issues (R383 to R385). The bundle that returned from a trap leaves what was done for the bundle that it returns
to. -/
def endInstance (before x : Ctx) : Ctx :=
  if before.aside.isSome && x.aside.isNone then x else { x with measured := false, skipWatch := false, skipBreak := false, ticked := false }

/-- The bundle has issued: counts, landing buffer, sequencer (R136, R86, R137, R145). A context that the bundle ended is left alone but for the counts. -/
def finishBundle (before s : State) : State :=
  let now := (myCore s).wcyc.toNat
  let s := countRefusal (modMe s (fun x => { x with scyc := x.scyc + 1 })) before
  if (me s).life != .ready then s
  else
    let s := modMe s (fun x =>
      let x := endInstance (me before) (discardBuffered x)
      { x with firstCyc := some (x.firstCyc.getD now) })
    sequence (modIteration s s.cur.core s.cur.bank (fun x => { x with index := x.index + 1 }))

/-- `TRAP` of a bundle that has issued (R363). -/
def runTraps (run : Meaning) (s : State) : List Job → Answer
  | [] => .next s
  | j :: r =>
    if isTrap j.instr && (me s).life == .ready then
      match run j.instr (aim s j) with
      | .next t => runTraps run t r
      | a => a
    else runTraps run s r

/-- How the bundle of a stream came out. -/
inductive Issue where
  | issued (s : State)
  | idle (s : State)
  | stuck (a : Answer)

/-- The latched bundle goes back: the sequencer stands at it again. -/
def unlatch (s : State) : State := modMe s (fun x => { x with seq := { x.seq with off := s.cur.off } })

/-- A bundle that blocks (R288): in a Gelxis page of the primary stream the context drains, once everything can be had that the drain awaits (R381, R395); a pre-emption may land
there. -/
def blockBundle (s t : State) : State :=
  let core := s.cur.core
  let bank := s.cur.bank
  let s := unlatch (modMe s (fun x => { x with ask := (me t).ask }))
  let s := waitOne (if s.cur.gelxis && !drainWaits s core bank then drain s core bank else s) core bank 6
  if bank != 2 && s.cur.drain && preempting s (me s) && honoured s core bank then setAside s core bank else s

/-- A precise watchpoint (R386): `wpinfo` is written, and the bundle judged again is not checked again for that instance. -/
def watchTrap (s : State) (hit : Nat × Word × Word) : State :=
  let s := modMe s (fun x => { x with wpinfo := hit.2.2, skipWatch := true })
  trap { s with cur := { s.cur with slot := hit.1 } } 0x21 hit.2.1

/-- Trap 0x24 (R383): trace is armed. -/
def driftTrap (s : State) (m : Nat) : State :=
  let v := BitVec.ofInt 64 (driftOf s m)
  let s := modMe (measure s m) (fun x => { x with trace := true })
  trap { s with cur := { s.cur with slot := 31 } } 0x24 v

/-- A trap at the latched bundle. It waits while something that its drain is to await cannot be had (R347, R381, R395). -/
def trapIssue (s t : State) : Issue :=
  .idle (if drainWaits s s.cur.core s.cur.bank then waitOne (unlatch s) s.cur.core s.cur.bank (drainCause s s.cur.core s.cur.bank) else t)

/-- Trap 0x20 for a record of log 1, 4 or 5 that the latched bundle is to answer for (R350, step 6; R380): one that has fallen due, or the record of its
iteration's start. -/
def recordTrap (s : State) : Option State :=
  let core := s.cur.core
  let bank := s.cur.bank
  let p := (s.cur.page, s.cur.home, s.cur.off)
  match dueRecord (me s) with
  | some r => some (takeDeferred s core bank r p)
  | none => if (me s).starting then some (logTrap s core bank 5 0 31 [] p) else none

/-- The latched bundle of the stream in the issue register is judged and, when nothing stops it, issues. `ends` says of the state after it whether its issue
ends an issue run whose record does not fit (R350, step 6; R380). -/
def issueBundle (run : Meaning) (ends : State → Bool) (s : State) : Issue :=
  if s.cur.out != .ran then .idle s
  else
    let core := s.cur.core
    let bank := s.cur.bank
    let e := endWait s core bank
    match judge run e ⟨[], []⟩ s.cur.jobs with
    | .stuck a => .stuck a
    | .trap t => trapIssue s t
    | .hold t =>
      (match recordTrap e with
      | some u => trapIssue s u
      | none => .idle (blockBundle s t))
    | .go _ =>
      match recordTrap e with
      | some u => trapIssue s u
      | none =>
      match fullLog e with
      | some (log, slot, ws) => trapIssue s (fullTrap e log slot ws)
      | none =>
        match runJobs run e s.cur.jobs with
        | .next t =>
          if t.cur.out == .blocked then .idle (blockBundle s t)
          else if storeWaits e t then .idle (waitOne (unlatch s) core bank 7)
          else
            let m := (markerOf e).filter (fun _ => !(me e).measured)
            let t := match m with
              | some m => measure t m
              | none => t
            match runTraps run (finishBundle e t) s.cur.jobs with
            | .next u =>
              if ends u then trapIssue s (fullTrap e 2 31 [])
              else match (if (me e).skipWatch then none else t.cur.hit), m.filter (fun m => driftTraps e m) with
                | some h, _ => trapIssue s (watchTrap e h)
                | none, some m => trapIssue s (driftTrap e m)
                | none, none => .issued u
            | a => .stuck a
        | a => .stuck a

/-! ### Closing a cycle -/

/-- The event of a cycle for log 2 (R379): 1 primary only, 2 secondary only, 3 both. -/
def eventOf (p q : Bool) : Nat := bitOf p + 2 * bitOf q

/-- An issue-run record (R379). -/
def runWord (r : Nat × Nat × Nat) : Word := BitVec.ofNat 64 (pack [(32, r.2.2), (25, 0), (1, r.2.1), (2, r.1), (4, 2)])

/-- Log 2 of a core is written now, by the kernel of a context. -/
def runsLogged (s : State) (core bank : Nat) : Bool := logActive s core bank 2

/-- A run would end whose record does not fit (R380). -/
def runFull (s : State) (core bank event : Nat) : Bool :=
  let c := coreAt s core
  runsLogged s core bank && event != 0 && (match c.run with
    | none => false
    | some r => (r.1 != event || r.2.1 != c.active) && recordFull s core bank 2 1)

/-- The issue run goes on, or ends with its record (R379); in replay it is used up (R381). -/
def closeRun (s : State) (core bank event : Nat) : State :=
  let c := coreAt s core
  if event == 0 then s
  else if readsLog s core bank 2 then
    setCore s core { c with run := match c.run with
      | some r => if r.2.2 ≤ 1 then none else some (r.1, r.2.1, r.2.2 - 1)
      | none => none }
  else if !runsLogged s core bank then s
  else match c.run with
    | none => setCore s core { c with run := some (event, c.active, 1) }
    | some r =>
      if r.1 == event && r.2.1 == c.active && r.2.2 + 1 < 2 ^ 32 then setCore s core { c with run := some (r.1, r.2.1, r.2.2 + 1) }
      else
        let s := record s core bank 2 [runWord r]
        setCore s core { coreAt s core with run := some (event, c.active, 1) }

/-- In replay the streams that issued must be those of the run (R381). -/
def offRun (s : State) (core bank event : Nat) : Bool :=
  readsLog s core bank 2 && event != 0 && (match (coreAt s core).run with
    | some r => r.1 != event
    | none => false)

/-- The patience count of a kernel falls by one each cycle (R54). -/
def tickPatience (k : Kernel) : Kernel := { k with patience := k.patience.map (fun n => n - 1) }

/-- A cycle of the arithmetic clock ends after the turn of the last core. The reference clock runs at 3.0 GHz, the arithmetic clock at that less
`clockStep` times 100 MHz (R64, R65, R398): gclk advances by their ratio, a fraction of a cycle being owed, unless it is held. A hold that comes within a cycle
is in force from the next. -/
def endRound (s : State) : State :=
  let owedNow := s.gfrac + 30
  let rate := 30 - s.clockStep % 21
  let n := owedNow / rate
  let held := min s.holdNow n
  { s with gclk := s.gclk + (n - held), gclkWas := if n == held then s.gclkWas else s.gclk, gclkHold := s.gclkHold - held
           holdNow := s.gclkHold - held, rounds := s.rounds + 1, roundGclk := s.gclk, gfrac := owedNow % rate
           parts := s.parts.map (fun e => (e.1, { e.2 with kernel := e.2.kernel.map tickPatience })) }

/-- The turn passes to the next core. -/
def passTurn (s : State) : State :=
  let s := { s with issued := false, free := s.free + 1 }
  if s.turn + 1 < 96 then { s with turn := s.turn + 1 } else endRound { s with turn := 0 }

/-- The slots of the latched bundle; an empty bundle has none (R89, R125). -/
def latchedMask (s : State) : List Nat := (s.cur.jobs.map (fun j => j.slot)).filter (fun n => n < 31)

/-- The secondary's turn in a cycle, after the primary: `p` says whether the primary issued. -/
def secondaryTurn (run : Meaning) (s : State) (core : Nat) (p : Bool) (mask : List Nat) : Issue :=
  issueBundle run (fun u => runFull u core 2 (eventOf p true)) (openSecondary s core p mask)

/-- The secondary's turn where the primary's bundle, whose words of logs 3 and 5 are given, is to issue with it and has not (R381): a cause of the secondary is
taken all the same. -/
def secondaryAlone (run : Meaning) (s : State) (core : Nat) (ahead : Nat × Nat) : Issue :=
  let t := openSecondary s core true []
  issueBundle run (fun _ => false) { t with cur := { t.cur with ahead := ahead } }

/-- The stream has issued. -/
def hasIssued (r : Issue) : Bool :=
  match r with
  | .issued _ => true
  | _ => false

/-- The primary's issue ends a run that log 2 has no room for (R379, R380): of another bank, of the secondary alone, or of both when the secondary does not
issue in this cycle. `u` is the state after it. -/
def primaryEnds (run : Meaning) (core : Nat) (mask : List Nat) (u : State) : Bool :=
  let c := coreAt u core
  runsLogged u core c.active && recordFull u core c.active 2 1 && (match c.run with
    | none => false
    | some r => r.2.1 != c.active || r.1 == 2 || (r.1 == 3 && !hasIssued (secondaryTurn run u core true mask)))

/-- The context whose kernel log 2 belongs to in a cycle. -/
def runBank (s : State) (core : Nat) (p : Bool) : Nat := if p then (coreAt s core).active else 2

/-- A cycle of a core in which its active context, which was to issue, waits for its issue run (R381, R133): `s` is the state before the cycle. -/
def primaryWaits (s : State) (core : Nat) : State :=
  let s := startCycle s core
  let bank := (coreAt s core).active
  noIssue (waitCycle s core bank (look s core bank)) core bank 5 false

/-- The secondary waits for its issue run. -/
def secondaryWaits (s : State) (core : Nat) : State := noIssue (modCtx s core 2 advanceClock) core 2 5 false

/-- A cycle of a core ends, and the turn passes. -/
def endCycle (s : State) (core : Nat) : Answer :=
  .next (passTurn { setCore s core { coreAt s core with bubble := false } with cur := { s.cur with jobs := [], jobs2 := [], ahead := (0, 0), behind := false } })

/-- A cycle in which replay asked for both streams and one of them could not issue: the other waits too (R381). `before` is the state before the cycle, `t`
that after the primary's turn, `p` whether the primary issued, `ahead` the words of logs 3 and 5 that its bundle uses. -/
def waitForBoth (run : Meaning) (before t : State) (core : Nat) (p : Bool) (ahead : Nat × Nat) : Answer :=
  if !p then endCycle (secondaryWaits t core) core
  else
    let w := primaryWaits before core
    match secondaryAlone run w core ahead with
    | .stuck a => a
    | .issued _ => endCycle (secondaryWaits w core) core
    | .idle v => endCycle v core

/-- The second half of a cycle: the secondary's turn, and the close of the cycle. -/
def secondHalf (run : Meaning) (before t : State) (core : Nat) (p : Bool) (mask : List Nat) (ahead : Nat × Nat) : Answer :=
  let close := fun (u : State) (q : Bool) =>
    let event := eventOf p q
    let bank := runBank t core p
    if offRun u core bank event then waitForBoth run before t core p ahead else endCycle (closeRun u core bank event) core
  match secondaryTurn run t core p mask with
  | .stuck a => a
  | .issued u => close u true
  | .idle u => close u false

/-- A cycle of a core after its primary bundle was latched: the bundles issue, and the cycle closes. `before` is the state before the cycle began. -/
def runCycle (run : Meaning) (before s : State) : Answer :=
  let core := s.cur.core
  if s.cur.stalled then endCycle (setCollide s core 0) core
  else if (coreAt s core).frozen then endCycle s core
  else
    let mask := latchedMask s
    match issueBundle run (primaryEnds run core mask) s with
    | .stuck a => a
    | .issued t => secondHalf run before t core true mask ((owed s 3).2, (owed s 5).2)
    | .idle t => secondHalf run before t core false [] (0, 0)

end Sys2Proof.Machine
end

