-- ==== Sys2Proof/Machine/Links.lean ====
section
/-! DEFINITION. The command links between the global scheduler and the leaf controllers (R42): sending, the send permits and their return. What the
firmware says in its messages, and when it does, is its own (log entry 46). -/
namespace Sys2Proof.Machine

/-- The command link of a leaf. -/
def cmdLink (s : State) (leaf : Nat) : FwLink := tgetD s.links leaf FwLink.reset

/-- A message with `n` permits that it returns in its low byte. -/
def linkMsg (n : Nat) (body : List Byte) : LinkMsg := { bytes := BitVec.ofNat 8 n :: body, only := false }

/-- A message that does nothing but return permits. -/
def permitMsg (n : Nat) : LinkMsg := { bytes := BitVec.ofNat 8 n :: List.replicate 63 0, only := true }

/-- What is sent of the messages that wait, one permit each: the messages, the returns that found none to travel in, the permits and the messages
that are left. -/
def flushWaiting (n permits : Nat) : List (List Byte) → List LinkMsg × Nat × Nat × List (List Byte)
  | [] => ([], n, permits, [])
  | b :: r =>
    match permits with
    | 0 => ([], n, 0, b :: r)
    | p + 1 =>
      let t := flushWaiting 0 p r
      (linkMsg n b :: t.1, t.2)

/-- A sender sends what it has permits for, in order; `n` permits that it has to return ride in the first. -/
def flushWay (n : Nat) (w : LinkWay) : LinkWay × Nat :=
  let r := flushWaiting n w.permits w.waiting
  ({ permits := r.2.2.1, sent := w.sent ++ r.1, waiting := r.2.2.2 }, r.2.1)

/-- Permits are returned on a way: in a message that goes anyway, otherwise in a permit-only one. -/
def returnOn (n : Nat) (w : LinkWay) : LinkWay :=
  let r := flushWay n w
  if r.2 == 0 then r.1 else { r.1 with sent := r.1.sent ++ [permitMsg r.2] }

/-- A message is given to a sender: it is sent, or waits behind those before it. -/
def sendOn (w : LinkWay) (body : List Byte) : LinkWay := (flushWay 0 { w with waiting := w.waiting ++ [body] }).1

/-- The oldest message of a way is consumed: the permits that it returns go to the other way's sender, and one permit is returned for it. -/
def consumeOn (w other : LinkWay) : LinkWay × LinkWay :=
  match w.sent with
  | [] => (w, other)
  | m :: r =>
    let back := ((m.bytes.head?).map (fun b => b.toNat)).getD 0
    ({ w with sent := r }, returnOn (if m.only then 0 else 1) { other with permits := other.permits + back })

/-- The firmware sends a message on a command link: 63 bytes of its own after the low byte. -/
def sendLink (s : State) (leaf : Nat) (down : Bool) : State :=
  let l := cmdLink s leaf
  let body := (List.range 63).map (fun i => Config.linkByte s.free (i + 64 * leaf + 2048 * bitOf down))
  { s with links := tset s.links leaf (if down then { l with down := sendOn l.down body } else { l with up := sendOn l.up body }) }

end Sys2Proof.Machine
end

