-- ==== Sys2Proof/Machine/Objects.lean ====
section
/-! DEFINITION. Code objects (R9 to R19): the head chunk and its directory, the choice of an image, the hash tree, and the units of the
Balfervo list form. -/
namespace Sys2Proof.Machine

/-! ### The Balfervo list form (R16 to R19) -/

/-- An operand word (R18). -/
inductive BlfOperand where
  | producer (d : Nat)
  | register (file num : Nat)
  | constant (i : Nat)
  | absent
  | immediate
  deriving DecidableEq, Repr

/-- An operation record (R17). -/
structure BlfOp where
  slot : Nat
  op   : Nat
  cls  : Nat
  func : Nat
  neg  : Bool
  nfl  : Bool
  sat  : Bool
  rnd  : Nat
  a    : BlfOperand
  b    : BlfOperand
  c    : BlfOperand
  p    : BlfOperand
  imm  : Nat
  deriving DecidableEq, Repr

/-- A record of a unit (R17). -/
inductive BlfRecord where
  | op (o : BlfOp)
  | anchor (kind id : Nat)
  | bind (file num : Nat) (v : BlfOperand)
  | finish
  deriving DecidableEq, Repr

/-- How many registers a file of R18 has; 0 for the reserved file. Files 4 and 5 are named by ten-bit operands. -/
def fileSize (file : Nat) : Nat :=
  match file with
  | 0 => 64 | 1 => 16 | 2 => 8 | 3 => 32 | 4 => 1024 | 5 => 1024 | 6 => 4 | _ => 0

/-- The operand of a 16-bit word; none for a reserved form. -/
def operandOf (w : Nat) : Option BlfOperand :=
  let v := bits w 0 14
  match bits w 14 2 with
  | 0 => if v == 0 then none else some (.producer v)
  | 1 => if bits w 0 11 < fileSize (bits w 11 3) then some (.register (bits w 11 3) (bits w 0 11)) else none
  | 2 => some (.constant v)
  | _ => if v == 0 then some .absent else if v == 1 then some .immediate else none

/-- The instruction that a word of zeros with an opcode names in a slot's map, in either length (R95, R106 to R119). -/
def opcodeIn (slot op : Nat) : Option Instr :=
  let t := tableOf (slotOfNat slot)
  match readWord t false (modIn t none (4 * op)) (4 * op) with
  | some i => some i
  | none => readWord t true (modIn t none (4 * op + 1)) (4 * op + 1)

/-- The slots whose words are of the class VV (R98). -/
def vvSlot (slot : Nat) : Bool := slot == 4 || slot == 5 || slot == 6 || slot == 11

/-- A VV word of an opcode with function selector `f` and three sample operand fields. -/
def sampleVv (slot op f d c dfile : Nat) : Option Instr :=
  let w := VV.word { d := BitVec.ofNat 10 d, a := 0, b := 0, c := BitVec.ofNat 10 c, k := 0, sub := BitVec.ofNat 4 f, dfile := BitVec.ofNat 4 dfile }
    { pfx := none, neg := false, pred := 0 } op
  let t := tableOf (slotOfNat slot)
  readWord t true (modIn t none w) w

/-- The function byte of an operation record (R17): a VV function that some operands of the instruction allow (R98, R105), such as a condition
code that `VCMP` or `FCMP` accepts; zero in every other slot. The samples hold each destination file and a legal c field of the forms that
need one. -/
def functionOk (slot op f : Nat) : Bool :=
  if !vvSlot slot then f == 0
  else f < 16 && [0, 1, 2, 3].any (fun file => [0, 2, 5].any (fun c => [0, 1].any (fun d =>
    (sampleVv slot op f d c file).any fieldsOk)))

/-- The operation record in 16 bytes. -/
def blfOp (m : Memory) (a : Nat) : Option BlfRecord :=
  let w := peekNat m a 2
  let d := peekNat m (a + 2) 2
  if bits w 0 4 > 7 || bits d 2 3 == 7 || bits d 0 2 != 0 || (opcodeIn (bits w 10 4) (bits w 4 6)).isNone
    || !functionOk (bits w 10 4) (bits w 4 6) (bits d 8 8) then none
  else match operandOf (peekNat m (a + 4) 2), operandOf (peekNat m (a + 6) 2), operandOf (peekNat m (a + 8) 2),
    operandOf (peekNat m (a + 10) 2) with
  | some x, some y, some z, some p =>
    some (.op { slot := bits w 10 4, op := bits w 4 6, cls := bits w 0 4, func := bits d 8 8, neg := bit d 7, nfl := bit d 6,
                sat := bit d 5, rnd := bits d 2 3, a := x, b := y, c := z, p := p, imm := peekNat m (a + 12) 4 })
  | _, _, _, _ => none

/-- The record at an offset of a unit; none when it is malformed in itself. -/
def blfRecord (m : Memory) (a : Nat) : Option BlfRecord :=
  let w := peekNat m a 2
  match bits w 14 2 with
  | 0 => blfOp m a
  | 1 => if bits w 10 4 < 4 && bits w 6 4 == 0 && zeroBytes m (a + 2) 14 then some (.anchor (bits w 10 4) (bits w 0 6)) else none
  | 2 =>
    if bits w 0 11 < fileSize (bits w 11 3) && zeroBytes m (a + 2) 2 && zeroBytes m (a + 6) 10 then
      (operandOf (peekNat m (a + 4) 2)).map (fun v => .bind (bits w 11 3) (bits w 0 11) v)
    else none
  | _ => if w == 0xC000 && zeroBytes m (a + 2) 14 then some .finish else none

/-- Header fields of a unit (R16). -/
def unitChunks (m : Memory) : Nat := peekNat m 8 2
def unitPage (m : Memory) : Nat := peekNat m 4 4
def unitConsts (m : Memory) : Nat := peekNat m 10 2
def unitRecords (m : Memory) : Nat := peekNat m 12 4
def unitAnchorCount (m : Memory) : Nat := peekNat m 16 2

/-- The constants of a unit. -/
def unitConstants (m : Memory) : List Word := (List.range (unitConsts m)).map (fun i => BitVec.ofNat 64 (peekNat m (64 + 8 * i) 8))

/-- The result class of the operation `d` back among those of a region, the latest first. -/
def producerClass (region : List BlfOp) (d : Nat) : Option Nat := (region[d - 1]?).map (fun o => o.cls)

/-- An operand is legal after the operations of its region (R18, R19). -/
def operandOk (consts : Nat) (region : List BlfOp) (o : BlfOperand) : Bool :=
  match o with
  | .producer d => (match producerClass region d with
    | some c => c != 0
    | none => false)
  | .constant i => i < consts
  | _ => true

/-- The records of a unit are legal in order: `region` holds the operations of the current region, the latest first, `ids` the anchors met.
The end record is the last. -/
def recordsOk (consts : Nat) : List BlfOp → List Nat → List BlfRecord → Bool
  | _, _, [] => false
  | region, ids, r :: rest =>
    match r with
    | .finish => rest.isEmpty
    | .anchor _ id => !ids.contains id && recordsOk consts [] (id :: ids) rest
    | .bind _ _ v => operandOk consts region v && recordsOk consts region ids rest
    | .op o =>
      [o.a, o.b, o.c, o.p].all (operandOk consts region) && recordsOk consts (o :: region) ids rest

/-- The records of a well-formed unit (R16 to R19). -/
def parseUnit (m : Memory) : Option (List BlfRecord) :=
  let start := 64 + 8 * unitConsts m
  let n := unitRecords m
  let size := 4096 * unitChunks m
  if peekNat m 0 4 != 0x31464C42 || unitChunks m == 0 || unitChunks m > 16 || !zeroBytes m 18 46 || start + 16 * n > size
    || unitAnchorCount m > 64 then none
  else
    let rs := ((List.range n).map (fun i => blfRecord m (start + 16 * i)))
    if rs.any (fun r => r.isNone) then none
    else
      let rs := rs.filterMap id
      let anchors := (rs.filter (fun r => match r with | .anchor _ _ => true | _ => false)).length
      if anchors == unitAnchorCount m && recordsOk (unitConsts m) [] [] rs && zeroBytes m (start + 16 * n) (size - (start + 16 * n)) then
        some rs
      else none

/-! ### The head chunk (R12) -/

/-- A directory entry. -/
structure DirImage where
  index    : Nat
  tag      : Nat
  kind     : Nat
  priority : Nat
  pages    : Nat
  features : Nat
  root     : BitVec 256
  entry    : Nat
  anchor   : Nat
  deriving DecidableEq, Repr

/-- Entry `i` of a head chunk, when it keeps the rules of R12. -/
def dirImage (m : Memory) (i : Nat) : Option DirImage :=
  let a := 64 + 64 * i
  let e : DirImage := { index := i, tag := peekNat m a 1, kind := peekNat m (a + 1) 1, priority := peekNat m (a + 2) 1, pages := peekNat m (a + 4) 4,
                        features := peekNat m (a + 8) 8, root := hashOf (peeks m (a + 16) 32), entry := peekNat m (a + 48) 4,
                        anchor := peekNat m (a + 52) 1 }
  if e.kind ≤ 1 && !(e.kind == 1 && e.tag != 0) && 1 ≤ e.pages && e.pages ≤ 2 ^ 20 && e.entry < e.pages && e.anchor < 64
    && zeroBytes m (a + 3) 1 && zeroBytes m (a + 53) 11 then some e else none

/-- The directory of a well-formed head chunk (R12). -/
def parseHead (m : Memory) : Option (List DirImage) :=
  let n := peekNat m 6 1
  if peekNat m 0 4 != 0x4F433951 || peekNat m 4 2 != 1 || n == 0 || n > 15 || !zeroBytes m 7 9 || !zeroBytes m 48 16
    || !zeroBytes m (64 + 64 * n) (4096 - (64 + 64 * n)) || sha256 (peeks m 64 (64 * n)) != peeks m 16 32 then none
  else
    let es := (List.range n).map (dirImage m)
    if es.any (fun e => e.isNone) then none else some (es.filterMap id)

/-- The entry of highest priority among those that qualify, the lowest index on a tie. -/
def bestImage (ok : DirImage → Bool) (es : List DirImage) : Option DirImage :=
  (es.filter ok).foldl (fun b e => match b with
    | none => some e
    | some x => if e.priority > x.priority then some e else b) none

/-- The choice of an image (R15). -/
def chooseImage (enabled : Nat) (es : List DirImage) : Option DirImage :=
  let runs := fun (e : DirImage) => e.features &&& enabled == e.features
  match bestImage (fun e => e.kind == 0 && (e.tag == 0x31 || e.tag == 0) && runs e) es with
  | some e => some e
  | none =>
    match bestImage (fun e => e.kind == 1 && runs e) es with
    | some e => some e
    | none => bestImage (fun e => e.kind == 0 && e.tag == 0x2A && runs e) es

/-! ### The tree of an image (R9, R11) -/

/-- The bytes of a chunk that matches its hash (R11). -/
def checkedChunk (s : State) (h : BitVec 256) : Option Memory :=
  match chunkAt s h with
  | some c => if c.verified || leafHash c.bytes == h then some c.bytes else none
  | none => none

/-- The children of a node of `n` children: the node stands in the chunk store as their hashes, one after the other. -/
def nodeChildren (s : State) (h : BitVec 256) (n : Nat) : Option (List (BitVec 256)) :=
  match chunkAt s h with
  | none => none
  | some c =>
    let hs := (List.range n).map (fun i => hashOf (peeks c.bytes (32 * i) 32))
    if nodeHash hs == h then some hs else none

/-- The leaves under a list of nodes, all of one level: `level` levels of nodes, and `n` leaves in all. -/
def treeLeaves (s : State) : Nat → List (BitVec 256) → Nat → Option (List (BitVec 256))
  | 0, hs, _ => some hs
  | level + 1, hs, n =>
    let span := 128 ^ (level + 1)
    let kids := ((List.range hs.length).zip hs).map (fun e => nodeChildren s e.2 (ceilDiv (min span (n - e.1 * span)) (128 ^ level)))
    if kids.any (fun k => k.isNone) then none else treeLeaves s level (kids.filterMap id).flatten n

/-- Levels of nodes above `n` leaves (R9). -/
def treeLevels (n : Nat) : Nat := if n ≤ 128 then 1 else if n ≤ 16384 then 2 else 3

/-- The leaf hashes of an image, in page order. -/
def imageLeaves (s : State) (e : DirImage) : Option (List (BitVec 256)) := treeLeaves s (treeLevels e.pages) [e.root] e.pages

/-- The units of a BLF image: the first chunk of each, and how many it takes; none when they do not fit the image. -/
def unitStarts (bytes : List Memory) : Nat → Nat → Option (List (Nat × Nat))
  | 0, i => if i == bytes.length then some [] else none
  | fuel + 1, i =>
    if i == bytes.length then some []
    else match bytes[i]? with
      | none => none
      | some m =>
        let n := unitChunks m
        if n == 0 || n > 16 || i + n > bytes.length then none
        else (unitStarts bytes fuel (i + n)).map (fun r => (i, n) :: r)

/-- Chunks joined into one memory. -/
def joinChunks (ms : List Memory) : Memory :=
  ((List.range ms.length).zip ms).flatMap (fun e => e.2.map (fun c => (c.1 + 4096 * e.1, c.2)))

/-- One code page of an image: its index, where its bytes come from, and they themselves. -/
structure ImagePage where
  index : Nat
  src   : CodeSrc
  bytes : Memory
  deriving DecidableEq, Repr

/-- The pages of an image whose chunks match their hashes, or the status that ends the load (R35, R37). Two units that name one page index make
the object malformed here: a choice of the model, since no rule says which of them the page becomes (log entry 48). -/
def loadPages (s : State) (e : DirImage) : Except Nat (List ImagePage) :=
  match imageLeaves s e with
  | none => .error 0x0007
  | some leaves =>
    let chunks := leaves.map (checkedChunk s)
    if chunks.any (fun c => c.isNone) then .error 0x0007
    else
      let bytes := chunks.filterMap id
      if e.kind == 0 then
        .ok (((List.range leaves.length).zip (leaves.zip bytes)).map (fun p => { index := p.1, src := .chunk p.2.1, bytes := p.2.2 }))
      else match unitStarts bytes bytes.length 0 with
        | none => .error 0x0006
        | some us =>
          let pages := us.map (fun u =>
            let m := joinChunks ((bytes.drop u.1).take u.2)
            ({ index := unitPage m, src := .blf ((leaves[u.1]?).getD 0) (unitPage m), bytes := m } : ImagePage))
          if pages.all (fun p => (parseUnit p.bytes).isSome) && (pages.map (fun p => p.index)).Nodup then .ok pages else .error 0x0006

/-- Chunks that have passed their check (R11): their bytes stay from now on (R26). -/
def markVerified (s : State) (hs : List (BitVec 256)) : State :=
  { s with chunks := s.chunks.map (fun c => if hs.contains c.hash then { c with verified := true } else c) }

/-- References of chunks counted up or down; a chunk that none refers to is released (R10). -/
def countRefs (s : State) (hs : List (BitVec 256)) (up : Bool) : State :=
  let n := fun (c : Chunk) => (hs.filter (fun h => h == c.hash)).length
  let count := fun (c : Chunk) => if n c == 0 then c else { c with refs := if up then c.refs + n c else c.refs - n c }
  { s with chunks := (s.chunks.map count).filter (fun c => up || n c == 0 || c.refs != 0) }

end Sys2Proof.Machine
end

