-- ==== Sys2Proof/Machine/Queues.lean ====
section
/-! DEFINITION. Queues (R29 to R34): the two-level table, the queue pool, cached queue control blocks, tail writes; and the mailbox steps,
which take the requests of a source in sequence order (R27). -/
namespace Sys2Proof.Machine

/-! ### Table entries (R29) -/

/-- The address field of an entry. -/
def entryAddr (w : Nat) : Nat := bits w 6 46 * 64

/-- An entry names a queue's object: valid, no reserved bit set. -/
def entryNames (w : Nat) : Bool := bit w 0 && bits w 52 12 == 0 && bits w 3 3 == 0

/-- Where the level-1 entry of a PASID lies, and the level-2 entry of a queue in a table. -/
def level1At (s : State) (pasid : Nat) : Nat := s.qtroot.toNat + 8 * (pasid / 1024)
def level2At (table pasid queue : Nat) : Nat := table + 8 * (pasid % 1024 * 256 + queue)

/-- What a walk finds. -/
inductive Walk where
  | absent
  | fetch (table : Bool) (entry host : Nat)
  | found (addr : Nat)
  deriving DecidableEq, Repr

/-- The entry at an address. An address outside device memory reads as 0, so that the queue is absent: a choice of the model, since the spec says nothing
of it (log entry 47). -/
def entryAt (s : State) (a : Nat) : Nat := if rangePresent s a 8 then deviceNat s a 8 else 0

/-- The walk for a queue (R29). -/
def walkQueue (s : State) (pasid queue : Nat) : Walk :=
  let e1 := level1At s pasid
  let w1 := entryAt s e1
  if !entryNames w1 || (bit w1 1 && bits w1 6 15 != 0) then .absent
  else if !bit w1 1 then .fetch true e1 (entryAddr w1)
  else
    let e2 := level2At (entryAddr w1) pasid queue
    let w2 := entryAt s e2
    if !entryNames w2 then .absent
    else if !bit w2 1 then .fetch false e2 (entryAddr w2)
    else .found (entryAddr w2)

/-- The accessed bit of an entry is set. -/
def markEntry (s : State) (a : Nat) : State :=
  let w := entryAt s a
  if bit w 2 then s else schedWrite s a (bytesOf 8 (w + 4))

/-- A pool object was used by a walk: it becomes the most recently used. -/
def touchPool (s : State) (addr : Nat) : State :=
  let p := s.sched.pool
  { s with sched := { s.sched with pool := p.filter (fun o => o.addr != addr) ++ p.filter (fun o => o.addr == addr) } }

/-- The marks that a walk leaves: the pool objects that it used, and the accessed bits of the entries. A walk that needs a fetch leaves no accessed bit yet,
because a fetch that fails changes no entry (R30): `mark` is then clear. -/
def markWalk (s : State) (pasid queue : Nat) (mark : Bool) : State :=
  let e1 := level1At s pasid
  let w1 := entryAt s e1
  let set := fun (s : State) (a : Nat) => if mark then markEntry s a else s
  if !entryNames w1 || (bit w1 1 && bits w1 6 15 != 0) then s
  else
    let s := set s e1
    if !bit w1 1 then s
    else
      let s := touchPool s (entryAddr w1)
      let e2 := level2At (entryAddr w1) pasid queue
      let w2 := entryAt s e2
      if !entryNames w2 then s
      else
        let s := set s e2
        if bit w2 1 then touchPool s (entryAddr w2) else s

/-! ### Queue control blocks (R31) -/

/-- The QCB in 64 bytes, when it is well formed. -/
def parseQcb (pasid queue addr : Nat) (b : List Byte) : Option Qcb :=
  let q : Qcb := { pasid := pasid, queue := queue, addr := addr, tail := field b 4 4, head := field b 8 4, base := field b 12 8,
                   order := field b 20 1, part := field b 21 1, cap := field b 22 1, state := field b 23 1,
                   errSt := field b 24 2, errIx := field b 28 4 }
  if field b 0 4 == 0x42435151 && zeros b 32 32 && zeros b 26 2 && 4 ≤ q.order && q.order ≤ 16
    && q.base % (128 * 2 ^ q.order) == 0 && q.state ≤ 3 && q.cap ≤ 7 && q.part ≤ 23 then some q else none
where
  /-- A field of the block. -/
  field (bs : List Byte) (o n : Nat) : Nat := natOfBytes ((bs.drop o).take n)
  /-- Bytes that are zero. -/
  zeros (bs : List Byte) (o n : Nat) : Bool := ((bs.drop o).take n).all (fun b => b == 0)

/-- The bytes of a QCB. -/
def qcbBytes (q : Qcb) : List Byte :=
  bytesOf 4 0x42435151 ++ bytesOf 4 q.tail ++ bytesOf 4 q.head ++ bytesOf 8 q.base ++ bytesOf 1 q.order ++ bytesOf 1 q.part
    ++ bytesOf 1 q.cap ++ bytesOf 1 q.state ++ bytesOf 2 q.errSt ++ bytesOf 2 0 ++ bytesOf 4 q.errIx ++ bytesOf 32 0

/-- A queue is the one of a QCB. -/
def isQueue (pasid queue : Nat) (q : Qcb) : Bool := q.pasid == pasid && q.queue == queue

/-- The cached QCB of a queue. -/
def cachedQcb (s : State) (pasid queue : Nat) : Option Qcb := s.sched.cache.find? (isQueue pasid queue)

/-- A QCB may be dropped: its queue is idle or stopped (R30). -/
def droppable (q : Qcb) : Bool := q.state == 0 || q.state == 3

/-- A change to a cached QCB: head, state and error fields are written through (R31). -/
def putQcb (s : State) (q : Qcb) : State :=
  let s := { s with sched := { s.sched with cache := s.sched.cache.map (fun e => if isQueue q.pasid q.queue e then q else e) } }
  schedWrite (schedWrite s (q.addr + 8) (bytesOf 4 q.head)) (q.addr + 23)
    (bytesOf 1 q.state ++ bytesOf 2 q.errSt ++ bytesOf 2 0 ++ bytesOf 4 q.errIx)

/-- A cached QCB is written back to its place and dropped (R30). -/
def dropQcb (s : State) (q : Qcb) : State :=
  let s := schedWrite s q.addr (qcbBytes q)
  { s with sched := { s.sched with cache := s.sched.cache.filter (fun e => !isQueue q.pasid q.queue e) } }

/-- A QCB used now is the most recently used. -/
def useQcb (s : State) (q : Qcb) : State :=
  { s with sched := { s.sched with cache := s.sched.cache.filter (fun e => !isQueue q.pasid q.queue e) ++ [q] } }

/-- Room for one more QCB in the cache of 256 (R30). -/
def cacheRoom (s : State) : Option State :=
  if s.sched.cache.length < 256 then some s else (s.sched.cache.find? droppable).map (dropQcb s)

/-- What the scheduler gets when it needs the QCB of a queue. -/
inductive Got where
  | ready (s : State) (q : Qcb)
  | absent (s : State)
  | fetch (s : State) (table : Bool) (entry host : Nat)
  | noRoom (s : State) (q : Qcb)

/-- The scheduler needs the QCB of a queue (R30). One found malformed is absent until a QCB invalidate (R31). -/
def getQueue (s : State) (pasid queue : Nat) : Got :=
  match cachedQcb s pasid queue with
  | some q => .ready (useQcb s q) q
  | none =>
    if s.sched.bad.contains (pasid, queue) then .absent s
    else match walkQueue s pasid queue with
    | .absent => .absent (markWalk s pasid queue true)
    | .fetch t e h => .fetch (markWalk s pasid queue false) t e h
    | .found a =>
      let s := markWalk s pasid queue true
      match (if rangePresent s a 64 then parseQcb pasid queue a (deviceBytes s a 64) else none) with
      | none => .absent { s with sched := { s.sched with bad := s.sched.bad ++ [(pasid, queue)] } }
      | some q =>
        match cacheRoom s with
        | none => .noRoom s q
        | some s => .ready (useQcb s q) q

/-! ### Tail writes (R33) -/

/-- A reply to a request (R28). -/
def answer (s : State) (r : Req) (status : Nat) (data : List Byte) : State :=
  { s with mbox := { s.mbox with replies := s.mbox.replies ++
    [{ dest := r.source, seq := r.seq.toNat, status := status, data := data }] } }

/-- The key of a queue in the table of tail-write orders. -/
def queueKey (pasid queue : Nat) : Nat := pasid * 256 + queue

/-- How many commands a count names from a head on (R31). -/
def countFrom (head t : Nat) : Nat := (t + 2 ^ 32 - head) % 2 ^ 32

/-- Tail writes of a queue that still announce commands from a head on. -/
def announced (s : State) (q : Qcb) : List (Nat × Nat) :=
  (tgetD s.sched.tails (queueKey q.pasid q.queue) []).filter (fun e => 0 < countFrom q.head e.2 && countFrom q.head e.2 ≤ 2 ^ q.order)

/-- A tail write is remembered: earlier ones that announce no more than it does stay, and announce their commands (R39). -/
def announce (s : State) (q : Qcb) (t : Nat) : State :=
  let old := (announced s q).filter (fun e => countFrom q.head e.2 ≤ countFrom q.head t)
  let new := if old.any (fun e => e.2 == t) then old else old ++ [(s.sched.tailSeq, t)]
  { s with sched := { s.sched with tails := tset s.sched.tails (queueKey q.pasid q.queue) new, tailSeq := s.sched.tailSeq + 1 } }

/-- The kernel of a command is running. -/
def commandRuns (s : State) (c : HeadCmd) : Bool :=
  s.parts.any (fun e => match e.2.kernel with
    | some k => k.pasid == c.pasid && k.queue == c.queue
    | none => false)

/-- A command is that of a queue. -/
def cmdOfQueue (pasid queue : Nat) (c : HeadCmd) : Bool := c.pasid == pasid && c.queue == queue

/-- A stopped queue runs nothing more (R34): a launch that has been taken and not admitted is forgotten. -/
def stopQueue (s : State) (q : Qcb) : State :=
  let keep := fun (c : HeadCmd) => !cmdOfQueue q.pasid q.queue c || cmdField c.bytes 0 1 != 1 || commandRuns s c || c.done.isSome
  putQcb { s with sched := { s.sched with cmds := s.sched.cmds.filter keep } } { q with state := 3, errSt := 0x0F }

/-- A tail write reaches a present queue. -/
def applyTail (s : State) (r : Req) (q : Qcb) : State :=
  let t := r.operand.toNat % 2 ^ 32
  if countFrom q.head t > 2 ^ q.order then answer (stopQueue s q) r 0x03 []
  else
    let s := announce s q t
    let q := { q with tail := t }
    answer (putQcb s { q with state := if q.state == 0 && t != q.head then 1 else q.state }) r 0x00 []

/-- A fetch of an entry's object is under way, or begins; `add` says what waits for it. -/
def holdFetch (s : State) (table : Bool) (entry host : Nat) (add : Fetch → Fetch) : State :=
  let fs := s.sched.fetches
  if fs.any (fun f => f.entry == entry) then
    { s with sched := { s.sched with fetches := fs.map (fun f => if f.entry == entry then add f else f) } }
  else
    { s with nextId := s.nextId + 1
             sched := { s.sched with fetches := fs ++ [add { id := s.nextId, table := table, host := host, entry := entry, held := [] }] } }

/-- A request waits for a fetch. -/
def holdForFetch (s : State) (r : Req) (table : Bool) (entry host : Nat) : State :=
  holdFetch s table entry host (fun f => { f with held := f.held ++ [r] })

/-- The scheduler itself waits for a fetch, for a queue. -/
def holdWant (s : State) (pasid queue : Nat) (table : Bool) (entry host : Nat) : State :=
  holdFetch s table entry host (fun f => if f.wants.contains (pasid, queue) then f else { f with wants := f.wants ++ [(pasid, queue)] })

/-- Two requests name the same queue. -/
def sameQueue (a b : Req) : Bool := a.pasid == b.pasid && a.index == b.index

/-- A tail write of a queue that has earlier ones held joins them (R33). -/
def joinsHeld (s : State) (r : Req) : Option State :=
  if s.sched.waiting.any (sameQueue r) then some { s with sched := { s.sched with waiting := s.sched.waiting ++ [r] } }
  else if s.sched.fetches.any (fun f => f.held.any (sameQueue r)) then
    some { s with sched := { s.sched with fetches := s.sched.fetches.map (fun f =>
      if f.held.any (sameQueue r) then { f with held := f.held ++ [r] } else f) } }
  else none

/-- A tail write is served, or held at the scheduler. -/
def serveTail (s : State) (r : Req) : State :=
  match joinsHeld s r with
  | some s => s
  | none =>
    match getQueue s r.pasid.toNat r.index.toNat with
    | .absent s => answer s r 0x03 []
    | .ready s q => applyTail s r q
    | .fetch s t e h => holdForFetch s r t e h
    | .noRoom s _ => { s with sched := { s.sched with waiting := s.sched.waiting ++ [r] } }

/-! ### Completion of a command (R38, R41) -/

/-- The address of a command in its ring (R31). -/
def ringAt (q : Qcb) (index : Nat) : Nat := q.base + 128 * (index % 2 ^ q.order)

/-- A command signals (R37). -/
def cmdSignals (b : List Byte) : Bool := bit (cmdField b 1 1) 4

/-- A completion counter after a signal (R38). -/
def signalled (v : Word) (inc : Nat) : Word := if v.toNat + inc ≥ 2 ^ 64 then BitVec.allOnes 64 else v + BitVec.ofNat 64 inc

/-- The command of a queue that is under way. -/
def headCmd (s : State) (pasid queue : Nat) : Option HeadCmd := s.sched.cmds.find? (cmdOfQueue pasid queue)

/-- No command of a queue is under way any longer. -/
def dropCmd (s : State) (pasid queue : Nat) : State :=
  { s with sched := { s.sched with cmds := s.sched.cmds.filter (fun c => !cmdOfQueue pasid queue c) } }

/-- A completing command's status word at its address, and its signal if it did not fail; `between` stands between the two (R41). -/
def statusAndSignal (s : State) (at_ : Nat) (b : List Byte) (status : Nat) (between : State → State) : State :=
  let n := cmdField b 6 1
  let v := tgetD s.cc n 0
  let inc := cmdField b 16 4
  let adds := status == 0 && cmdSignals b
  let code := if adds && v.toNat + inc ≥ 2 ^ 64 then 0x000C else status
  let s := between (schedWrite s (at_ + 124) (bytesOf 4 (code + 2 ^ 31)))
  if adds then { s with cc := tset s.cc n (signalled v inc) } else s

/-- The head of a queue passes a command, unless the queue has been restarted elsewhere meanwhile (R34, R41). -/
def passHead (s : State) (q : Qcb) (index : Nat) : State :=
  let head := if q.head == index then (q.head + 1) % 2 ^ 32 else q.head
  let q := { q with head := head, state := if q.state == 3 then 3 else if head == q.tail then 0 else 1 }
  let s := putQcb s q
  { s with sched := { s.sched with tails := tset s.sched.tails (queueKey q.pasid q.queue) (announced s q) } }

/-- A command completes, its queue's QCB being there: status word, head and signal, as one action (R41). -/
def finishCmd (s : State) (q : Qcb) (b : List Byte) (status : Nat) : State :=
  let c := headCmd s q.pasid q.queue
  let index := (c.map (fun c => c.index)).getD q.head
  let at_ := (c.map (fun c => c.addr)).getD (ringAt q q.head)
  statusAndSignal (dropCmd s q.pasid q.queue) at_ b status (fun s => passHead s q index)

/-- The steps of a command whose queue is gone: its status and its signal, without a head to advance (R41). -/
def finishLost (s : State) (c : HeadCmd) (status : Nat) : State := statusAndSignal (dropCmd s c.pasid c.queue) c.addr c.bytes status id

/-- The scheduler needs the QCB of a queue for itself: to take its next command, or to complete one that waits for it. -/
def wantQueue (s : State) (pasid queue : Nat) : State :=
  let status := (headCmd s pasid queue).bind (fun c => c.done.map (fun status => (c, status)))
  match getQueue s pasid queue with
  | .absent s =>
    match status with
    | some (c, status) => finishLost s c status
    | none => s
  | .fetch s t e h => holdWant s pasid queue t e h
  | .noRoom s _ => { s with sched := { s.sched with wants := s.sched.wants ++ [(pasid, queue)] } }
  | .ready s q =>
    match status with
    | some (c, status) => finishCmd s q c.bytes status
    | none => s

/-- Tail writes held in order are served again. -/
def serveAgain (s : State) (rs : List Req) : State := rs.foldl serveTail s

/-- The queues that the scheduler wanted are sought again. -/
def wantAgain (s : State) (qs : List (Nat × Nat)) : State := qs.foldl (fun s q => wantQueue s q.1 q.2) s

/-- Whatever waited for a QCB to become droppable is served, as long as there is room (R30). -/
def serveLoop : Nat → State → State
  | 0, s => s
  | n + 1, s =>
    if (s.sched.waiting.isEmpty && s.sched.wants.isEmpty) || (s.sched.cache.length ≥ 256 && !s.sched.cache.any droppable) then s
    else serveLoop n (wantAgain (serveAgain { s with sched := { s.sched with waiting := [], wants := [] } } s.sched.waiting) s.sched.wants)

/-- A QCB may have become droppable. -/
def serveWaiting (s : State) : State := serveLoop (s.sched.waiting.length + s.sched.wants.length) s

/-- A command of a queue completes with a status (R41). It waits for its queue's QCB where that has to be fetched; where the queue is gone, the command has
its status all the same. -/
def completeCmd (s : State) (pasid queue : Nat) (b : List Byte) (status : Nat) : State :=
  match getQueue s pasid queue with
  | .ready s q | .noRoom s q => serveWaiting (finishCmd s q b status)
  | .fetch s t e h =>
    let mark := fun (c : HeadCmd) => if cmdOfQueue pasid queue c then { c with done := some status } else c
    holdWant { s with sched := { s.sched with cmds := s.sched.cmds.map mark } } pasid queue t e h
  | .absent s =>
    match headCmd s pasid queue with
    | some c => finishLost s c status
    | none => s

/-! ### Tail writes and invalidation (R26, R33) -/

/-- Tail write (R26, R33). A queue number of 256 or more names no queue, so the write is refused like that of an absent one: a choice of the model (log
entry 47). -/
def tailWrite (s : State) (r : Req) : State :=
  if !headerOk r || !bare r || r.operand.toNat ≥ 2 ^ 32 then answer s r 0x01 []
  else if r.index.toNat ≥ 256 then answer s r 0x03 []
  else serveWaiting (serveTail s r)

/-- QCB invalidate (R26): the cached copy is written back and dropped. A queue that has commands left is needed again at once. That of a queue number of 256
or more, which names no queue, is answered 0x00: a choice of the model (log entry 47). -/
def qcbInvalidate (s : State) (r : Req) : State :=
  if !headerOk r || !bare r then answer s r 0x01 []
  else
    let pasid := r.pasid.toNat
    let queue := r.index.toNat
    let s := { s with sched := { s.sched with bad := s.sched.bad.filter (fun e => e != (pasid, queue)) } }
    match cachedQcb s pasid queue with
    | some q =>
      let s := answer (dropQcb s q) r 0x00 []
      serveWaiting (if q.state != 3 && q.head != q.tail then wantQueue s pasid queue else s)
    | none => answer s r 0x00 []

/-! ### The queue pool (R30) -/

/-- Address of place `i` of the pool: 64 tables of 2 MiB, then 4,096 QCBs, in the stack 0 memory that the firmware keeps for it. -/
def poolPlace (table : Bool) (i : Nat) : Nat :=
  let base := Config.poolBase % 24000 * 2 ^ 21
  if table then base + i * 2 ^ 21 else base + 64 * 2 ^ 21 + 64 * i

/-- The lowest free place for an object of a kind. -/
def poolFree (s : State) (table : Bool) : Option Nat :=
  ((List.range (if table then 64 else 4096)).map (poolPlace table)).find? (fun a => !s.sched.pool.any (fun o => o.addr == a))

/-- A QCB in device memory is idle or stopped. -/
def restingQcb (s : State) (a : Nat) : Bool := deviceNat s (a + 23) 1 == 0 || deviceNat s (a + 23) 1 == 3

/-- The QCBs that a pool object stands for: itself, or those that the present entries of a table name. -/
def objQcbs (s : State) (o : PoolObj) : List Nat :=
  if !o.table then [o.addr]
  else ((List.range (2 ^ 18)).map (fun i => entryAt s (o.addr + 8 * i))).filterMap (fun w =>
    if entryNames w && bit w 1 then some (entryAddr w) else none)

/-- An object may be evicted: its queues are idle or stopped and not cached, and no fetch is to come into it. -/
def evictable (s : State) (o : PoolObj) : Bool :=
  (objQcbs s o).all (fun a => restingQcb s a && !s.sched.cache.any (fun q => q.addr == a))
    && s.sched.fetches.all (fun f => !(o.table && o.addr ≤ f.entry && f.entry < o.addr + 2 ^ 21))

/-- The table of the pool that an entry lies in. -/
def tableAt (s : State) (entry : Nat) : Option PoolObj :=
  s.sched.pool.find? (fun t => t.table && t.addr ≤ entry && entry < t.addr + 2 ^ 21)

/-- An object goes back to the host, and the entry that named it names the host address again: in device memory, or in a table that has gone back before
it (R30). -/
def evict (s : State) (o : PoolObj) : State :=
  let word := fun (w : Nat) => bytesOf 8 (pack [(3, 1 + 4 * bits w 2 1), (3, 0), (46, o.host / 64), (12, 0)])
  let s := { s with outbox := s.outbox ++ [Parcel.host o.host (deviceBytes s o.addr (if o.table then 2 ^ 21 else 64))] }
  let here := fun (s : State) (a : Nat) => schedWrite s a (word (entryAt s a))
  let s := match o.under with
    | none => here s o.entry
    | some host => match s.sched.pool.find? (fun (t : PoolObj) => t.table && t.host == host) with
      | some t => here s (t.addr + o.entry)
      | none => { s with outbox := s.outbox ++ [Parcel.host (host + o.entry) (word 0)] }
  { s with sched := { s.sched with pool := s.sched.pool.filter (fun p => p.addr != o.addr) } }

/-- A place for an object, after an eviction if the pool has no room. -/
def poolRoom (s : State) (table : Bool) : Option (State × Nat) :=
  match poolFree s table with
  | some a => some (s, a)
  | none =>
    (s.sched.pool.find? (fun o => o.table == table && evictable s o)).map (fun o => (evict s o, o.addr))

/-- The fetched object is placed and its entry rewritten (R30, steps 2 and 3). -/
def placeFetched (s : State) (f : Fetch) (bytes : List Byte) (a : Nat) : State :=
  let s := schedWrite s a bytes
  let w := entryAt s f.entry
  let o : PoolObj := match tableAt s f.entry with
    | some t => { table := f.table, addr := a, host := f.host, entry := f.entry - t.addr, under := some t.host }
    | none => { table := f.table, addr := a, host := f.host, entry := f.entry }
  let s := schedWrite s f.entry (bytesOf 8 (pack [(3, 3 + 4 * bits w 2 1), (3, 0), (46, a / 64), (12, 0)]))
  { s with sched := { s.sched with pool := s.sched.pool ++ [o] } }

/-- A fetch ends without its object: what it held is answered 0x07 (R33), and a command that waits for it to complete seeks it again. -/
def fetchFails (s : State) (f : Fetch) : State :=
  let s := f.held.foldl (fun s r => answer s r 0x07 []) s
  wantAgain s (f.wants.filter (fun e => (headCmd s e.1 e.2).any (fun c => c.done.isSome)))

/-- A fetch by its number, and the state without it. -/
def fetchOf (s : State) (id : Nat) : Option (Fetch × State) :=
  (s.sched.fetches.find? (fun f => f.id == id)).map (fun f =>
    (f, { s with sched := { s.sched with fetches := s.sched.fetches.filter (fun g => g.id != id) } }))

/-- `QCB_FETCH_DONE` (R30): an answer of another length than the object's is the host's error. -/
def execQcbFetchDone (fetch : Nat) (bytes : List (BitVec 8)) (s : State) : Answer :=
  match fetchOf s fetch with
  | none => .next s
  | some (f, s) =>
    if bytes.length != (if f.table then 2 ^ 21 else 64) then .next (fetchFails s f)
    else match poolRoom s f.table with
      | none => .next (fetchFails s f)
      | some (s, a) => .next (serveWaiting (wantAgain (serveAgain (placeFetched s f bytes a) f.held) f.wants))

/-- `QCB_FETCH_TIMEOUT` (R30). -/
def execQcbFetchTimeout (fetch : Nat) (s : State) : Answer :=
  match fetchOf s fetch with
  | none => .next s
  | some (f, s) => .next (fetchFails s f)

/-! ### Requests in sequence (R27) -/

/-- Answer a request that came to its end. -/
def finishReq (r : Req) (d : Served) : State :=
  match d.reply with
  | some (status, data) => answer d.state r status data
  | none => d.state

/-- A request in its turn is applied, or refused (R26, R28). -/
def applyReq (s : State) (r : Req) : State :=
  match r.op.toNat with
  | 0x01 => finishReq r (dataWrite s r)
  | 0x02 => tailWrite s r
  | 0x03 => finishReq r (dataRead s r)
  | 0x04 => finishReq r (chunkPut s r)
  | 0x05 => qcbInvalidate s r
  | 0x06 => finishReq r (controlWrite s r)
  | 0x07 => finishReq r (controlRead s r)
  | 0x08 => finishReq r (givePage s r)
  | 0x09 => finishReq r (takePage s r)
  | 0x0A => finishReq r (mapPage s r)
  | 0x0B => finishReq r (unmapPage s r)
  | 0x0D => finishReq r (refusePage s r)
  | _ => answer s r 0x01 []

/-- Where the scheduler reads and writes for a queue: its cached QCB, or the entries of the walk and the QCB that they name. -/
def queueHomes (s : State) (pasid queue : Nat) : List Nat :=
  match cachedQcb s pasid queue with
  | some q => [q.addr]
  | none =>
    let e1 := level1At s pasid
    let w1 := entryAt s e1
    if !entryNames w1 || !bit w1 1 then [e1]
    else
      let e2 := level2At (entryAddr w1) pasid queue
      let w2 := entryAt s e2
      if !entryNames w2 || !bit w2 1 then [e1, e2] else [e1, e2, entryAddr w2]

/-- The device memory that a request works at, as far as its fields name any (R26, R197). -/
def reqHomes (s : State) (r : Req) : List Nat :=
  let n := r.length.toNat
  let page := fun (_ : Unit) => (s.maps.filter (fun m => m.pasid == r.pasid.toNat && m.va == r.operand)).map (fun m => m.pa)
  match r.op.toNat with
  | 0x01 | 0x03 => if headerOk r && n != 0 && n ≤ 65536 && rangePresent s r.operand.toNat n then [r.operand.toNat] else []
  | 0x02 | 0x05 => if headerOk r && bare r && r.index.toNat < 256 then queueHomes s r.pasid.toNat r.index.toNat else []
  | 0x08 | 0x09 => page ()
  | _ => []

/-- A request that works at a failed function is answered with the status of an uncorrectable error, and has no effect (R395). R28 names no such status, so it
is free (log entry 53). -/
def serveReq (s : State) (r : Req) : State :=
  if (reqHomes s r).any (homeFailed s 0) then answer s r (Config.pick s.free (2 ^ 43 + r.seq.toNat) % 256) [] else applyReq s r

/-- The sequence number that the mailbox expects of a source. -/
def expected (s : State) (source : Nat) : Nat := tgetD s.mbox.expect source 0

/-- The arrival record of a request. -/
def reqRecord (r : Req) : Word := arrivalWord 0 r.source r.seq.toNat

/-- The sequence turn of a request has come: its predecessor has been applied. -/
def turnReady (s : State) (r : Req) : Bool := r.seq.toNat == expected s r.source && s.mbox.ready.all (fun e => e.source != r.source)

/-- A request comes to the mailbox: it joins those that are ready, in the order of their turns, or is held ahead of its predecessor (R27). -/
def enterMailbox (s : State) (r : Req) : State :=
  if s.mbox.ready.contains r then s
  else if turnReady s r then { s with mbox := { s.mbox with ready := s.mbox.ready ++ [r] } }
  else { s with mbox := { s.mbox with held := s.mbox.held ++ [r] } }

/-- A request that was held behind one just applied is ready. -/
def freeHeld (s : State) (source : Nat) : State :=
  match s.mbox.held.find? (fun r => r.source == source && turnReady s r) with
  | none => s
  | some r => { s with mbox := { s.mbox with ready := s.mbox.ready ++ [r], held := dropReq r s.mbox.held } }
where
  /-- A list of requests without the first that equals `r`. -/
  dropReq (r : Req) : List Req → List Req
    | [] => []
    | e :: l => if e == r then l else e :: dropReq r l

/-- A ready request is applied: it takes its place in the boundary order, the last in its gclk (R320), and its source's next turn comes. -/
def applyReady (s : State) (r : Req) : State :=
  let ps := s.parts.map (fun e => e.1)
  let s := ps.foldl (fun s p => passArrival s p (reqRecord r)) s
  let s := { s with mbox := { s.mbox with expect := tset s.mbox.expect r.source ((r.seq.toNat + 1) % 2 ^ 32)
                                          ready := s.mbox.ready.filter (fun e => e.source != r.source) } }
  serveReq (takePlace (freeHeld s r.source) (hostPlace s)) r

/-- Host requests may be applied now: every core has had its turn in the last cycle of a gclk, and no epoch is to close first (R320, R338). -/
def hostTurn (s : State) : Bool := s.turn == 0 && roundMoved s && !epochPending s

/-- The ready request that may be applied: the first that every arrival log lets in, and whose homes can be reached (R27, R381, R395). -/
def nextReady (s : State) : Option Req := s.mbox.ready.find? (fun r => arrivalLets s (reqRecord r) && (reqHomes s r).all (homeReached s 0))

/-- The first ready request goes on when the mailbox has its turn; one that no log lets in stays, unapplied, and raises its cause (R380, R382). -/
def mailboxTurn (s : State) : State :=
  if !hostTurn s then s
  else match nextReady s with
    | some r => applyReady s r
    | none =>
      match s.mbox.ready with
      | [] => s
      | r :: _ => (s.parts.map (fun e => e.1)).foldl (fun s p => owesTrap s p (reqRecord r)) s

/-- A request reaches the mailbox: it is applied in its turn, and held before it. -/
def receive (s : State) (r : Req) : State :=
  if !s.powered || s.boot != .running then s else mailboxTurn (enterMailbox s r)

/-- The request that the mailbox attends to now. -/
def attended (s : State) : Option Req :=
  if !hostTurn s then none
  else match nextReady s with
    | some r => some r
    | none => s.mbox.ready.head?.filter (fun r => arrivalOwes s (reqRecord r))

/-- `DATA_WRITE` (R26, R27). -/
def execDataWrite (r : Req) (s : State) : Answer := .next (receive s r)

/-- `TAIL_WRITE` (R26, R33). -/
def execTailWrite (r : Req) (s : State) : Answer := .next (receive s r)

/-- `DATA_READ` (R26, R27). -/
def execDataRead (r : Req) (s : State) : Answer := .next (receive s r)

/-- `CHUNK_PUT` (R26). -/
def execChunkPut (r : Req) (s : State) : Answer := .next (receive s r)

/-- `QCB_INVALIDATE` (R26). -/
def execQcbInvalidate (r : Req) (s : State) : Answer := .next (receive s r)

/-- `CONTROL_WRITE` (R38). -/
def execControlWrite (r : Req) (s : State) : Answer := .next (receive s r)

/-- `CONTROL_READ` (R38). -/
def execControlRead (r : Req) (s : State) : Answer := .next (receive s r)

/-- `GIVE` (R197). -/
def execGive (r : Req) (s : State) : Answer := .next (receive s r)

/-- `TAKE` (R197). -/
def execTake (r : Req) (s : State) : Answer := .next (receive s r)

/-- `MAP` (R197). -/
def execMap (r : Req) (s : State) : Answer := .next (receive s r)

/-- `UNMAP` (R197). -/
def execUnmap (r : Req) (s : State) : Answer := .next (receive s r)

/-- `REFUSE` (R197, R204). -/
def execRefuse (r : Req) (s : State) : Answer := .next (receive s r)

end Sys2Proof.Machine
end

