-- ==== Sys2Proof/Machine/Launch.lean ====
section
/-! DEFINITION. Commands of a queue (R35 to R41): no operation, launch, slot load and slot release; the resident model slots; admission and
completion of a kernel. -/
namespace Sys2Proof.Machine

/-! ### Fields of a command (R37) -/

def cmdKind (b : List Byte) : Nat := cmdField b 0 1
def cmdFlags (b : List Byte) : Nat := cmdField b 1 1
def cmdPriority (b : List Byte) : Nat := cmdField b 2 1
def cmdSlot (b : List Byte) : Nat := cmdField b 3 1
def cmdBuffers (b : List Byte) : Nat := cmdField b 4 1
def cmdPointer (b : List Byte) : Nat := cmdField b 24 8
def cmdWaits (b : List Byte) : Bool := bit (cmdFlags b) 3

/-- The signal fields are in range (R37). -/
def signalOk (b : List Byte) : Bool := cmdField b 6 1 < 64 && !(cmdSignals b && cmdField b 16 4 == 0)

/-- Status 0x0001 of a launch, or of a command of no kind. DESIGN CHOICE (log entry 48): R37 names no status for a slot byte above 63, which names no slot; it
gets that of a field that is not as it must be. -/
def launchBad (b : List Byte) : Bool :=
  cmdKind b != 1 || bits (cmdFlags b) 5 3 != 0 || cmdPriority b > 7 || cmdSlot b > 63 || cmdBuffers b > 8 || cmdField b 5 1 > 63
    || !signalOk b || !cmdZero b 7 1 || !cmdZero b 20 4 || !cmdZero b 96 28
    || !cmdZero b (32 + 8 * cmdBuffers b) (8 * (8 - cmdBuffers b))

/-- Status 0x0001 of the other kinds, a slot byte above 63 among its causes (log entry 48): bytes that the kind does not use are zero. `own` says that the slot byte is used, `load` that the
pointer and the object's name are. -/
def otherBad (b : List Byte) (own load : Bool) : Bool :=
  !(cmdFlags b == 0 || cmdFlags b == 16) || !cmdZero b 2 1 || cmdSlot b > 63 || (!own && !cmdZero b 3 1) || !cmdZero b 4 2 || !signalOk b
    || !cmdZero b 7 9 || !cmdZero b 20 4 || (!load && !cmdZero b 24 40) || !cmdZero b 64 60

/-! ### The head of a queue -/

/-- The head command of a queue is under way. -/
def headTaken (s : State) (pasid queue : Nat) : Bool := (headCmd s pasid queue).isSome

/-- The ends of a range of a space can be reached, as far as they are mapped (R395). -/
def spaceReached (s : State) (pasid va n : Nat) : Bool :=
  [va, va + n - 1].all (fun a => (findMap s pasid (BitVec.ofNat 64 a)).all (fun m => homeReached s 0 (mappedAddr m (BitVec.ofNat 64 a))))

/-- What a command's pointer names can be read: a launch's record, or a slot load's segment list of 255 entries at most (R37, R395). -/
def pointerReached (s : State) (pasid : Nat) (b : List Byte) : Bool :=
  match cmdKind b with
  | 1 => spaceReached s pasid (cmdPointer b) 256
  | 2 => cmdPointer b == 0 || spaceReached s pasid (cmdPointer b) 8168
  | _ => true

/-- The next command of a queue, when it may be begun (R39). One that lies outside device memory, or in a failed stack, is never taken (log entries 22 and
53); one in a stack in training, or that points into one, not yet (R395). -/
def nextCommand (s : State) (pasid queue : Nat) : Option (Qcb × List Byte) :=
  match cachedQcb s pasid queue with
  | none => none
  | some q =>
    if q.state == 3 || q.head == q.tail || headTaken s pasid queue || !rangePresent s (ringAt q q.head) 128
      || !homeReached s 0 (ringAt q q.head) || homeFailed s 0 (ringAt q q.head) then none
    else
      let b := deviceBytes s (ringAt q q.head) 128
      if pointerReached s pasid b then some (q, b) else none

/-- A command is under way at the head of its queue. -/
def beginCmd (s : State) (q : Qcb) (b record : List Byte) (state : Nat) : State :=
  let c : HeadCmd := { pasid := q.pasid, queue := q.queue, index := q.head, bytes := b,
                       order := (((announced s q).head?).map (fun e => e.1)).getD 0, record := record, addr := ringAt q q.head }
  putQcb { s with sched := { s.sched with cmds := s.sched.cmds ++ [c] } } { q with state := if q.state == 3 then 3 else state }

/-- `NO_OPERATION` (R41): it completes when it is taken. -/
def execNoOperation (pasid queue : Nat) (s : State) : Answer :=
  match nextCommand s pasid queue with
  | none => .next s
  | some (q, b) =>
    if cmdKind b != 0 then .next s
    else .next (completeCmd (beginCmd s q b [] 1) pasid queue b (if otherBad b false false then 0x0001 else 0))

/-! ### Reading through a space (R37) -/

/-- `n` bytes of a space from an address; none unless every byte lies in a page that is device-owned, with R set and S clear, and its home has not failed
(log entry 53). -/
def readSpace (s : State) (pasid va : Nat) : Nat → Option (List Byte)
  | 0 => some []
  | n + 1 =>
    match readSpace s pasid va n, findMap s pasid (BitVec.ofNat 64 (va + n)) with
    | some bs, some m =>
      if canonical (BitVec.ofNat 64 (va + n)) && !m.host && bit m.perms 0 && !bit m.perms 4
          && !homeFailed s 0 (mappedAddr m (BitVec.ofNat 64 (va + n))) then
        some (bs ++ deviceBytes s (mappedAddr m (BitVec.ofNat 64 (va + n))) 1)
      else none
    | _, _ => none

/-! ### The loop-nest record (R48, R49) -/

/-- The record of a launch, or none when it completes with status 0x0003 (R37, R49). -/
def readNest (s : State) (pasid ptr : Nat) : Option (List Byte) :=
  if ptr % 64 != 0 then none
  else match readSpace s pasid ptr 256 with
    | some r => if nestOk r then some r else none
    | none => none

/-! ### Launches (R39, R40) -/

/-- A model slot. -/
def slotAt (s : State) (n : Nat) : ModelSlot := tgetD s.slots n ModelSlot.reset

/-- The failure of a launch, in the order of the status table (R40). -/
def launchFault (s : State) (q : Qcb) (b : List Byte) : Option Nat :=
  let st := (slotAt s (cmdSlot b)).state
  if launchBad b then some 0x0001
  else if bits (cmdFlags b) 1 2 == 3 then some 0x0002
  else if (readNest s q.pasid (cmdPointer b)).isNone then some 0x0003
  else if st == .free || st == .releasing then some 0x0004
  else if (partMap s q.part).isNone then some 0x000A
  else none

/-- A launch at the head of a queue that waits to be admitted. -/
def waitingLaunch (s : State) (pasid queue : Nat) : Option (Qcb × HeadCmd) :=
  match cachedQcb s pasid queue, headCmd s pasid queue with
  | some q, some c => if commandRuns s c || cmdKind c.bytes != 1 || c.done.isSome || q.state == 3 then none else some (q, c)
  | _, _ => none

/-- What a waiting launch comes to when its slot changes under it (R35): it fails once the slot is releasing or free, and its queue stalls on
residency while the slot is loading or restoring. -/
def slotChanged (s : State) (pasid queue : Nat) : Option State :=
  match waitingLaunch s pasid queue with
  | none => none
  | some (q, c) =>
    match (slotAt s (cmdSlot c.bytes)).state with
    | .free | .releasing => some (completeCmd s pasid queue c.bytes 0x0004)
    | .loading | .restoring => if q.state == 1 then some (putQcb s { q with state := 2 }) else none
    | .resident => none

/-- The cluster of a core (R44). -/
def leafOf (core : Nat) : Nat := 12 * dieOf core + 4 * ((stopOf core).2 / 2) + (stopOf core).1 / 2

/-- Every cluster of a partition is ready (R395). -/
def clustersReady (s : State) (part : Nat) : Bool := (coresOf s part).all (fun c => bit s.ready.toNat (12 + leafOf c))

/-- `LAUNCH` (R40): validated in the order of the status table; the first failure completes it at once. While its slot is loading or restoring, or a
cluster of its partition is not ready (R395), the queue stalls on residency. -/
def execLaunch (pasid queue : Nat) (s : State) : Answer :=
  match nextCommand s pasid queue with
  | none => .next ((slotChanged s pasid queue).getD s)
  | some (q, b) =>
    if cmdKind b == 0 || cmdKind b == 2 || cmdKind b == 3 then .next s
    else match launchFault s q b with
      | some code => .next (completeCmd (beginCmd s q b [] 1) pasid queue b code)
      | none =>
        let rec_ := (readNest s q.pasid (cmdPointer b)).getD []
        .next (beginCmd s q b rec_ (if (slotAt s (cmdSlot b)).state == .resident && clustersReady s q.part then 1 else 2))

/-- A launch is ready: its wait is met and its slot resident (R39). -/
def launchReady (s : State) (c : HeadCmd) : Bool :=
  cmdKind c.bytes == 1 && (slotAt s (cmdSlot c.bytes)).state == .resident
    && (!cmdWaits c.bytes || cmdField c.bytes 8 8 ≤ (tgetD s.cc (cmdField c.bytes 5 1) 0).toNat)

/-- The priority of a command under its queue's cap (R31). -/
def priorityOf (s : State) (c : HeadCmd) : Nat :=
  match cachedQcb s c.pasid c.queue with
  | some q => min q.cap (cmdPriority c.bytes)
  | none => cmdPriority c.bytes

/-- The partition of a command's queue. -/
def partOfCmd (s : State) (c : HeadCmd) : Option Nat := (cachedQcb s c.pasid c.queue).map (fun q => q.part)

/-- A queue bound to a partition has a launch for its next command that has yet to be taken and validated: admission waits for it (R39). -/
def untakenLaunch (s : State) (part : Nat) : Bool :=
  s.sched.cache.any (fun q => q.part == part && (nextCommand s q.pasid q.queue).any (fun e => cmdKind e.2 == 1))

/-- A launch that waits to be admitted. -/
def isWaiting (s : State) (c : HeadCmd) : Bool := (waitingLaunch s c.pasid c.queue).any (fun e => e.2 == c)

/-- The command whose launch a partition admits: highest priority, then the earliest tail write (R39). -/
def admitted (s : State) (part : Nat) : Option HeadCmd :=
  (s.sched.cmds.filter (fun c => partOfCmd s c == some part && launchReady s c && isWaiting s c)).foldl (fun best c => match best with
    | none => some c
    | some b =>
      if priorityOf s c > priorityOf s b || (priorityOf s c == priorityOf s b && c.order < b.order) then some c else some b) none

/-- The partition is idle. -/
def partIdle (s : State) (part : Nat) : Bool := (partAt s part).kernel.isNone && (partAt s part).halt == .none

/-- The code mappings of a slot's image in a space, if it has none there yet. -/
def mapImage (s : State) (pasid slot : Nat) : State :=
  let m := slotAt s slot
  if s.code.any (fun c => c.pasid == pasid && c.va / 2 ^ 44 == m.base / 2 ^ 44) then s
  else
    match s.code.filter (fun c => c.va / 2 ^ 44 == m.base / 2 ^ 44) with
    | [] => s
    | cs =>
      let one := (cs.headD { pasid := 0, va := 0, src := .native 0, present := true, checked := false, bytes := [], next := none }).pasid
      { s with code := s.code ++ (cs.filter (fun c => c.pasid == one)).map (fun c => { c with pasid := pasid, checked := false }) }

/-- Buffer addresses of a launch (R37). -/
def bufferOf (b : List Byte) (i : Nat) : Word := BitVec.ofNat 64 (cmdField b (32 + 8 * i) 8)

/-- The scheduler's messages to the leaves of a partition that hand over a kernel (R40, R42). -/
def tellLeaves (s : State) (part : Nat) : State :=
  (((coresOf s part).map leafOf).eraseDups).foldl (fun s l => sendLink s l true) s

/-- `LAUNCH_ADMIT` (R39, R40): modes, buffers, and the record handed to the Atomizers. Only a partition whose clusters are all ready admits a launch
(R395). -/
def execLaunchAdmit (part : Nat) (s : State) : Answer :=
  if !partIdle s part || (partMap s part).isNone || !clustersReady s part || untakenLaunch s part then .next s
  else match admitted s part with
    | none => .next s
    | some c =>
      let flags := cmdFlags c.bytes
      let k : Kernel := { id := s.nextId, pasid := c.pasid, queue := c.queue, index := c.index, slot := cmdSlot c.bytes,
                          ordered := bit flags 0, record := bit flags 1, replay := bit flags 2, recBytes := c.record, next := 0,
                          patience := none, running := [], closed := 0, report := none }
      let s := { s with nextId := s.nextId + 1 }
      let s := match cachedQcb s c.pasid c.queue with
        | some q => putQcb s { q with state := if q.state == 3 then 3 else 1 }
        | none => s
      let s := tellLeaves s part
      .next (modPart (mapImage s c.pasid k.slot) part (fun p =>
        { p with kernel := some k, rmode := BitVec.ofNat 64 (flags % 8), run4 := [],
                 rl := (List.range 8).foldl (fun t i => tset t i (bufferOf c.bytes i)) p.rl }))

/-! ### Slot load (R35, R36) -/

/-- An entry of a segment list (R37). -/
structure ListEntry where
  name  : Nat
  image : Nat
  size  : Nat
  deriving DecidableEq, Repr

/-- The entries of a segment list in its bytes. -/
def listEntries (b : List Byte) (n : Nat) : List ListEntry :=
  (List.range n).map (fun i => { name := cmdField b (8 + 32 * i) 8, image := cmdField b (16 + 32 * i) 8, size := cmdField b (24 + 32 * i) 4 })

/-- A segment list, when it is readable and valid (R37). DESIGN CHOICE (log entry 48): no rule gives its pointer an alignment that it could miss, so a list
may stand at any address. -/
def readList (s : State) (pasid ptr : Nat) : Option (List ListEntry) :=
  if ptr == 0 then some []
  else match readSpace s pasid ptr 8 with
    | none => none
    | some h =>
      let n := cmdField h 0 4
      if n > 255 || !cmdZero h 4 4 then none
      else match readSpace s pasid ptr (8 + 32 * n) with
        | none => none
        | some b =>
          let es := listEntries b n
          if es.all (fun e => e.name != 0 && 4096 ≤ e.size && e.size ≤ 2 ^ 22 && e.size % 4096 == 0 && e.image % 4096 == 0
              && (imagePages s pasid e.image e.size).isSome)
            && (List.range n).all (fun i => cmdZero b (28 + 32 * i) 12) && (es.map (fun e => e.name)).Nodup then some es
          else none

/-- Partition cores from index `i` on, wrapping once round. -/
def coresFrom (s : State) (part i : Nat) : List Nat := (coresOf s part).drop i ++ (coresOf s part).take i

/-- A segment is placed on the first core that has room (R36): the state, and the partition index of the core. -/
def placeOn (s : State) (part : Nat) (g : Segment) : List Nat → Option (State × Nat)
  | [] => none
  | c :: r =>
    match roomFor s c g.size with
    | some (s, off) => some (beginLoad s c g off, partIndex s part c)
    | none => placeOn s part g r

/-- The PINNED segments of a list are created and their loads begun, from core index `i` on; none when one finds no room. -/
def placeAll (s : State) (part slot pasid i : Nat) : List ListEntry → Option State
  | [] => some s
  | e :: r =>
    if s.segs.length ≥ 65536 then none
    else
      let g : Segment := { name := e.name, owner := slotOwner slot, cls := 0, size := e.size, image := BitVec.ofNat 64 e.image,
                           pages := (imagePages s pasid e.image e.size).getD [], frozen := false, version := 0, cores := [],
                           kernel := 0, lost := false }
      match placeOn { s with segs := s.segs ++ [g] } part g (coresFrom s part i) with
      | none => none
      | some (s, j) => placeAll s part slot pasid j r

/-- The copies that were being evicted on the cores of a partition are absent. -/
def endAllEvictions (s : State) (part : Nat) : State := (coresOf s part).foldl endEvictions s

/-- Copies that have to leave before a plan can be carried out begin to leave (R59); none has to. -/
def clearFirst (s plan : State) : Option State :=
  match leaving s plan with
  | [] => none
  | l => some (l.foldl (fun s e => beginEviction s e.1 e.2) s)

/-- Virtual address of page 0 of a slot's image: a free value, apart for each slot (log entry 9). -/
def slotBase (slot : Nat) : Nat := 4096 * (slot * 2 ^ 32 + Config.imagePlace slot % 2 ^ 31)

/-- The code mappings of a loaded image in the space of the queue that carried the load. -/
def imageCode (pasid base : Nat) (ps : List ImagePage) : List CodePage :=
  ps.map (fun p => { pasid := pasid, va := base + 4096 * p.index, src := p.src, present := true, checked := false, bytes := p.bytes,
                     next := none })

/-- What a slot load comes to before its segments are placed: the status of its first failure, or the slot with its pages and segments (R35). An
absent partition shows where its segments would be made resident (log entry 22). -/
def loadSlot (s : State) (q : Qcb) (b : List Byte) : Except Nat (ModelSlot × List ImagePage × List ListEntry) :=
  let n := cmdSlot b
  if otherBad b true true then .error 0x0001
  else if (slotAt s n).state != .free then .error 0x0005
  else
    let object := hashOf ((b.drop 32).take 32)
    match checkedChunk s object with
    | none => .error 0x0007
    | some head =>
      match parseHead head with
      | none => .error 0x0006
      | some es =>
        match chooseImage s.conf.features es with
        | none => .error 0x0008
        | some e =>
          match loadPages s e with
          | .error c => .error c
          | .ok ps =>
            if (partMap s q.part).isNone then .error 0x000A
            else match readList s q.pasid (cmdPointer b) with
            | none => .error 0x0003
            | some l =>
              let base := slotBase n
              .ok ({ state := .loading, object := object, image := e.index, tag := e.tag, base := base,
                     pages := (imageLeaves s e).getD [], entry := codePointer (base + 4096 * e.entry) e.anchor,
                     segs := l.map (fun x => x.name), pasid := q.pasid, queue := q.queue, part := q.part, features := e.features }, ps, l)

/-- The chunks that a slot load checks and finds good, before the first that fails (R11, R35). -/
def checkedIn (s : State) (b : List Byte) : List (BitVec 256) :=
  let good := fun (h : BitVec 256) => (checkedChunk s h).isSome
  let object := hashOf ((b.drop 32).take 32)
  if otherBad b true true || (slotAt s (cmdSlot b)).state != .free then []
  else match checkedChunk s object with
    | none => []
    | some head => object :: (match (parseHead head).bind (chooseImage s.conf.features) with
      | none => []
      | some e => ((imageLeaves s e).getD []).takeWhile good)

/-- Every copy of a slot's segments that it holds has arrived. -/
def slotArrived (s : State) (n : Nat) : Bool :=
  s.cores.all (fun e => e.2.dir.all (fun d => !(d.owner == slotOwner n && d.state == .loading)))

/-- A loading or restoring slot all of whose segments have arrived is resident; a slot load completes then (R35, R41). -/
def settleSlot (s : State) (n : Nat) : State :=
  let m := slotAt s n
  if !slotArrived s n then s
  else
    let up := { s with slots := tset s.slots n { m with state := .resident } }
    match m.state with
    | .loading =>
      (match s.sched.cmds.find? (fun c => c.pasid == m.pasid && c.queue == m.queue && cmdKind c.bytes == 2 && c.done.isNone) with
      | some c => completeCmd up m.pasid m.queue c.bytes 0
      | none => up)
    | .restoring => if s.segs.any (fun g => g.owner == slotOwner n && g.cores.isEmpty) then s else up
    | _ => s

/-- `SLOT_LOAD` (R35, R36): the first failure ends the load with its status. Copies that make room for its segments leave first; a load that finds no room
for all of them makes none leave (log entry 48). -/
def execSlotLoad (pasid queue : Nat) (s : State) : Answer :=
  match nextCommand s pasid queue with
  | none => .next s
  | some (q, b) =>
    if cmdKind b != 2 then .next s
    else
      let s := endAllEvictions s q.part
      let t := markVerified (beginCmd s q b [] 1) (checkedIn s b)
      match loadSlot s q b with
      | .error code => .next (completeCmd t pasid queue b code)
      | .ok (m, ps, l) =>
        match placeAll t q.part (cmdSlot b) pasid 0 l with
        | none => .next (completeCmd t pasid queue b 0x0009)
        | some u =>
          match clearFirst s u with
          | some v => .next v
          | none =>
          let u := countRefs u (m.object :: m.pages) true
          .next (settleSlot { u with slots := tset u.slots (cmdSlot b) m, code := u.code ++ imageCode pasid m.base ps } (cmdSlot b))

/-! ### Slot release and restoring -/

/-- `SLOT_RELEASE` (R35): a resident slot goes to releasing. -/
def execSlotRelease (pasid queue : Nat) (s : State) : Answer :=
  match nextCommand s pasid queue with
  | none => .next s
  | some (q, b) =>
    if cmdKind b != 3 then .next s
    else
      let t := beginCmd s q b [] 1
      let m := slotAt s (cmdSlot b)
      if otherBad b true false then .next (completeCmd t pasid queue b 0x0001)
      else if m.state != .resident then .next (completeCmd t pasid queue b 0x0004)
      else .next { t with slots := tset t.slots (cmdSlot b) { m with state := .releasing } }

/-- A launch from a slot is running. -/
def slotRuns (s : State) (n : Nat) : Bool :=
  s.parts.any (fun e => match e.2.kernel with
    | some k => k.slot == n
    | none => false)

/-- A segment's dirty copies go back to its image, and it is removed (R57). -/
def retireSegment (s : State) (g : Segment) : State :=
  let holders := (s.cores.filter (fun e => e.2.dir.any (fun d => d.owner == g.owner && d.name == g.name))).map (fun e => e.1)
  removeSegment (holders.foldl (fun s c => writeBack s c g.owner g.name) s) g

/-- `SLOT_RELEASE_DONE` (R35, R57): once no launch from the slot runs, its segments are written back and removed, its code mappings go, its
chunks are released, and the release completes. -/
def execSlotReleaseDone (slot : Nat) (s : State) : Answer :=
  let m := slotAt s slot
  if m.state != .releasing || slotRuns s slot then .next s
  else
    let s := (s.segs.filter (fun g => g.owner == slotOwner slot)).foldl (fun s g => retireSegment s g) s
    let s := { countRefs s (m.object :: m.pages) false with
      code := s.code.filter (fun c => c.va / 2 ^ 44 != m.base / 2 ^ 44 || c.va ≥ endPage)
      slots := tset s.slots slot ModelSlot.reset }
    match s.sched.cmds.find? (fun c => cmdKind c.bytes == 3 && cmdSlot c.bytes == slot && c.done.isNone) with
    | some c => .next (completeCmd s c.pasid c.queue c.bytes 0)
    | none => .next s

/-- `SLOT_RESTORE` (R36): PINNED segments without a copy are loaded again from their images, as at the slot load; a segment that finds no room waits. -/
def execSlotRestore (slot : Nat) (s : State) : Answer :=
  let m := slotAt s slot
  if m.state != .restoring then .next s
  else
    let s := endAllEvictions s m.part
    let lost := s.segs.filter (fun g => g.owner == slotOwner slot && g.cores.isEmpty)
    let u := (lost.foldl (fun (a : State × Nat) g =>
      match placeOn a.1 m.part { g with lost := false } (coresFrom a.1 m.part a.2) with
      | none => a
      | some (s, j) => (modSeg s g.owner g.name (fun x => { x with lost := false }), j)) (s, 0)).1
    .next (match clearFirst s u with
      | some v => v
      | none => settleSlot u slot)

end Sys2Proof.Machine
end

