-- ==== Sys2Proof/Machine/Placement.lean ====
section
/-! DEFINITION. Iterations: their enumeration and placement (R50 to R55), their retirement (R374), the end of a secondary strand (R128), epochs
(R338), and the completion of a kernel (R41, R375, R354). -/
namespace Sys2Proof.Machine

/-! ### Enumeration (R50) -/

/-- The size of block `u` of a dimension. -/
def blockSize (r : List Byte) (d u : Nat) : Nat := min (nestBlock r d) (tripCount r d - u * nestBlock r d)

/-- The block vector of an ordinal: `done` is the product of the block sizes chosen so far; answers the blocks in order and what is left of the
ordinal. -/
def blocksOf (r : List Byte) : List Nat → Nat → Nat → List Nat × Nat
  | [], _, o => ([], o)
  | d :: ds, done, o =>
    let rest := ds.foldl (fun n e => n * tripCount r e) 1
    let per := done * nestBlock r d * rest
    let u := min (o / max 1 per) (ceilDiv (tripCount r d) (nestBlock r d) - 1)
    let t := blocksOf r ds (done * blockSize r d u) (o - u * per)
    (u :: t.1, t.2)

/-- The offset vector of an ordinal within its block: dimensions with their blocks, outermost first. -/
def offsetsOf (r : List Byte) : List (Nat × Nat) → Nat → List Nat
  | [], _ => []
  | _ :: es, o =>
    let rest := es.foldl (fun n x => n * blockSize r x.1 x.2) 1
    o / max 1 rest :: offsetsOf r es (o % max 1 rest)

/-- The index j of each dimension of an ordinal, as pairs (dimension, j). -/
def indicesOf (r : List Byte) (o : Nat) : List (Nat × Nat) :=
  let ds := nestList r
  let b := blocksOf r ds 1 o
  let w := offsetsOf r (ds.zip b.1) b.2
  (ds.zip (b.1.zip w)).map (fun e => (e.1, e.2.1 * nestBlock r e.1 + e.2.2))

/-- The value of a dimension in an iteration (R49). -/
def valueOfDim (r : List Byte) (o d : Nat) : Int :=
  match (indicesOf r o).find? (fun e => e.1 == d) with
  | some e => nestLower r d + e.2 * nestStep r d
  | none => 0

/-- The names of an iteration; zero names no segment (R50). -/
def namesOf (r : List Byte) (o : Nat) : List Nat :=
  ((List.range (nestFuncs r)).map (fun f =>
    let at_ := 128 + 56 * f
    let sum := (List.range (nestDims r)).foldl (fun (n : Int) d => n + valueOfDim r o d * cmdField r (at_ + 8 + 8 * d) 8)
      (cmdField r at_ 8 : Int)
    (wrap64 sum).toNat)).filter (fun n => n != 0)

/-! ### Placement (R52 to R55) -/

/-- An empty primary bank of a core, the active one first (log entry 5). -/
def emptyBank (s : State) (core : Nat) : Option Nat :=
  let c := coreAt s core
  [c.active, 1 - c.active].find? (fun b => b < 2 && (ctxIn c b).life == .empty)

/-- A core is free (R52). -/
def coreFree (s : State) (core : Nat) : Bool := (emptyBank s core).isSome && !(coreAt s core).frozen

/-- The score of a core for a list of names (R54). -/
def score (s : State) (part core : Nat) (names : List Nat) : Nat :=
  (names.filter (fun n => match dirOf s core part n with
    | some d => copyHit d
    | none => false)).length

/-- Some core of the partition holds one of the names in some state. -/
def heldAnywhere (s : State) (part : Nat) (names : List Nat) : Bool :=
  (coresOf s part).any (fun c => names.any (fun n => (dirOf s c part n).isSome))

/-- The free core of highest score, ties to the lowest index. -/
def bestCore (s : State) (part : Nat) (names : List Nat) : Option Nat :=
  ((coresOf s part).filter (coreFree s)).foldl (fun b c => match b with
    | none => some c
    | some x => if score s part c names > score s part x names then some c else some x) none

/-- The core that takes the head at once, if one does (R54, steps 2 and 5). -/
def coreNow (s : State) (part : Nat) (names : List Nat) : Option Nat :=
  ((coresOf s part).filter (coreFree s)).find? (fun c => score s part c names == names.length)

/-- What the assignment logs of a partition's dies say of an ordinal in replay (R381): the core that takes it, none of them yet, or a record of
another kind. -/
inductive Directed where
  | to (die core : Nat)
  | nobody
  | diverged
  deriving DecidableEq, Repr

/-- The assignment log of a die for a partition. -/
def assignLog (s : State) (part die : Nat) : LogRegs := tgetD (partAt s part).log1 die LogRegs.reset

/-- The assignment record that a die is to follow next. -/
def directedBy (s : State) (part die ordinal : Nat) : Directed :=
  let l := assignLog s part die
  if !logConfigured l then .nobody
  else match wordOfLog s l 0 with
    | none => .nobody
    | some w =>
      let w := w.toNat
      if bits w 60 4 != 1 then .diverged
      else if bits w 0 40 != ordinal then .nobody
      else match (coresOf s part)[bits w 53 7]? with
        | some c => .to die c
        | none => .diverged

/-- The core that replay gives an ordinal. A partition both of whose logs are used up has diverged. -/
def directed (s : State) (part ordinal : Nat) : Directed :=
  match directedBy s part 0 ordinal, directedBy s part 1 ordinal with
  | .diverged, _ | _, .diverged => .diverged
  | .to d c, _ => .to d c
  | _, .to d c => .to d c
  | _, _ =>
    if [0, 1].any (fun d => (wordOfLog s (assignLog s part d) 0).isSome) || [0, 1].all (fun d => !logConfigured (assignLog s part d)) then
      .nobody
    else .diverged

/-- The head iteration of a running kernel: its ordinal, when iterations remain and the Atomizer may assign (R356). -/
def headOf (s : State) (part : Nat) : Option (Kernel × Nat) :=
  let p := partAt s part
  match p.kernel with
  | none => none
  | some k => if k.report.isNone && p.halt == .none && k.next < nestTotal k.recBytes then some (k, k.next) else none

/-- The slot's entry point. -/
def entryOf (s : State) (k : Kernel) : Word := (slotAt s k.slot).entry

/-- The registers of a context at the start of an iteration (R51). The first iteration of a kernel on it finds the rest zero, `rwin` (log entry 23) and
`fmode` (R245) among them; the trap registers are zero at every start (R351). -/
def startRegs (s : State) (k : Kernel) (part core o : Nat) (x : Ctx) : Ctx :=
  let y := if x.fresh == k.id then x
    else { x with g := [], p := [], k := [], h := [], bt := [], m := [], tiles := [], fslots := [], rba := 0, rbb := 0, rwin := 0,
                  fflags := 0, fmode := 0, icfg := 0, seq := { x.seq with loops := [] } }
  let g := (List.range 6).foldl (fun t d =>
    tset t (d + 1) (if d < nestDims k.recBytes then wrap64 (valueOfDim k.recBytes o d) else 0)) y.g
  let g := tset (tset g 7 (BitVec.ofNat 64 o)) 8 (BitVec.ofNat 64 (coresOf s part).length)
  let g := tset (tset g 62 iterationEnd) 63 (BitVec.ofNat 64 (programEnd s core))
  { y with g := g, srng := BitVec.ofNat 64 (o + 1), tcause := 0, tval := 0, epc := 0, hvec := 0, tstat := 0, tpbt := 0, tscr := 0, ehome := 0 }

/-- A context that starts an iteration at its entry point, whose page is entered when the first bundle is fetched; the refresh of the start is owed (R319). -/
def startCtx (s : State) (k : Kernel) (part core o : Nat) (x : Ctx) : Ctx :=
  let y := startRegs s k part core o x
  let e := (entryOf s k).toNat
  { y with life := .ready, swapped := false, part := part, pasid := k.pasid, kernel := k.id, fresh := k.id, ordinal := o, strand := s.nextId, epoch := 0,
           index := 0, aside := none, reports := [], deferred := [], flights := [], dec := none, atts := [], own := [],
           seen := { core := none, die := none, device := none }, ask := .none, ticked := false, measured := false, firstCyc := none, stall := (0, 0), traces := [], starting := true, skipWatch := false, skipBreak := false,
           seq := { page := e / 4096 * 4096, off := e % 4096, home := e / 4096 * 4096, pend := none, loops := y.seq.loops,
                    entering := true, crossing := false } }

/-- The assignment record (R379). -/
def assignWord (s : State) (part core o : Nat) : Word :=
  BitVec.ofNat 64 (pack [(40, o), (13, 0), (7, partIndex s part core), (4, 1)])

/-- The record of an assignment on the log of the core's die; one that does not fit traps at the iteration's first bundle (R380). -/
def logAssign (s : State) (part core bank o : Nat) : State :=
  let die := dieOf core
  let l := assignLog s part die
  let w := assignWord s part core o
  let put := fun (r : State × LogRegs) => modPart r.1 part (fun p => { p with log1 := tset p.log1 die r.2 })
  if !recording s part || !logConfigured l then s
  else if recordFits l 1 then put (appendLog s l [w])
  else modCtx s core bank (fun x => { x with deferred := insertDue { cause := 0x20, tval := 1, slot := 31, due := 0, wp := w } x.deferred })

/-- The head goes to a core (R51, R52). -/
def assign (s : State) (part core : Nat) (k : Kernel) (o : Nat) : State :=
  match emptyBank s core with
  | none => s
  | some b =>
    let s := setCtx { s with nextId := s.nextId + 1 } core b (startCtx s k part core o (ctxAt s core b))
    let s := modPart s part (fun p => { p with kernel := some { k with next := o + 1, patience := none, running := k.running ++ [o] } })
    logAssign s part core b o

/-- A kernel whose assignment log diverges ends at once (R382): no bundle, context, core or value stands in its report. -/
def divergeAssign (s : State) (part : Nat) : State :=
  endPart s part (reportBytes 5 0 0 0 0 0x23 0 0)

/-- The head is chosen: its patience count starts, at zero when no core holds any of its names (R54). -/
def chooseHead (s : State) (part : Nat) (k : Kernel) (o : Nat) : State :=
  let names := namesOf k.recBytes o
  if k.patience.isSome then s
  else
    let n := if heldAnywhere s part names then nestPatience k.recBytes else 0
    modPart s part (fun p => { p with kernel := some { k with patience := some n } })

/-- Where the head goes now without waiting longer: ordered, replayed, or by its names (R54, R55). -/
def placedNow (s : State) (part : Nat) (k : Kernel) (o : Nat) : Option Nat :=
  let free := fun (c : Nat) => if coreFree s c then some c else none
  if k.replay then (match directed s part o with
    | .to _ c => free c
    | _ => none)
  else if k.ordered then ((coresOf s part)[o % max 1 (coresOf s part).length]?).bind free
  else coreNow s part (namesOf k.recBytes o)

/-- The assignment record that an ordinal was placed by is used up. -/
def useAssign (s : State) (part o : Nat) : State :=
  match directed s part o with
  | .to d _ =>
    let r := stepLog s (assignLog s part d) 8
    modPart r.1 part (fun p => { p with log1 := tset p.log1 d r.2 })
  | _ => s

/-- `ITERATION_ASSIGN` (R53 to R55): the head is chosen, and goes to a core when one may take it now. -/
def execIterationAssign (part : Nat) (s : State) : Answer :=
  match headOf s part with
  | none => .next s
  | some (k, o) =>
    if k.replay && directed s part o == .diverged then
      .next (divergeAssign s part)
    else
      let s := chooseHead s part k o
      match headOf s part with
      | none => .next s
      | some (k, o) =>
        match placedNow s part k o with
        | none => .next s
        | some c => .next (assign (if k.replay then useAssign s part o else s) part c k o)

/-- The head's patience count is to be set to zero at once, because no core of the partition holds any of its names (R54, step 4). -/
def patienceEnds (s : State) (part : Nat) (k : Kernel) (o : Nat) : Bool :=
  k.patience.any (fun n => n != 0) && !heldAnywhere s part (namesOf k.recBytes o)

/-- `PATIENCE_EXPIRY` (R54, steps 3 and 4): the count is zero from now on, and the head goes to the best free core, if there is one. -/
def execPatienceExpiry (part : Nat) (s : State) : Answer :=
  match headOf s part with
  | none => .next s
  | some (k, o) =>
    if k.replay || k.ordered || !(k.patience == some 0 || patienceEnds s part k o) then .next s
    else
      let k := { k with patience := some 0 }
      let s := modPart s part (fun p => { p with kernel := some k })
      match bestCore s part (namesOf k.recBytes o) with
      | none => .next s
      | some c => .next (assign s part c k o)

/-! ### Retirement (R374) -/

/-- No other context of a core holds work. -/
def aloneOn (s : State) (core bank : Nat) : Bool :=
  [0, 1, 2].all (fun b => b == bank || (ctxAt s core b).life == .empty)

/-- The issue run that a core still has under way is owed to log 2 when its last context retires. -/
def owesRun (s : State) (core bank : Nat) : Bool :=
  runsLogged s core bank && (coreAt s core).run.isSome && aloneOn s core bank

/-- The run record is written. -/
def closeLastRun (s : State) (core bank : Nat) : State :=
  if !owesRun s core bank then s
  else
    let s := match (coreAt s core).run with
      | some r => record s core bank 2 [runWord r]
      | none => s
    setCore s core { coreAt s core with run := none }

/-- The place where a retiring context stands. -/
def endPlace (s : State) (core bank : Nat) : Nat × Nat × Nat :=
  let x := ctxAt s core bank
  (x.seq.page, x.seq.home, x.seq.off)

/-- A log traps a context that was ending: it is judged again when the leaf has served it. -/
def endTrap (s : State) (core bank log : Nat) (ws : List Word) : State := logTrap s core bank log 0 31 ws (endPlace s core bank)

/-- Trace records that a retiring context still owes trap it: the leaf writes them (R374, R380). -/
def owedTrap (s : State) (core bank : Nat) : State :=
  endTrap (modCtx s core bank (fun x => { x with traces := [] })) core bank 0 (ctxAt s core bank).traces

/-- The boundary of a retirement (R319, R381). -/
def endGate (s : State) (core bank : Nat) : Gate :=
  boundaryGate s core bank 3 bank ((ctxAt s core bank).scyc.toNat % 2 ^ 48)

/-- A context holds nothing any longer: pending reports are dropped and counted, its iteration is no longer running, and its window writes that
wait for a `PHASE` never come into force (R249). -/
def emptyCtx (s : State) (core bank : Nat) : State :=
  let x := ctxAt s core bank
  let s := bump (dropWindowWrites s core bank) 0x1C9 x.reports.length
  let s := if bank == 2 then s else modPart s x.part (fun p =>
    { p with kernel := p.kernel.map (fun k => if k.id == x.kernel then { k with running := k.running.filter (fun o => o != x.ordinal) } else k) })
  setCtx s core bank { x with life := .empty, swapped := false, reports := [], deferred := [], ask := .none, own := [], atts := [] }

/-- Steps 3 to 6 of a retirement. -/
def retire (s : State) (core bank : Nat) : State :=
  let p := afterCore s bank
  let s := publish (takePlace (releaseHoldings s core bank) p) core bank 3 p
  emptyCtx (closeLastRun s core bank) core bank

/-- The boundary of a retirement may take its place now: after the strands of its core and before the next core, in the last cycle of its gclk, when no
epoch is to close first (R320, R338). -/
def retireTurn (s : State) (core bank : Nat) : Bool :=
  lastCore s == core && roundMoved s && placeOpen s (afterCore s bank) && !epochPending s

/-- A context at its end pointer takes the steps of R374: it drains, its atomics performed, takes a deferred cause that has fallen due,
waits for its commands and signals, and retires when no log stops it. -/
def retiring (s : State) (core bank : Nat) : State :=
  let x := ctxAt s core bank
  if x.life != .ending || x.swapped || (coreAt s core).frozen then s
  else if drainWaits s core bank then s
  else if !x.flights.isEmpty || (atomicsOf s core bank).any (fun a => !a.refused) then drain s core bank
  else match (dueCause x).or (dueRecord x) with
  | some r => takeDeferred s core bank r (endPlace s core bank)
  | none =>
  if !fenced s core bank || !retireTurn s core bank then s
  else
  let s := endWait s core bank
  if !(ctxAt s core bank).traces.isEmpty then owedTrap s core bank
  else if owesRun s core bank && recordFull s core bank 2 1 then endTrap s core bank 2 []
  else if recordFull s core bank 5 1 then endTrap s core bank 5 []
  else match endGate s core bank with
    | .hold => s
    | .diverge v =>
      let p := endPlace s core bank
      trapAt s core bank 0x23 31 v .precise none p.1 p.2.1 p.2.2
    | .go s _ => retire s core bank

/-- `ITERATION_RETIRE` (R374). -/
def execIterationRetire (core bank : Nat) (s : State) : Answer := .next (if bank < 2 then retiring s core bank else s)

/-- `SECONDARY_END` (R128): steps 1 to 4 of R374. -/
def execSecondaryEnd (core : Nat) (s : State) : Answer := .next (retiring s core 2)

/-! ### Epochs (R338) -/

/-- `EPOCH_CLOSE` (R338): the closing boundary is the latest that has taken a place. -/
def execEpochClose (part : Nat) (s : State) : Answer := .next (closeEpoch s part)

/-! ### Completion (R41, R354, R375) -/

/-- A kernel may complete: its last iteration has retired, no secondary strand of it runs, every epoch has closed (R375). -/
def kernelDone (s : State) (part : Nat) (k : Kernel) : Bool :=
  k.report.isNone && k.next == nestTotal k.recBytes && k.running.isEmpty && (heldReds s k.id).isEmpty && s.atomics.all (fun a => a.kernel != k.id)
    && (coresOf s part).all (fun c => (ctxAt s c 2).life == .empty || (ctxAt s c 2).kernel != k.id)

/-- A kernel that ended under R354 may complete: every context of it is discarded. -/
def kernelGone (s : State) (part : Nat) (k : Kernel) : Bool :=
  k.report.isSome && (contextsOf s part).all (fun e => (ctxAt s e.1 e.2).life == .discarded)

/-- KERNEL segments end with the kernel that created them; their copies are discarded (R57). -/
def dropKernelSegments (s : State) (part kernel : Nat) : State :=
  (s.segs.filter (fun g => g.owner == part && g.cls == 2 && g.kernel == kernel)).foldl (fun s g => removeSegment s g) s

/-- The cores of a partition after its kernel: discarded contexts are empty, watches are gone (R366), no core stays frozen. -/
def clearCores (s : State) (part : Nat) : State :=
  let cs := coresOf s part
  let clear := fun (x : Ctx) => if x.life == .discarded then { x with life := .empty, swapped := false, reports := [], deferred := [] } else x
  { s with cores := s.cores.map (fun e => if cs.contains e.1 then
             (e.1, { e.2 with watches := [], run := none, frozen := false, b0 := clear e.2.b0, b1 := clear e.2.b1, sec := clear e.2.sec })
           else e)
           sliceWatches := s.sliceWatches.filter (fun w => !cs.contains w.core) }

/-- The partition is idle again; a partition halted by a link error stays halted (R42). -/
def freePart (s : State) (part : Nat) : State :=
  modPart s part (fun p => { p with kernel := none, rmode := 0, halt := if p.halt == .halted then .halted else .none })

/-- The bytes of a running launch command. -/
def launchBytes (s : State) (k : Kernel) : List Byte := ((headCmd s k.pasid k.queue).map (fun c => c.bytes)).getD []

/-- The partition report is written into the launch command (R354). -/
def writeReport (s : State) (k : Kernel) (report : List Byte) : State :=
  match headCmd s k.pasid k.queue with
  | some c => schedWrite s (c.addr + 96) report
  | none => s

/-- `KERNEL_COMPLETE` (R41, R354): the release, or the report of a kernel that ended; then the status, the head and the signal. -/
def execKernelComplete (part : Nat) (s : State) : Answer :=
  match (partAt s part).kernel with
  | none => .next s
  | some k =>
    let finish := fun (s : State) (status : Nat) =>
      let b := launchBytes s k
      completeCmd (freePart (clearCores (dropKernelSegments s part k.id) part) part) k.pasid k.queue b status
    if kernelDone s part k then .next (finish (publishKernel s k.id) 0)
    else if kernelGone s part k then
      let s := (heldReds s k.id).foldl (fun s a => applyReds s k.id a.epoch (nowPlace s)) s
      .next (finish (writeReport s k (k.report.getD [])) 0x000B)
    else .next s

end Sys2Proof.Machine
end

