-- ==== Sys2Proof/Machine/Halt.lean ====
section
/-! DEFINITION. Pre-emption, the watchdog swap and resumption of a partition (R356 to R358), machine checks (R359), the firmware links (R42), and stops
with their dump (R384). -/
namespace Sys2Proof.Machine

/-! ### Pre-emption and the watchdog (R356, R357) -/

/-- Every context of a partition is in shadow storage, or discarded. -/
def allAside (s : State) (part : Nat) : Bool :=
  (contextsOf s part).all (fun e => (ctxAt s e.1 e.2).swapped || (ctxAt s e.1 e.2).life == .discarded)

/-- `PREEMPT_REQUEST` (R356): assignment stops, the watchdog starts, and each context is pre-empted at its place. -/
def execPreemptRequest (part : Nat) (s : State) : Answer :=
  .next (modPart s part (fun p => if p.kernel.isSome && p.halt == .none then { p with halt := .preempting } else p))

/-- A context's full state is swapped out, with what it has in flight; requests already sent return first (R357). A context of a kernel that is
ending is discarded (R354). -/
def swapOut (s : State) (core bank : Nat) : State :=
  let x := ctxAt s core bank
  if x.swapped || x.life == .discarded then s
  else setAside (arriveAll s core bank) core bank

/-- Every context of a partition is swapped out. -/
def swapAll (s : State) (part : Nat) : State := (contextsOf s part).foldl (fun s e => swapOut s e.1 e.2) s

/-- The cores of a partition freeze. -/
def freezeCores (s : State) (part : Nat) : State :=
  let cs := coresOf s part
  { s with cores := s.cores.map (fun e => if cs.contains e.1 then (e.1, { e.2 with frozen := true }) else e) }

/-- The contexts of a partition are being pre-empted: on request, or because a link error halts it (R42, R356). -/
def beingPreempted (s : State) (part : Nat) : Bool := (partAt s part).halt == .preempting || (partAt s part).halt == .halted

/-- Every request that the contexts of a partition have sent can return (R357, R395). -/
def requestsReturn (s : State) (part : Nat) : Bool :=
  (contextsOf s part).all (fun e => (ctxAt s e.1 e.2).swapped || !homesOwed s e.1 e.2)

/-- `WATCHDOG_EXPIRY` (R357): the cores stall, and what they have not started stays queued. -/
def execWatchdogExpiry (part : Nat) (s : State) : Answer :=
  if !beingPreempted s part || allAside s part || !requestsReturn s part then .next s
  else .next (bump (freezeCores (swapAll s part) part) 0x1C5 1)

/-! ### Resumption (R358) -/

/-- A context comes back from shadow storage. Its handles were kept under R200 while it was there. -/
def restoreCtx (s : State) (core bank : Nat) : State :=
  modCtx s core bank (fun x => { x with swapped := false, fslots := x.fslots.map (fun e => (e.1, restage s e.1 e.2)) })

/-- A partition goes on: every context is restored, its cores run. -/
def resumePart (s : State) (part : Nat) : State :=
  let s := (contextsOf s part).foldl (fun s e => restoreCtx s e.1 e.2) s
  let cs := coresOf s part
  modPart { s with cores := s.cores.map (fun e => if cs.contains e.1 then (e.1, { e.2 with frozen := false }) else e) } part
    (fun p => { p with halt := .none })

/-- `PARTITION_RESUME` (R358): a pre-empted or swapped partition whose kernel goes on. -/
def execPartitionResume (part : Nat) (s : State) : Answer :=
  if (partAt s part).halt != .preempting || endingKernel s part || !allAside s part then .next s
  else .next (resumePart s part)

/-! ### Machine checks (R359) -/

/-- A range has a byte of the protected granule of `g` bytes that holds address `a` (R359). -/
def meetsGranule (a g : Nat) (r : Nat × Nat) : Bool := 0 < r.2 && r.1 / g ≤ a / g && a / g ≤ (r.1 + r.2 - 1) / g

/-- A result in flight has been read, or is being read, from the scratchpad granule of an address: an LS load, an `XDEC`, an MX operand, a `TLD`. -/
def readsScratch (a : Nat) (f : Flight) : Bool :=
  (f.slot == 7 || f.slot == 11) && f.reads.any (meetsGranule a 8)
    || f.slot == 12 && f.holds.any (fun h => !h.write && meetsGranule a 8 (h.lo, h.len))

/-- A result in flight is read from the sector of device memory of an address: a global load or a tile fetch. -/
def readsDevice (a : Nat) (f : Flight) : Bool := (homeReads f).any (meetsGranule a 64)

/-- A page walk is under way: it reads the firmware's tables, where an address that no load, fetch or atomic reads may lie. -/
def walking (f : Flight) : Bool :=
  match f.late with
  | .xlt _ _ _ => true
  | _ => false

/-- An error in memory that a strand reads is dealt with at the consumer that met it (R359). -/
def deferCheck (s : State) (core bank : Nat) (addr : Word) : State :=
  let x := ctxAt s core bank
  let a := bits addr.toNat 0 52
  if bits addr.toNat 60 4 == 0 then
    match x.flights.find? (readsScratch a) with
    | some f => spoilFlight s core bank addr f
    | none => s
  else match (atomicsOf s core bank).find? (fun b => meetsGranule a 64 (b.pa, b.width / 8)) with
    | some b => spoilAtomic s core bank addr b
    | none => match firstSome [x.flights.find? (readsDevice a), x.flights.find? walking] with
      | some f => spoilFlight s core bank addr f
      | none => s

/-- A partition's kernel ends because data was lost (reason 7). -/
def loseData (s : State) (core bank : Nat) (addr : Word) : State :=
  endKernel s core bank 7 31 0x28 addr (BitVec.ofNat 64 ((ctxAt s core bank).seq.page + (ctxAt s core bank).seq.off))

/-- An error in core-local state, met by the strand of a context. The source stands in bits 63 to 60 of the address, and bits 59 to 52 are zero (R359). -/
def coreCheck (s : State) (core bank : Nat) (addr : Word) : State :=
  let x := ctxAt s core bank
  let addr := addr &&& 0xF00FFFFFFFFFFFFF
  let a := bits addr.toNat 0 52
  match bits addr.toNat 60 4 with
  | 1 => if x.own.any (fun o => o.bytes.any (fun b => b.1 / 8 == a / 8)) then loseData s core bank addr else bump s 0x1C2 1
  | 4 | 5 => loseData s core bank addr
  | _ => if x.life == .empty then s else deferCheck s core bank addr

/-- A copy whose source has been discarded does not arrive: the leaf begins again. -/
def dropArriving (s : State) (owner name : Nat) : State :=
  (s.cores.filter (fun e => e.2.dir.any (fun d => d.owner == owner && d.name == name && d.state == .loading))).foldl
    (fun s e => dropCopy s e.1 owner name) s

/-- A segment copy with an error is discarded, that of a copy on its way to another core with it. A dirty one is lost; after the last of a PINNED segment its
slot is restoring (R359, R35, R36). -/
def copyCheck (s : State) (core name : Nat) : State :=
  match (coreAt s core).dir.find? (fun d => d.name == name && d.state != .loading) with
  | none => s
  | some d =>
    let s := dropCopy s core d.owner name
    let s := if d.state == .evicting then dropArriving s d.owner name else s
    let s := if d.dirty.isEmpty then s else modSeg s d.owner name (fun g => { g with lost := true })
    if d.owner ≥ 24 && (segOwned s d.owner name).any (fun g => g.cores.isEmpty) then
      let n := d.owner - 24
      let m := slotAt s n
      { s with slots := tset s.slots n (if m.state == .resident then { m with state := .restoring } else m) }
    else s

/-- A corrected error is counted: kind 0 an L2 slice, 1 an HBM4E stack, 2 core SRAM and registers. The counts of each slice and each stack stand
from 0x1000 and from 0x2000 on (R387). -/
def countCorrected (kind unit : Nat) (s : State) : State :=
  match kind with
  | 0 => if unit < 768 then bump (bump s 0x1C0 1) (0x1000 + unit) 1 else s
  | 1 => if unit < 12 then bump (bump s 0x1C1 1) (0x2000 + unit) 1 else s
  | 2 => bump s 0x1C2 1
  | _ => s

/-- `MACHINE_CHECK` (R359): an uncorrectable error is dealt with once, by its source; one that was corrected is counted. -/
def execMachineCheck (src : CheckSource) (s : State) : Answer :=
  match src with
  | .corrected kind unit => .next (countCorrected kind unit s)
  | .core c b addr => .next (if b < 3 then coreCheck s c b addr else s)
  | .command c id =>
    .next (setCore s c { coreAt s c with cmds := (coreAt s c).cmds.map (fun k =>
      if k.id == id && k.started && k.status == 0 then { k with status := 0x03 } else k) })
  | .copy c name => .next (copyCheck s c name)
  | .kernel part => .next (if (partAt s part).kernel.isSome then endPart s part (reportBytes 7 0 0 0 31 0x28 0 0) else s)

/-! ### The firmware links (R42) -/

/-- `FIRMWARE_LINK_MESSAGE` (R42): the oldest message of a direction is consumed and its permit returned. -/
def execFirmwareLinkMessage (leaf : Nat) (down : Bool) (s : State) : Answer :=
  let l := cmdLink s leaf
  .next (if (if down then l.down else l.up).sent.isEmpty then s
    else
      let r := if down then consumeOn l.down l.up else consumeOn l.up l.down
      { s with links := tset s.links leaf (if down then { down := r.1, up := r.2 } else { down := r.2, up := r.1 }) })

/-- `FIRMWARE_LINK_ERROR` (R42): the scheduler takes machine check 0x28, and every partition with cores in the leaf's cluster halts. -/
def execFirmwareLinkError (leaf : Nat) (s : State) : Answer :=
  let hit := (s.conf.parts.filter (fun e => e.2.cores.any (fun c => leafOf c == leaf))).map (fun e => e.1)
  .next (hit.foldl (fun s p => modPart s p (fun q => { q with halt := .halted }))
    { s with sched := { s.sched with checks := s.sched.checks ++ [leaf] } })

/-! ### The dump of a stop (R384) -/

/-- The CSRs of R361 that a context holds: the trap registers and `wpinfo` every one, the others of R384 a primary one. -/
def heldCsr (bank n : Nat) : Bool := n < 8 || n == 0x171 || (bank != 2 && primaryCsr n)

/-- What the first area of a context's block holds, in the order of R384: sequencer, CSRs, registers, tile shapes and live bits, fetch-slot
addresses. -/
def dumpState (s : State) (core bank : Nat) : List Byte :=
  let x := ctxAt s core bank
  let q := x.seq
  let w := fun (v : Word) => bytesOf 8 v.toNat
  let pend := match q.pend with
    | some p => w p.target ++ bytesOf 1 p.delays
    | none => List.replicate 9 0
  bytesOf 8 q.page ++ bytesOf 2 q.off ++ bytesOf 8 q.home ++ pend
    ++ q.loops.flatMap (fun e => bytesOf 4 e.index ++ bytesOf 4 e.count ++ bytesOf 2 e.start ++ bytesOf 1 e.len)
    ++ ((List.range 0x200).filter (heldCsr bank)).flatMap (fun n => w (csrValue s core bank n))
    ++ (List.range 64).flatMap (fun n => w (tgetD x.g n 0)) ++ (List.range 16).map (fun n => if tgetD x.p n false then 1 else 0)
    ++ (List.range 8).flatMap (fun n => w (tgetD x.k n 0)) ++ (List.range 32).flatMap (fun n => bytesOf 16 (tgetD x.h n 0).toNat)
    ++ (List.range 4).flatMap (fun n => w (tgetD x.bt n 0))
    ++ (List.range 4).flatMap (fun n =>
      let t := tgetD x.tiles n Tile.reset
      bytesOf 1 t.rows ++ bytesOf 1 t.cols ++ bytesOf 1 t.type ++ bytesOf 1 (bitOf t.live))
    ++ (List.range 4).flatMap (fun n => bytesOf 8 (tgetD x.fslots n FSlot.reset).addr)

/-- The first area, laid out as the implementation does. -/
def dumpHeader (s : State) (core bank : Nat) : List Byte :=
  let l := dumpState s core bank
  (List.range 0xC00).map (fun i => (l[Config.dumpPlace i % (l.length + 1)]?).getD 0)

/-- An entry of the in-flight table. -/
structure DumpEntry where
  dest   : Nat
  slot   : Nat
  held   : Bool
  left   : Nat
  spOff  : Nat
  value  : List Byte
  deriving DecidableEq, Repr

/-- The register operand form of R18. -/
def regForm (file num : Nat) : Nat := 0x4000 + 2048 * file + num

/-- The operand of a matrix destination that a flight writes at an age (R18): the row, column or diagonal of that beat. -/
def matForm (f : Flight) (due : Nat) : Nat := 0x4000 + flightCode f (.el 0 0, due)

/-- The dump entry of a landing; those of R384 have registers, tiles and scratchpad for destinations. -/
def dumpWrite (f : Flight) (due : Nat) (w : Write) : Option DumpEntry :=
  let e : Nat → Nat → List Byte → Option DumpEntry := fun dest off v =>
    some ({ dest := dest, slot := f.slot, held := f.buffered, left := due - f.age, spOff := off, value := v } : DumpEntry)
  match w with
  | .g n v => e (regForm 0 n) 0 (bytesOf 8 v.toNat)
  | .p n v => e (regForm 1 n) 0 (bytesOf 1 (bitOf v))
  | .k n m v => e (regForm 2 n) 0 (bytesOf 8 (v &&& m).toNat)
  | .h n v => e (regForm 3 n) 0 (bytesOf 16 v.toNat)
  | .els _ vs => e (matForm f due) 0 (vs.flatMap (fun c => bytesOf 4 c.2.toNat))
  | .tile n bs => e (regForm 6 n) 0 (bs.map (fun b => b.2))
  | .tileAll n m => e (regForm 6 n) 0 (peeks m 0 65536)
  | .sp bs => e (regForm 7 0) ((bs.head?.map (fun b => b.1)).getD 0) (bs.map (fun b => b.2))
  | _ => none

/-- The seed that follows `n` trials from `s`, none of them of 0 (R281). -/
def seedAfter (s : Nat) : Nat → Nat
  | 0 => s
  | n + 1 => seedAfter (((if s == 0 then 1 else s) + 1) % 2 ^ 64) n

/-- The state of a search of `count` seeds after `tried` of them: the next seed, the count left, and the best seed, coefficients and residual so far (R384;
their widths are the model's, log entry 52). -/
def searchState (sp : Memory) (desc tile pitch count tried : Nat) : List Byte :=
  let d := accordOf (peeks sp desc (64 + 2 * 16 * 128))
  let target := tileVals d.fmt ((List.range d.N).map (spRow sp (tile, pitch)))
  bytesOf 8 (seedAfter d.seed tried) ++ bytesOf 8 (count - tried) ++ (match seek d target tried d.seed none with
    | some t => bytesOf 8 t.seed ++ t.coef.flatMap (bytesOf 2) ++ bytesOf 4 t.res
    | none => [])

/-- A flight is a search that still runs: how many seeds it has tried, one in 64 cycles, and its operands (R281). -/
def searching (f : Flight) : Option (Nat × Nat × Nat × Nat × Nat) :=
  match f.late with
  | .accord .seek desc tile pitch count => some (desc, tile, pitch, count, 0)
  | .sought desc tile pitch count => if f.age < 64 * count then some (desc, tile, pitch, count, f.age / 64) else none
  | _ => none

/-- The beats of a `TLD` (R277), 1,024 bytes each, which are in the tile when it is due: those that have been read have their value. -/
def loadBeats (f : Flight) (t len : Nat) (got : List Byte) : List DumpEntry :=
  (List.range ((len + 1023) / 1024)).map (fun k =>
    { dest := regForm 6 t, slot := f.slot, held := f.buffered, left := f.last - f.age, spOff := 0, value := (got.drop (1024 * k)).take 1024 })

/-- The beats that a flight still has to read: their entries have no value yet. The scratchpad says how many writes an accord instruction will make. -/
def dumpBeats (sp : Memory) (f : Flight) : List DumpEntry :=
  let e : Nat → Nat → Nat → DumpEntry := fun dest due off => { dest := dest, slot := f.slot, held := f.buffered, left := due - f.age, spOff := off, value := [] }
  match f.late with
  | .moveRows _ _ n _ => ((List.range n).filter (fun r => f.age < r)).map (fun r => e (matForm f (r + 2)) (r + 2) 0)
  | .storeRows _ n off _ => ((List.range n).filter (fun r => f.age < r)).map (fun r => e (regForm 7 0) (r + 1) (off + 256 * r))
  | .mma j => [e (regForm 6 j.tile) f.last 0]
  | .tileLoad t _ len got => loadBeats f t len got
  | .accord kind desc tile pitch count =>
    (accordWrites sp kind desc tile pitch count).filterMap (fun w => match w.2 with
      | .sp bs => some (e (regForm 7 0) w.1 ((bs.head?.map (fun b => b.1)).getD 0))
      | _ => none)
  | _ => []

/-- The entries of a flight: a search that runs is one, covering its descriptor (R384). -/
def flightEntries (sp : Memory) (f : Flight) : List DumpEntry :=
  let ahead := f.writes.filter (fun e => f.age < e.1)
  match searching f with
  | some (desc, tile, pitch, count, tried) =>
    [{ dest := regForm 7 0, slot := f.slot, held := f.buffered, left := f.last - f.age, spOff := desc,
       value := searchState sp desc tile pitch count tried }]
  | none => ahead.filterMap (fun e => dumpWrite f e.1 e.2) ++ dumpBeats sp f

/-- Insert an entry by due cycle, then slot. -/
def insertEntry (a : DumpEntry) : List DumpEntry → List DumpEntry
  | [] => [a]
  | b :: r => if b.left < a.left || (b.left == a.left && b.slot ≤ a.slot) then b :: insertEntry a r else a :: b :: r

/-- The entries of a context, in ascending due cycle and then slot, 256 at most. -/
def dumpEntries (sp : Memory) (x : Ctx) : List DumpEntry :=
  ((x.flights.flatMap (flightEntries sp)).foldl (fun l e => insertEntry e l) []).take 256

/-- The table, its values from offset `at_` of the block on. -/
def dumpTable : Nat → List DumpEntry → List Byte
  | _, [] => []
  | at_, e :: r =>
    bytesOf 2 e.dest ++ bytesOf 1 e.slot ++ bytesOf 1 (bitOf e.held) ++ bytesOf 4 e.left ++ bytesOf 4 e.value.length ++ bytesOf 4 at_
      ++ bytesOf 4 e.spOff ++ bytesOf 12 0 ++ dumpTable (at_ + e.value.length) r

/-- A list of bytes brought to a length. -/
def fitTo (n : Nat) (l : List Byte) : List Byte := l.take n ++ List.replicate (n - l.length) 0

/-- The block of a context: 0xC3000 bytes; a secondary block holds its header and in-flight areas (R384). -/
def dumpBlock (s : State) (core bank : Nat) : List Byte :=
  let x := ctxAt s core bank
  let es := dumpEntries (coreAt s core).sp x
  let files := if bank == 2 then []
    else (List.range 8).flatMap (fun f => (List.range 4096).flatMap (fun i => bytesOf 4 (tgetD x.m (elKey f i) 0).toNat))
      ++ (List.range 4).flatMap (fun t => peeks (tgetD x.tiles t Tile.reset).bytes 0 65536)
  dumpHeader s core bank ++ fitTo 0x2000 (dumpTable 0x63000 es) ++ List.replicate 0x400 0 ++ fitTo 0x60000 files
    ++ fitTo 0x60000 (es.flatMap (fun e => e.value))

/-- The dump area of a partition (R384). -/
def dumpArea (s : State) (part gclk core bank kind : Nat) : List Byte :=
  bytesOf 8 0 ++ bytesOf 8 gclk ++ bytesOf 1 core ++ bytesOf 1 bank ++ bytesOf 1 0x31 ++ bytesOf 1 kind ++ bytesOf 4 0
    ++ bytesOf 8 (ctxAt s core bank).scyc.toNat ++ List.replicate 4064 0
    ++ (coresOf s part).flatMap (fun c => dumpBlock s c 0 ++ dumpBlock s c 1 ++ dumpBlock s c 2)

/-- `PARTITION_STOP_FREEZE` (R384): at gclk S + 200 the other cores freeze, every context is swapped out, and the dump is written. -/
def execPartitionStopFreeze (part : Nat) (s : State) : Answer :=
  match (partAt s part).halt with
  | .stopping g core bank kind =>
    if s.gclk < g + 200 then .next s
    else
      let s := swapAll (freezeCores s part) part
      .next (modPart (schedWrite s (partAt s part).stdmpPa (dumpArea s part g core bank kind)) part (fun p => { p with halt := .stopped core bank false }))
  | _ => .next s

/-- The command word of a stopped partition's dump. -/
def dumpCommand (s : State) (part : Nat) : Nat := deviceNat s (partAt s part).stdmpPa 8

/-- `DUMP_RESUME` (R384): the host has written the command word, with 1, and the partition goes on from shadow storage. -/
def execDumpResume (part : Nat) (s : State) : Answer :=
  match (partAt s part).halt with
  | .stopped _ _ told => .next (if told && dumpCommand s part == 1 then resumePart s part else s)
  | _ => .next s

/-- `DUMP_END_KERNEL` (R384): the host has written the command word, with 2, and the kernel ends with reason 3. The report names the stopping context. -/
def execDumpEndKernel (part : Nat) (s : State) : Answer :=
  match (partAt s part).halt with
  | .stopped core bank told =>
    if !told || dumpCommand s part != 2 then .next s
    else
      let x := ctxAt s core bank
      let r := reportBytes 3 (x.ordinal % 2 ^ 32) bank core 31 0 0 (BitVec.ofNat 64 (x.seq.page + x.seq.off))
      let s := (contextsOf s part).foldl (fun s e => discardCtx s e.1 e.2) (endPart s part r)
      .next (modPart s part (fun p => { p with halt := .preempting }))
  | _ => .next s

end Sys2Proof.Machine
end

