-- ==== Sys2Proof/Machine/Overlay.lean ====
section
/-! DEFINITION. The Still's overlay as its users see it (R11, R77, R83, R400): the annex pages of an entry, whether a mapping uses an entry, and how
one is dropped or discarded. -/
namespace Sys2Proof.Machine

/-- The slot of an overlay key (R400). -/
def annexSlot (key : List Byte) : Nat := natOfBytes ((sha256 key).take 8) % 2 ^ 40

/-- The address of annex page `i` of a slot (R400). -/
def annexVa (slot i : Nat) : Nat := 0xFF80000000000000 + slot * 16384 + (i - 1) * 4096

/-- A native page, written by the Still. -/
def isNative (c : CodePage) : Bool :=
  match c.src with
  | .native _ => true
  | _ => false

/-- A code page takes its bytes, or is to take them, from the home page of an overlay entry. -/
def usesEntry (o : Overlay) (c : CodePage) : Bool :=
  match o.leaves with
  | [] => false
  | h :: _ => c.va < endPage && (c.src == .native h || c.next.any (fun n => n.1 == .native h))

/-- A code mapping uses an overlay entry. -/
def overlayUsed (s : State) (o : Overlay) : Bool := s.code.any (usesEntry o)

/-- An overlay entry dropped: its annex pages are mapped no longer, and its chunks lose a reference (R10, R77). -/
def dropOverlay (s : State) (o : Overlay) : State :=
  let vas := (List.range (o.leaves.length - 1)).map (fun i => annexVa (annexSlot o.key) (i + 1))
  countRefs { s with overlay := s.overlay.filter (fun e => e.key != o.key), code := s.code.filter (fun c => !vas.contains c.va) }
    o.leaves false

/-- A page goes back to the foreign page or unit that it stands for, as though no rewrite existed (R11). -/
def backToOrigin (o : Overlay) (c : CodePage) : CodePage :=
  if !usesEntry o c then c
  else match c.origin with
    | some (src, m) => { c with src := src, bytes := m, present := true, checked := false, next := none, origin := none }
    | none => { c with next := none }

/-- An overlay entry that failed its check is discarded, and its pages are foreign again (R11, R83). -/
def discardEntry (s : State) (o : Overlay) : State :=
  let s := dropOverlay s o
  { s with code := s.code.map (backToOrigin o) }

end Sys2Proof.Machine
end

