-- ==== Sys2Proof/Machine/Leaf.lean ====
section
/-! DEFINITION. The work of the leaf controllers for parked contexts (R62, R70, R201, R204, R288, R355, R366, R380), loads of segment copies (R59), and
the replacement of code pages (R83). -/
namespace Sys2Proof.Machine

/-! ### Answers (R355) -/

/-- A parked context becomes standby-ready; one that saved its entry as a code pointer resolves it again (R75). -/
def resume (s : State) (core bank : Nat) : State :=
  modCtx s core bank (fun x => match x.life with
    | .parked (.still entry) =>
      let e := entry.toNat
      { x with life := .ready,
               seq := { x.seq with page := e / 4096 * 4096, off := e % 4096, home := e / 4096 * 4096, entering := true } }
    | .parked _ => { x with life := .ready }
    | _ => x)

/-- A parked context is refused: it enters its handler when it next becomes active (R355). -/
def turnAway (s : State) (core bank cause : Nat) (tval : Word) : State :=
  modCtx s core bank (fun x => { x with life := .refused cause tval (bits x.tcause.toNat 8 5) })

/-- The other core that holds the copy of a writable segment, with the copy. -/
def copyElsewhere (s : State) (core : Nat) (g : Segment) : Option (Nat × DirEntry) :=
  firstSome ((s.cores.filter (fun e => e.1 != core)).map (fun e =>
    (e.2.dir.find? (fun d => d.owner == g.owner && d.name == g.name)).map (fun d => (e.1, d))))

/-- The leaf's answer to an attach miss (R62). A load, replication or migration begins; the context goes on when the copy has arrived. -/
def answerAttach (s : State) (core bank name : Nat) : State :=
  let part := (ctxAt s core bank).part
  let no := fun (reason : Nat) => turnAway s core bank 0x11 (BitVec.ofNat 64 reason)
  match segOf s part name with
  | none => no 0x01
  | some g =>
    if g.lost then no 0x0C
    else match (coreAt s core).dir.find? (fun d => d.owner == g.owner && d.name == name) with
      | some d => if copyHit d then resume s core bank else endEvictions s core
      | none =>
        match (if g.frozen then none else copyElsewhere s core g) with
        | some (c, d) =>
          if d.attach > 0 then no 0x02
          else if !copyHit d then endEvictions s c
          else (match roomStep s core g.size with
            | .none => no 0x03
            | .evict s => s
            | .at_ s off => placeCopy (beginEviction s c d) core g off .loading [])
        | none =>
          match roomStep s core g.size with
          | .none => no 0x03
          | .evict s => s
          | .at_ s off => beginLoad s core g off

/-- A context that parked for a handle waits on while its translation would be `t` (R201, R204): its page has no mapping, or the host owns it and has been
asked for it. -/
def handleWaits (x : Ctx) (t : Word128) : Bool :=
  hState t == 3 && (hCause t == 0x0A || (hCause t == 0x0B && bits x.tcause.toNat 0 8 == 0x0B))

/-- The leaf's answer to a use of a faulted handle (R201, R204): the handle is translated again when its page is there, and the context goes on at the
faulting bundle. A page that the host owns then faults with 0x0B, which asks the host for it. -/
def answerHandle (s : State) (core bank h : Nat) : State :=
  let x := ctxAt s core bank
  let t := translate s x.pasid (BitVec.ofNat 64 (hVa (tgetD x.h h 0))) 0
  if handleWaits x t then s else resume (modCtx s core bank (fun x => { x with h := tset x.h h t })) core bank

/-- The leaf's answer to a page that was not there (R70): the context goes on when it has a code mapping with its chunks. -/
def answerCode (s : State) (core bank page : Nat) : State :=
  let x := ctxAt s core bank
  match codePage s x.pasid page with
  | none => turnAway s core bank 0x0A x.tval
  | some c => if c.present then resume s core bank else s

/-- The records of a sub-buffer of log 4 go to the spill area (R380); none when it lacks room. -/
def spillSlice (s : State) (part die slice : Nat) : Option State :=
  let l := orderLog s part die
  let sub := (l.lim.toNat - l.base.toNat) / 384 / 16 * 16
  let start := l.base.toNat + sub * slice
  let key := 384 * die + slice
  let hw := (tgetD (partAt s part).hw4 key (BitVec.ofNat 64 start)).toNat
  if l.sptr.toNat + (hw - start) > l.slim.toNat then none
  else
    let s := schedWrite s (l.spa + (l.sptr.toNat - l.sbase.toNat)) (deviceBytes s (l.pa + (start - l.base.toNat)) (hw - start))
    some (modPart s part (fun p =>
      { p with hw4 := tset p.hw4 key (BitVec.ofNat 64 start),
               log4 := tset p.log4 die { l with sptr := l.sptr + BitVec.ofNat 64 (hw - start) } }))

/-- A refused atomic is performed by the leaf, and its value goes to its destination (R380). -/
def performRefused (s : State) (a : Atomic) : State :=
  let old := homeNat s a.pa (a.width / 8)
  let s := performAtomic (logAtomic s a) a
  if a.dest == 0 || (ctxAt s a.core a.bank).flights.any (fun f => f.id == a.flight) then s
  else landWrite s a.core a.bank (.g a.dest (BitVec.ofNat 64 old))

/-- The leaf's service of a full log (R380). Without room in the spill area the kernel ends with reason 0. For log 4 the one word is the number of the refused
atomic. -/
def answerLog (s : State) (core bank log slice : Nat) (ws : List Word) : State :=
  let x := ctxAt s core bank
  let fails := endKernel s core bank 0 (bits x.tcause.toNat 8 5) 0x20 x.tval x.epc
  if log == 4 then
    let mine := (atomicsOf s core bank).filter (fun a => a.refused && ws == [BitVec.ofNat 64 a.id])
    match mine with
    | [] => resume s core bank
    | a :: _ =>
      (match spillSlice s x.part (sliceOf a.pa).1 slice with
      | none => fails
      | some s => resume (performRefused s a) core bank)
  else match spillLog s core bank log ws with
    | none => fails
    | some s => resume s core bank

/-- The answer to a request of a blocked bundle: 0, or the reason of the refusal. What the global scheduler judges goes up the leaf's command link and
comes down it (R42, R402). -/
def sayReason (s : State) (core bank : Nat) (r : Request) (reason : Nat) : State :=
  let leaf := leafOf core
  let s := match r with
    | .watch _ => s
    | _ => sendLink (sendLink s leaf false) leaf true
  modCtx s core bank (fun x => { x with ask := .answered r reason })

/-- The leaf's step towards the answer to a request (R288, R308, R310, R366). -/
def answerRequest (s : State) (core bank : Nat) (r : Request) : State :=
  let part := (ctxAt s core bank).part
  let say := fun (s : State) (reason : Nat) => sayReason s core bank r reason
  match r with
  | .create name size =>
    (match judgeCreate s part name with
    | some e => say s e
    | none => match roomStep s core size with
      | .none => say s 0x03
      | .evict s => s
      | .at_ s _ => say s 0)
  | .drop name => (match judgeDrop s part name with
    | .error e => say s e
    | .ok _ => say s 0)
  | .freeze _ | .watch _ => say s 0

/-- `LEAF_ANSWER` (R355): the leaf answers a parked context, or the request of a blocked bundle. -/
def execLeafAnswer (core bank : Nat) (s : State) : Answer :=
  let x := ctxAt s core bank
  match x.life with
  | .parked (.attach name _) => .next (answerAttach s core bank name)
  | .parked (.handle h) => .next (answerHandle s core bank h)
  | .parked (.codePage p) => .next (answerCode s core bank p)
  | .parked (.log id slice ws) => .next (answerLog s core bank id slice ws)
  | _ =>
    match x.ask with
    | .waiting r => .next (answerRequest s core bank r)
    | _ => .next s

/-! ### Loads (R59) -/

/-- The last byte of a load, replication or migration of a copy lands. A migration carries the bytes and dirty bits of its source, which is absent
afterwards (R62). -/
def finishLoad (s : State) (core : Nat) (d : DirEntry) : State :=
  match segOwned s d.owner d.name with
  | none => dropCopy s core d.owner d.name
  | some g =>
    let settle := fun (s : State) (st : CopyState) (dirty : List Nat) =>
      modDir (nextStamp s) core d.owner d.name (fun e => { e with state := st, dirty := dirty, version := g.version, stamp := s.stamp })
    if g.frozen then settle s .frozen []
    else match copyElsewhere s core g with
      | some (c, e) => settle (dropCopy (bring s core d.off c e.off d.size) c d.owner d.name) (if e.dirty.isEmpty then .clean else .dirty) e.dirty
      | none => settle s .clean []

/-- The pages of the image that a copy is loading from; none when it comes from another core. -/
def loadPagesOf (s : State) (core : Nat) (d : DirEntry) : List Nat :=
  match segOwned s d.owner d.name with
  | some g => if !g.frozen && (copyElsewhere s core g).isSome then [] else g.pages
  | none => []

/-- The core that a copy is loading from, if it comes from another core: the holder of a writable one, the nearest holder of a frozen one. -/
def loadCoreOf (s : State) (core : Nat) (d : DirEntry) : Option Nat :=
  (segOwned s d.owner d.name).bind (fun g => if g.frozen then nearestCopy s core g else (copyElsewhere s core g).map (fun e => e.1))

/-- What a copy is loading from can be reached (R395). -/
def loadReached (s : State) (core : Nat) (d : DirEntry) : Bool :=
  (match loadCoreOf s core d with
  | some c => bridgeReached s (dieOf core) (dieOf c)
  | none => (loadPagesOf s core d).all (homeReached s (dieOf core)))

/-- What a copy is loading from has failed (R395). -/
def loadStruck (s : State) (core : Nat) (d : DirEntry) : Bool :=
  (match loadCoreOf s core d with
  | some c => bridgeFailed s (dieOf core) (dieOf c)
  | none => (loadPagesOf s core d).any (homeFailed s (dieOf core)))

/-- A load from a failed home ends as on an uncorrectable error (R395): the copy is discarded and its data is lost, for the leaf to say at the next `SATT`. What
the spec says of a lost dirty copy (R359) is taken for an image that cannot be read (log entry 53). -/
def loadFails (s : State) (core : Nat) (d : DirEntry) : State :=
  modSeg (dropCopy s core d.owner d.name) d.owner d.name (fun g => { g with lost := true })

/-- `SEGMENT_LOAD_DONE` (R59, R35): the copies of a name that are loading on a core arrive. -/
def execSegmentLoadDone (core name : Nat) (s : State) : Answer :=
  let ds := (coreAt s core).dir.filter (fun d => d.name == name && d.state == .loading && loadReached s core d)
  .next (ds.foldl (fun s d =>
    let s := if loadStruck s core d then loadFails s core d else finishLoad s core d
    if d.owner ≥ 24 then settleSlot s (d.owner - 24) else s) s)

/-! ### Code pages (R70, R83) -/

/-- The chunk that a page is paged in from. -/
def pageChunk (c : CodePage) : Option (BitVec 256) :=
  match c.src with
  | .chunk h | .native h => some h
  | .blf _ _ => none

/-- A page of code is in device memory, and the contexts that wait for it go on (R70). -/
def pageIn (s : State) (pasid page : Nat) (m : Memory) : State :=
  let fix := fun (e : CodePage) =>
    if e.pasid == pasid && e.va == page then { e with present := true, checked := false, bytes := m } else e
  let go := fun (x : Ctx) => if x.life == .parked (.codePage page) then { x with life := .ready } else x
  let mine := fun (x : Ctx) => if x.pasid == pasid || page ≥ endPage then go x else x
  { s with
    code := s.code.map fix
    cores := s.cores.map (fun e => (e.1, { e.2 with b0 := mine e.2.b0, b1 := mine e.2.b1, sec := mine e.2.sec })) }

/-- A context waits for a page at whose entry it took trap 0x04: its saved address is a code pointer, which holds no page (R75, R83). -/
def waitsStill (x : Ctx) : Bool :=
  match x.life with
  | .parked (.still _) => true
  | _ => false

/-- A saved bundle address of a context lies in a page or in an annex of it (R83): where it fetches or resumes, and `epc` from a trap until `RFE`
(R351, R364). -/
def holdsPage (x : Ctx) (page : Nat) : Bool :=
  x.life != .empty && ((x.seq.page == page || x.seq.home == page) && !x.seq.entering && !waitsStill x
    || inhibited x && (x.epc.toNat / 4096 * 4096 == page || x.ehome.toNat == page))

/-- A code page is in use (R83). -/
def pageUsed (s : State) (pasid page : Nat) : Bool :=
  s.cores.any (fun e => [e.2.b0, e.2.b1, e.2.sec].any (fun x => (x.pasid == pasid || page ≥ endPage) && holdsPage x page))

/-- The pending change of a page takes effect; the next entry checks its trailer (R83). -/
def takeChange (c : CodePage) : CodePage :=
  match c.next with
  | some (src, m) =>
    { c with src := src, bytes := m, checked := false, next := none,
             origin := if isNative c then c.origin else some (c.src, c.bytes) }
  | none => c

/-- A page in device memory that holds a chunk: the firmware may reclaim its memory (R83). -/
def reclaimable (c : CodePage) : Bool := c.present && c.next.isNone && (pageChunk c).isSome && c.va != endPage

/-- `PAGE_REPLACE` (R83): the pending change of a page that no context uses takes effect; one that has none is reclaimed from device memory, to be paged
in again. -/
def execPageReplace (pasid page : Nat) (s : State) : Answer :=
  if pageUsed s pasid page then .next s
  else
    let fix := fun (c : CodePage) =>
      if c.pasid != pasid || c.va != page then c
      else if c.next.isSome then takeChange c
      else if reclaimable c then { c with present := false, checked := false }
      else c
    .next { s with code := s.code.map fix }

end Sys2Proof.Machine
end

