-- ==== Sys2Proof/Machine/Ed25519.lean ====
section
/-! DEFINITION. Ed25519 (R392, R396, R397), by RFC 8032 (log entry 14): keys, signatures and their verification. -/
namespace Sys2Proof.Machine

/-! ### The field and the curve -/

/-- The prime of the field, and the order of the base point. -/
def edP : Nat := 2 ^ 255 - 19
def edOrder : Nat := 2 ^ 252 + 27742317777372353535851937790883648493

/-- A power of a field element, of an exponent of up to `n` bits. -/
def edPow : Nat → Nat → Nat → Nat
  | 0, _, _ => 1
  | n + 1, a, e =>
    let r := edPow n (a * a % edP) (e / 2)
    if e % 2 == 1 then a * r % edP else r

/-- The inverse of a field element; the negative of one. -/
def edInv (a : Nat) : Nat := edPow 255 a (edP - 2)
def edNeg (a : Nat) : Nat := (edP - a % edP) % edP

/-- The constant of the curve: -121665 / 121666. -/
def edD : Nat := edNeg (121665 * edInv 121666)

/-- A point in extended coordinates: x = X / Z, y = Y / Z, x y = T / Z. -/
structure EdPoint where
  x : Nat
  y : Nat
  z : Nat
  t : Nat

/-- The neutral point. -/
def edZero : EdPoint := ⟨0, 1, 1, 0⟩

/-- The sum of two points. -/
def edAdd (p q : EdPoint) : EdPoint :=
  let a := (p.y + edNeg p.x) * (q.y + edNeg q.x) % edP
  let b := (p.y + p.x) * (q.y + q.x) % edP
  let c := 2 * p.t * q.t % edP * edD % edP
  let d := 2 * p.z * q.z % edP
  let e := b + edNeg a
  let f := d + edNeg c
  let g := d + c
  let h := b + a
  ⟨e * f % edP, g * h % edP, f * g % edP, e * h % edP⟩

/-- A multiple of a point, by a factor of up to `n` bits. -/
def edMul : Nat → Nat → EdPoint → EdPoint
  | 0, _, _ => edZero
  | n + 1, k, p =>
    let r := edMul n (k / 2) (edAdd p p)
    if k % 2 == 1 then edAdd p r else r

/-- Two points are equal. -/
def edSame (p q : EdPoint) : Bool := p.x * q.z % edP == q.x * p.z % edP && p.y * q.z % edP == q.y * p.z % edP

/-- The x coordinate of `y` whose low bit is `sign`. -/
def edRecover (y sign : Nat) : Option Nat :=
  let u := (y * y + edP - 1) % edP
  let v := (edD * (y * y % edP) + 1) % edP
  let v3 := v * v % edP * v % edP
  let r := u * v3 % edP * edPow 255 (u * (v3 * v3 % edP * v % edP) % edP) ((edP - 5) / 8) % edP
  let w := v * (r * r % edP) % edP
  let root := if w == u then some r else if w == edNeg u then some (r * edPow 255 2 ((edP - 1) / 4) % edP) else none
  root.bind (fun x => if x == 0 && sign == 1 then none else some (if x % 2 == sign then x else edP - x))

/-- The point that a number of 256 bits encodes. -/
def edDecode (n : Nat) : Option EdPoint :=
  let y := n % 2 ^ 255
  if y ≥ edP then none else (edRecover y (n / 2 ^ 255)).map (fun x => ⟨x, y, 1, x * y % edP⟩)

/-- The number that encodes a point. -/
def edEncode (p : EdPoint) : Nat :=
  let i := edInv p.z
  p.y * i % edP + 2 ^ 255 * (p.x * i % edP % 2)

/-- The base point: y is 4/5 and x even. -/
def edBase : EdPoint := (edDecode (4 * edInv 5 % edP)).getD edZero

/-! ### Keys and signatures -/

/-- SHA-512 of bytes as a number, lowest byte first. -/
def edHash (bs : List Byte) : Nat := natOfBytes (sha512 bs)

/-- The secret scalar of a seed. -/
def edScalar (seed : BitVec 256) : Nat := edHash (hashBytes seed) % 2 ^ 254 / 8 * 8 + 2 ^ 254

/-- The public key of a seed. -/
def edPublic (seed : BitVec 256) : BitVec 256 := BitVec.ofNat 256 (edEncode (edMul 256 (edScalar seed) edBase))

/-- What a signature binds: the hash of its point, the public key and the message. -/
def edBinds (r : Nat) (key : BitVec 256) (m : List Byte) : Nat := edHash (bytesOf 32 r ++ hashBytes key ++ m) % edOrder

/-- The signature of a message under a seed. -/
def edSign (seed : BitVec 256) (m : List Byte) : BitVec 512 :=
  let k := edHash ((sha512 (hashBytes seed)).drop 32 ++ m) % edOrder
  let r := edEncode (edMul 256 k edBase)
  let s := (k + edBinds r (edPublic seed) m * edScalar seed) % edOrder
  BitVec.ofNat 512 (r + 2 ^ 256 * s)

/-- A signature of a message verifies under a public key. -/
def edVerify (key : BitVec 256) (m : List Byte) (sig : BitVec 512) : Bool :=
  let r := sig.toNat % 2 ^ 256
  let s := sig.toNat / 2 ^ 256
  match edDecode key.toNat, edDecode r with
  | some a, some p => s < edOrder && edSame (edMul 4 8 (edMul 256 s edBase)) (edMul 4 8 (edAdd p (edMul 256 (edBinds r key m) a)))
  | _, _ => false

end Sys2Proof.Machine
end

