-- ==== Sys2Proof/Machine/Platform.lean ====
section
/-! DEFINITION. The device around the work: the configuration record, bring-up, measurement, the management service, power and loss of supply
(R45, R391 to R399), and the shared clock's resynchronisation (R65). -/
namespace Sys2Proof.Machine

/-! ### The configuration record (R45, R392) -/

/-- A field of a record: `n` bytes at offset `o`. -/
def field (bs : List Byte) (o n : Nat) : Nat := natOfBytes ((bs.drop o).take n)

/-- Bytes of a record are all zero. -/
def zeros (bs : List Byte) (o n : Nat) : Bool := ((bs.drop o).take n).all (fun b => b == 0)

/-- The 32 bytes of map entry `i`. -/
def mapEntry (bs : List Byte) (i : Nat) : List Byte := (bs.drop (128 + 32 * i)).take 32

/-- Fields of a map entry (R45): valid, core mask, scratchpad size code, segment area code. -/
def entryValid (e : List Byte) : Bool := bit (field e 14 1) 0
def entryMask (e : List Byte) : Nat := field e 0 12
def entrySize (e : List Byte) : Nat := field e 12 1
def entrySeg (e : List Byte) : Nat := field e 13 1

/-- A map entry meets the limits of R45 by itself. -/
def entryOk (e : List Byte) : Bool :=
  if entryValid e then
    zeros e 18 14 && zeros e 15 1 && field e 14 1 < 2 && entrySeg e ≤ 16 && entrySize e ≤ 8
      && entrySeg e * 512 ≤ 4096 + entrySize e * 512 && entryMask e != 0
  else zeros e 0 32

/-- No core stands in two entries of a list. -/
def disjointMasks : List Nat → Bool
  | [] => true
  | m :: r => r.all (fun n => m &&& n == 0) && disjointMasks r

/-- The partition map of a record meets R45. -/
def mapOk (bs : List Byte) : Bool :=
  (List.range 24).all (fun i => entryOk (mapEntry bs i))
    && disjointMasks (((List.range 24).map (mapEntry bs)).map entryMask)

/-- The partition that a valid map entry declares. -/
def partMapOf (e : List Byte) : PartMap :=
  let w := field e 16 2
  { cores := (List.range 96).filter (fun i => bit (entryMask e) i), spSize := 2 ^ 22 + entrySize e * 2 ^ 19,
    segArea := entrySeg e * 2 ^ 19, watchdog := if w == 0 then 100 else w }

/-- The sequence number of a record. -/
def recordSeq (bs : List Byte) : Nat := field bs 8 4

/-- The signature of a record verifies: Ed25519 over its first 960 bytes. -/
def recordSigned (bs : List Byte) : Bool := edVerify Config.recordKey (bs.take 960) (BitVec.ofNat 512 (field bs 960 64))

/-- The parts of a record that the table of R392 gives as zero are zero (log entry 18). -/
def recordZeros (bs : List Byte) : Bool := zeros bs 896 64 && zeros bs 32 96 && field bs 24 8 < 512 && field bs 14 2 < 4096

/-- A configuration record is valid (R392): its signature, its zeros and its partition map decide. -/
def recordValid (bs : List Byte) : Bool := bs.length == 1024 && recordZeros bs && mapOk bs && recordSigned bs

/-- The configuration that a valid record gives; features the Q9 does not have are never enabled (R13). -/
def confOf (bs : List Byte) : Conf :=
  { seq := recordSeq bs, features := field bs 16 8 % 64, hbmStacks := field bs 14 2, host := some (field bs 24 8), power := field bs 12 2,
    parts := (List.range 24).filterMap (fun i =>
      let e := mapEntry bs i
      if entryValid e then some (i, partMapOf e) else none) }

/-- The copy that bring-up uses: the valid one of higher sequence (R392). -/
def recordInUse (f : Flash) : Option (List Byte) :=
  match recordValid f.recA, recordValid f.recB with
  | true, true => some (if recordSeq f.recB > recordSeq f.recA then f.recB else f.recA)
  | true, false => some f.recA
  | false, true => some f.recB
  | false, false => none

/-! ### Bring-up (R395, R397) -/

/-- The state of a device whose supply was off: the module flash alone survives (R391, R395). The schedule and the model's own counters
go on. -/
def powerless (s : State) (on : Bool) : State :=
  { State.reset with powered := on, flash := s.flash, first := s.first, agenda := s.agenda, free := s.free, nextId := s.nextId }

/-- The entry of the measurement log for a stage (R397). -/
def measureOf (stage : Nat) (failed : Bool) (bs : List Byte) : Measure :=
  { stage := stage, failed := failed, length := bs.length, hash := BitVec.ofNat 512 (natOfBytes (sha512 bs)) }

/-- The copies of a stage's image in the flash. -/
def imagesOf (f : Flash) (stage : Nat) : List FwImage := (f.fwA ++ f.fwB).filter (fun i => i.stage == stage)

/-- The image that a stage runs: a copy of it by a free choice (log entry 44). -/
def imageOf (s : State) (stage : Nat) : Option FwImage :=
  let images := imagesOf s.flash stage
  images[Config.choose s.free % images.length]?

/-- A firmware stage, 1 to 3, is measured and then started (R395, R397). Bring-up stops at an image whose signature fails, or that is not there; after
the last stage the firmware runs. -/
def startStage (s : State) (stage : Nat) : State :=
  match imageOf s stage with
  | none => { s with boot := .managementOnly }
  | some i =>
    let s := { s with measure := s.measure ++ [measureOf stage (!i.valid) i.bytes] }
    if !i.valid then { s with boot := .managementOnly }
    else if stage < 3 then { s with boot := .starting (stage + 1) }
    else { s with boot := .running, ready := s.ready ||| 2 ^ 53 }

/-- Bring-up begins (R395): nothing is left but the flash, and the boot ROM reads the record. Without a valid one only the management service runs
(R392). -/
def beginBringUp (s : State) : State :=
  let s := powerless s true
  let s := { s with counters := s.flash.counters }
  match recordInUse s.flash with
  | none => { s with boot := .managementOnly }
  | some rec => { s with conf := confOf rec, measure := [measureOf 0 false rec], boot := .starting 1 }

/-- `POWER_ON` (R395): a full bring-up, a firmware stage at a time, so that a request can find the measurement log before it is complete (R397; log entry
15). -/
def execPowerOn (s : State) : Answer :=
  .next (match s.powered, s.boot with
    | true, .starting stage => startStage s stage
    | _, _ => beginBringUp s)

/-- A function is a fabric port. -/
def isPort (fn : Nat) : Bool := 36 ≤ fn && fn < 52

/-- Functions of the ready and failed words: stacks 0 to 11, clusters 12 to 35, ports 36 to 51, bridge 52 (R395). The firmware trains them; the ports
may train for the boot ROM too, whose management service answers over them (R392, R394, R397; log entry 15). -/
def trainable (s : State) (fn : Nat) : Bool :=
  s.powered && (s.boot == .running || (isPort fn && s.boot != .off)) && fn < 53 && !bit s.ready.toNat fn && !bit s.failed.toNat fn
    && (fn ≥ 12 || bit s.conf.hbmStacks fn)

/-- A trained port has a measured delay (R314), which the spec leaves to the link: a free value, never all ones. -/
def trainPort (s : State) (fn : Nat) : State :=
  if isPort fn then
    let p := tgetD s.ports (fn - 36) Port.reset
    { s with ports := tset s.ports (fn - 36) { p with delay := Config.freeWord s.free fn >>> 1 } }
  else s

/-- `FUNCTION_TRAINED` (R395): the function's bit is set once, in the ready or in the failed word. -/
def execFunctionTrained (fn : Nat) (ok : Bool) (s : State) : Answer :=
  if !trainable s fn then .next s
  else if ok then .next (trainPort { s with ready := s.ready ||| BitVec.ofNat 64 (2 ^ fn) } fn)
  else .next { s with failed := s.failed ||| BitVec.ofNat 64 (2 ^ fn) }

/-- Power goes: the supply is lost, or switched off (R395, R399). -/
def execLossOfSupply (s : State) : Answer := .next (powerless s false)

/-- The lifetime counters as the flash keeps them (R387). -/
def flushCounters (s : State) : State := { s with flash := { s.flash with counters := s.counters } }

/-- `LIFETIME_COUNTER_FLUSH` (R387): an hour of service is over, and the counters go to the flash. -/
def execLifetimeCounterFlush (s : State) : Answer := .next (if s.powered then flushCounters (bump s 0x1CA 1) else s)

/-! ### Clocks and power (R65, R398, R399) -/

/-- `CLOCK_RESYNC` (R65): a unit behind jumps forward by `delta` cycles, a unit ahead holds until the new value catches up. -/
def execClockResync (delta : Int) (s : State) : Answer :=
  if delta > 0 then .next { s with gclk := s.gclk + delta.toNat, gclkWas := s.gclk + delta.toNat - 1, gclkHold := 0, holdNow := 0 }
  else .next { s with gclkHold := (-delta).toNat }

/-- The limit on the module's power: the lesser of the record's limit and the last request (R398). -/
def powerBound (s : State) : Nat :=
  match s.powerReq with
  | none => s.conf.power
  | some limit => min s.conf.power limit

/-- At a step of the clock the module would draw more than its limit allows (R398); a limit bears once a record is in use. -/
def overPower (s : State) (step : Nat) : Bool := s.conf.host.isSome && powerBound s < Config.modulePower s.free step

/-- The clock is too fast for the limit, and can go slower. -/
def mustSlow (s : State) : Bool := s.powered && s.clockStep < 20 && overPower s s.clockStep

/-- `POWER_CLOCK_STEP` (R398): one step of 100 MHz, between 3.0 GHz and 1.0 GHz. The clock does not go faster than the limit on power lets it. -/
def execPowerClockStep (up : Bool) (s : State) : Answer :=
  .next (if up then (if overPower s (s.clockStep - 1) then s else { s with clockStep := s.clockStep - 1 })
    else { s with clockStep := min 20 (s.clockStep + 1) })

/-- `THERMAL_STEP_DOWN` (R399): the clock steps down, whatever the limit. -/
def execThermalStepDown (die : Nat) (s : State) : Answer :=
  .next (if die < 2 then { s with clockStep := min 20 (s.clockStep + 1) } else s)

/-- `THERMAL_SHUTDOWN` (R399): every partition halts under R357, which counts its halt, the counters are flushed and the module powers off, so that no
more than the flash is left. -/
def execThermalShutdown (die : Nat) (s : State) : Answer :=
  .next (if die < 2 && s.powered then powerless (flushCounters (bump s 0x1C5 s.conf.parts.length)) false else s)

/-! ### The management service (R393, R394, R397) -/

/-- The service answers while the boot ROM or the firmware runs, over a trained port (R394). -/
def managed (s : State) : Bool := s.powered && s.boot != .off && bits s.ready.toNat 36 16 != 0

/-- A reply of the management service; its requests carry no sequence number. -/
def answerMgmt (s : State) (source status : Nat) (data : List Byte) : State :=
  { s with mbox := { s.mbox with replies := s.mbox.replies ++ [{ dest := source, seq := 0, status := status, data := data }] } }

/-- The ready word and the failed word (R395). -/
def readinessBytes (s : State) : List Byte := bytesOf 8 s.ready.toNat ++ bytesOf 8 s.failed.toNat

/-- `READINESS` (R394, R395). -/
def execReadiness (source : Nat) (s : State) : Answer :=
  .next (if managed s then answerMgmt s source 0x00 (readinessBytes s) else s)

/-- An entry of the measurement log: 80 bytes (R397). -/
def measureBytes (m : Measure) : List Byte :=
  bytesOf 4 m.stage ++ bytesOf 4 (bitOf m.failed) ++ bytesOf 8 m.length ++ bytesOf 64 m.hash.toNat

/-- The private seed (R396): bytes 31 to 0 of SHA-512 over the response of the PUF. -/
def identitySeed : BitVec 256 := hashOf ((sha512 (bytesOf 32 Config.puf.toNat)).take 32)

/-- What an attestation reply signs (R397). The entry count stands in eight bytes (log entry 15). -/
def attestBody (s : State) (nonce : BitVec 256) : List Byte :=
  bytesOf 32 nonce.toNat ++ readinessBytes s ++ bytesOf 8 s.measure.length ++ s.measure.flatMap measureBytes
    ++ hashBytes (edPublic identitySeed)

/-- `ATTEST` (R397). -/
def execAttest (source : Nat) (nonce : BitVec 256) (s : State) : Answer :=
  let body := attestBody s nonce
  .next (if managed s then answerMgmt s source 0x00 (body ++ bytesOf 64 (edSign identitySeed body).toNat) else s)

/-- A valid record overwrites the copy of lower sequence, an invalid copy counting as the lowest (R393). -/
def storeRecord (f : Flash) (rec : List Byte) : Flash :=
  let a := if recordValid f.recA then recordSeq f.recA + 1 else 0
  let b := if recordValid f.recB then recordSeq f.recB + 1 else 0
  if b < a then { f with recB := rec } else { f with recA := rec }

/-- `RECORD_PUT` (R393, R394). -/
def execRecordPut (source : Nat) (record : List (BitVec 8)) (s : State) : Answer :=
  if !managed s then .next s
  else if !recordValid record then .next (answerMgmt s source 0x02 [])
  else .next (answerMgmt { s with flash := storeRecord s.flash record } source 0x00 [])

/-- `POWER_LIMIT` (R394, R398): from the host endpoint only. -/
def execPowerLimit (source limit : Nat) (s : State) : Answer :=
  if !managed s then .next s
  else if some source != s.conf.host then .next (answerMgmt s source 0x01 [])
  else .next (answerMgmt { s with powerReq := some limit } source 0x00 [])

/-- A management request of any other opcode (R394). -/
def otherManagement (source : Nat) (s : State) : Answer := .next (if managed s then answerMgmt s source 0x01 [] else s)

end Sys2Proof.Machine
end

