-- ==== Sys2Proof/Machine/Registers.lean ====
section
/-! DEFINITION. Writes of special registers as steps of their own (R245, R246, R249, R301, R362, R378): what the landing of a CSR write does to a context's
register, by its kind. -/
namespace Sys2Proof.Machine

/-- The context exists and holds the register: the secondary holds no register of a primary context (R361). -/
def holdsCsr (c : CtxId) (n : Nat) : Bool := c.core < 96 && (c.bank < 2 || (c.bank == 2 && !primaryCsr n))

/-- The register write of a context, if the number is of the kind that `ok` picks. -/
def csrStep (c : CtxId) (n : Nat) (v : Word) (ok : Bool) (s : State) : Answer :=
  .next (if ok && holdsCsr c n then writeCsr s c.core c.bank n v else s)

/-- `FMODE_WRITE` (R245). -/
def execFmodeWrite (ctx : CtxId) (v : BitVec 64) (s : State) : Answer := csrStep ctx 0x011 v true s

/-- `SRNG_WRITE` (R246). -/
def execSrngWrite (ctx : CtxId) (v : BitVec 64) (s : State) : Answer := csrStep ctx 0x012 v true s

/-- `SKEY_WRITE` (R301). -/
def execSkeyWrite (ctx : CtxId) (n : Nat) (v : BitVec 64) (s : State) : Answer := csrStep ctx n v (0x030 ≤ n && n ≤ 0x04F) s

/-- `FORMAT_WINDOW_WRITE` (R249): a window that another partition holds is not written, and the writer traps at its bundle. -/
def execFormatWindowWrite (ctx : CtxId) (n : Nat) (v : BitVec 64) (s : State) : Answer :=
  let x := ctxAt s ctx.core ctx.bank
  let t := { s with cur := { s.cur with core := ctx.core, bank := ctx.bank, slot := 14, page := x.seq.page, home := x.seq.home, off := x.seq.off } }
  if 0x100 ≤ n && n ≤ 0x11F && holdsCsr ctx n && windowHeld t n then .next (trapBad t (csrBad n 0x09) 0)
  else csrStep ctx n v (0x100 ≤ n && n ≤ 0x11F) s

/-- `LOG_CSR_WRITE` (R378). -/
def execLogCsrWrite (ctx : CtxId) (n : Nat) (v : BitVec 64) (s : State) : Answer := csrStep ctx n v (logCsr n).isSome s

/-- A register without behaviour of its own. -/
def plainCsr (n : Nat) : Bool :=
  n != 0x011 && n != 0x012 && !(0x030 ≤ n && n ≤ 0x04F) && !(0x100 ≤ n && n ≤ 0x11F) && (logCsr n).isNone

/-- `CSR_WRITE` (R362). -/
def execCsrWrite (ctx : CtxId) (n : Nat) (v : BitVec 64) (s : State) : Answer := csrStep ctx n v (plainCsr n && csrWritable n) s

end Sys2Proof.Machine
end

