-- ==== Sys2Proof/Machine/Timing.lean ====
section
/-! DEFINITION. The Gelxis latencies as the Still's schedule counts them (R79): how long an instruction occupies its slot, when its
result is due, and which places it writes at which cycles after issue. The array's instructions have the timing of the largest tile. -/
namespace Sys2Proof.Machine

/-- The timing of an instruction in a schedule. -/
structure Timing where
  occ   : Nat
  /-- the due cycle of its result after issue; 0 where it has none -/
  due   : Nat
  dests : List (List Loc × Nat)
  deriving DecidableEq, Repr

/-- A schedule's timing with one written place, or group of places. -/
def writesAt (occ due : Nat) (ls : List Loc) : Timing := ⟨occ, due, if ls.isEmpty then [] else [(ls, due)]⟩

/-- An instruction with no register result. -/
def noResult (occ : Nat) : Timing := ⟨occ, 0, []⟩

/-- The places of a destination field: none for the registers that discard writes. -/
def gPlace {n : Nat} (f : BitVec n) : List Loc := if f.toNat % 64 == 0 then [] else [.g (f.toNat % 64)]
def pPlace {n : Nat} (f : BitVec n) : List Loc := if f.toNat % 16 == 0 then [] else [.p (f.toNat % 16)]
def kPlace {n : Nat} (f : BitVec n) : List Loc := if f.toNat % 8 == 0 then [] else [.k (f.toNat % 8)]

/-- The elements that a matrix operand of a cluster names where no rotation applies. -/
def mPlace (cluster : Nat) (f : BitVec 10) : List Loc := opLocs (matOp Ctx.reset cluster f)

/-- The destination of a vector word of a cluster: by its destination file (R98). -/
def vvPlace (cluster : Nat) (o : VV) : List Loc :=
  match o.dfile.toNat with
  | 0 => mPlace cluster o.d
  | 1 => gPlace o.d
  | 2 => kPlace o.d
  | _ => pPlace o.d

/-- The destination of an XM or TF word: bit 1 of sub is its cluster (R187, R251). -/
def crossPlace (o : VV) : List Loc := mPlace (bits o.sub.toNat 1 1) o.d

/-- Results to a g register, a p register, a vector destination, and the row of a memory word. -/
def toGAt {n : Nat} (occ due : Nat) (f : BitVec n) : Timing := writesAt occ due (gPlace f)
def toPAt {n : Nat} (due : Nat) (f : BitVec n) : Timing := writesAt 1 due (pPlace f)
def toVAt (cluster occ due : Nat) (o : VV) : Timing := writesAt occ due (vvPlace cluster o)
def toRowAt (due : Nat) (o : MEM) : Timing := writesAt 1 due (mPlace (bitOf o.cl) o.t)

/-- The result of an atomic: none for g0 (R210). -/
def toAtomic (o : MEM) : Timing := if o.t.toNat % 64 == 0 then noResult 1 else toGAt 1 48 o.t

/-- The operand of row `r` of a multi-row form. -/
def rowPlace (o : MEM) (r : Nat) : List Loc := opLocs (advance (matOp Ctx.reset (bitOf o.cl) o.t) r)

/-- A multi-row load: row r is due at r + 6 (R207). -/
def toRows (o : MEM) : Timing :=
  let n := rowCount o
  ⟨n, n + 5, (List.range n).map (fun r => (rowPlace o r, r + 6))⟩

/-- `MVXM`: operand r is due at r + 2 (R189). -/
def toMoved (o : VV) : Timing :=
  let n := o.c.toNat % 64 + 1
  let d := matOp Ctx.reset (bits o.sub.toNat 1 1) o.d
  ⟨n, n + 1, (List.range n).map (fun r => (opLocs (advance d r), r + 2))⟩

/-- `XPOSE`: column r is due at r + 8 (R252). -/
def toColumns (o : VV) : Timing :=
  let n := o.c.toNat % 64 + 1
  let d := matOp Ctx.reset (bits o.sub.toNat 1 1) o.d
  ⟨n, n + 7, (List.range n).map (fun r => (opLocs { d with dir := 1, idx := (d.idx + r) % 64 }, r + 8))⟩

/-- `XPACK`: its lanes and the scales in a g register (R256). -/
def toPacked (o : VV) : Timing := ⟨1, 5, [(crossPlace o, 5)] ++ (if o.b.toNat % 64 == 0 then [] else [([.g (o.b.toNat % 64)], 5)])⟩

/-- A tile, and a fetch slot. -/
def toTile (occ due : Nat) (o : MXW) : Timing := writesAt occ due [.tile (o.t.toNat % 4)]

/-- The timing of an instruction in a slot (R79). An instruction whose timing depends on a shape that only the run gives has that of the largest:
R79 says so of `MMA`, `TLD` and `TST`, and the model takes the same for `MMAS`, `MMAC` and `AGEN` (log entry 20). -/
def timingOf (slot : Nat) (i : Instr) : Timing :=
  let cl := bitOf (slot == 5)
  match i with
  | .add _ o | .sub _ o | .and _ o | .or _ o | .xor _ o | .andn _ o | .orn _ o | .sel _ o | .shl _ o | .shr _ o | .sar _ o | .rol _ o
  | .min _ o | .max _ o | .minu _ o | .maxu _ o | .absd _ o | .clz _ o | .ctz _ o | .popc _ o | .sext _ o | .zext _ o => toGAt 1 1 o.d
  | .addi _ o | .movi _ o | .movh _ o | .fshl _ o | .fshr _ o | .shadd _ o | .bext _ o | .bins _ o => toGAt 1 1 o.d
  | .cmpEq _ o | .cmpNe _ o | .cmpLt _ o | .cmpLtu _ o | .cmpLe _ o | .cmpLeu _ o | .cmpGt _ o | .cmpGtu _ o | .cmpGe _ o
  | .cmpGeu _ o => toPAt 1 o.d
  | .cmpiEq _ o | .cmpiNe _ o | .cmpiLt _ o | .cmpiLtu _ o | .cmpiLe _ o | .cmpiLeu _ o | .cmpiGt _ o | .cmpiGtu _ o | .cmpiGe _ o
  | .cmpiGeu _ o => toPAt 1 o.d
  | .mul _ o | .mulh _ o | .mulhu _ o => toGAt 1 3 o.d
  | .div _ o | .divu _ o | .rem _ o | .remu _ o => toGAt 4 14 o.d
  | .call _ o => toGAt 1 1 o.d
  | .callr _ o => toGAt 1 1 o.d
  | .br _ _ | .brc _ _ | .jmp _ _ | .ret _ _ | .loop _ _ | .loopr _ _ | .lexit _ _ | .bt _ _ => noResult 1
  | .pbt _ o | .pbtReg _ o => writesAt 1 1 [.bt (o.d.toNat % 4)]
  | .pand _ o | .por _ o | .pxor _ o | .pnot _ o | .pmov _ o => toPAt 1 o.d
  | .vadd _ o | .vsub _ o | .vmul _ o | .vmulh _ o | .vmin _ o | .vmax _ o | .vminu _ o | .vmaxu _ o | .vabs _ o | .vand _ o | .vor _ o
  | .vxor _ o | .vshl _ o | .vshr _ o | .vsar _ o | .vfshl _ o | .vfshr _ o | .vclz _ o | .vpopc _ o | .vcmp _ o | .vsel _ o | .vbcstG _ o
  | .vbcstLane _ o | .vrotG _ o | .vrotImm _ o | .vperm _ o | .vcmpr _ o | .viota _ o | .vmovs _ o => toVAt cl 1 2 o
  | .vins _ o => writesAt 1 2 ((mPlace cl o.d)[o.c.toNat % 64]?).toList
  | .vgmaxu _ o => toVAt cl 1 4 o
  | .mvx _ o | .mvkMk _ o => writesAt 1 2 (crossPlace o)
  | .mvxm _ o => toMoved o
  | .mvgr _ o | .mvkGk _ o => toGAt 1 2 o.d
  | .mvkKm _ o | .mvkKg _ o => writesAt 1 2 (kPlace o.d)
  | .xpose _ o => toColumns o
  | .xcvt _ o | .xwiden _ o => writesAt 1 3 (crossPlace o)
  | .xexp _ o | .xdec _ o => writesAt 1 4 (crossPlace o)
  | .xpack _ o => toPacked o
  | .fadd _ o | .fsub _ o | .fmul _ o | .fma _ o | .fms _ o | .fnma _ o | .fmin _ o | .fmax _ o | .fabs _ o | .fneg _ o | .fcmp _ o
  | .frcp _ o | .frsq _ o => toVAt cl 1 4 o
  | .fdiv _ o | .fsqrt _ o => toVAt cl 2 14 o
  | .cvtif _ o | .cvtfi _ o | .cvtfb _ o | .cvtbf _ o => toVAt cl 1 3 o
  | .vredadd _ o | .vredmax _ o | .vredmaxu _ o | .vredmin _ o | .fredadd _ o | .fredmax _ o => toVAt cl 1 6 o
  | .kand _ o | .kor _ o | .knot _ o | .kpopc _ o => toVAt cl 1 1 o
  | .lds _ o => toGAt 1 5 o.t
  | .ldsv _ o | .ldsvu _ o | .ldsx _ o => toRowAt 6 o
  | .ldsm _ o => toRows o
  | .stsm _ o => noResult (rowCount o)
  | .sts _ _ | .stsv _ _ | .stsx _ _ => noResult 1
  | .ldg _ o => toGAt 1 24 o.t
  | .ldgv _ o => toRowAt 24 o
  | .stg _ _ | .stgv _ _ | .stgvm _ _ | .pfg _ _ | .flg _ _ => noResult 1
  | .aadd _ o | .afadd _ o | .amin _ o | .amax _ o | .aminu _ o | .amaxu _ o | .aand _ o | .aor _ o | .axor _ o | .axchg _ o
  | .acas _ o => toAtomic o
  | .aradd _ _ => noResult 1
  | .xlt _ o => writesAt 1 60 [.h (o.d.toNat % 32)]
  | .xltp _ _ => writesAt 1 60 ((List.range 32).map Loc.h)
  | .xrel _ o => writesAt 1 1 [.h (o.d.toNat % 32)]
  | .xinv _ _ => noResult 1
  | .tcfg _ o | .tzero _ o => toTile 1 2 o
  | .tswap _ o => writesAt 1 2 [.tile (o.t.toNat % 4), .tile (o.b.toNat % 4)]
  | .tfet _ o => writesAt 1 48 [.fslot (o.t.toNat % 4)]
  | .trel _ o => writesAt 1 1 [.fslot (o.t.toNat % 4)]
  | .mma _ o | .mmas _ o | .mmac _ o => toTile 128 140 o
  | .agen _ _ => noResult 16
  | .aproj _ _ => noResult 64
  | .aseek _ o => noResult (64 * (o.imm.toNat + 1))
  | .lclk _ o => toGAt 1 1 o.d
  | .tld _ o => toTile 64 68 o
  | .tst _ _ => noResult 64
  | .trowv _ o => writesAt 1 3 (mPlace (bits o.imm.toNat 10 1) (o.imm.extractLsb' 0 10))
  | .tvrow _ o => toTile 1 3 o
  | .ctffr _ o => toGAt 1 2 o.d
  | .semrd _ o => toGAt 1 2 o.d
  | .screate _ o | .satt _ o | .squery _ o => toGAt 1 4 o.d
  | .csrr _ o => toGAt 1 2 o.d
  | .csrw _ _ | .csrs _ _ | .csrc _ _ => ⟨1, 1, []⟩
  | .wpset _ o => toGAt 1 1 o.d
  | .logctlHw _ o => toGAt 1 2 o.d
  | .logctlFlush _ o => toGAt 1 1 o.d
  | .sstart _ o => toGAt 1 2 o.d
  | _ => noResult 1

/-- How long after its issue an array instruction may still touch the scratchpad (R79). -/
def lastTouch (i : Instr) : Nat :=
  match i with
  | .mma _ _ | .mmas _ _ | .mmac _ _ => 129
  | .tld _ _ => 65
  | .tst _ _ => 64
  | .agen _ _ => 19
  | .aproj _ _ => 76
  | .aseek _ o => 64 * (o.imm.toNat + 1) + 12
  | _ => 0

end Sys2Proof.Machine
end

