-- ==== Sys2Proof/Machine/Regions.lean ====
section
/-! DEFINITION. The operation list that the Still schedules (R16 to R18, R78): what lifting takes of a foreign page, and a BLF unit read into it.
The list form names the producer of every operand; which registers carry the values that no bind record names is left open, and here it is a
free choice among those that cannot be observed in the unit (log entry 20). -/
namespace Sys2Proof.Machine

/-! ### What is scheduled -/

/-- A bundle as lifting reads it: its slots with their instructions, none when it is malformed (R78, R82), and for a loop instruction how many of
the bundles after it are its body. -/
structure ForeignBundle where
  words : Option (List (Nat × Instr))
  span  : Nat
  deriving DecidableEq, Repr

/-- A page or unit as lifting reads it: its bundles, the anchors that name each, and whether a branch has a delay bundle. -/
structure ForeignPage where
  bundles : List ForeignBundle
  anchors : List (List Nat)
  delayed : Bool
  deriving DecidableEq, Repr

/-! ### Regions of a unit (R18) -/

/-- An operand of a region with its producer named by number: the result of operation `i` of the region, the value that a register holds at the
region's start, a constant, nothing. -/
inductive Value where
  | result (i : Nat)
  | entry (file num : Nat)
  | const (w : Word)
  | absent
  deriving DecidableEq, Repr

/-- An operation of a region: its record, its number in the unit, its operands. -/
structure RegionOp where
  rec_ : BlfOp
  no   : Nat
  a    : Value
  b    : Value
  c    : Value
  p    : Value
  deriving DecidableEq, Repr

/-- A region: the anchor that begins it, its operations, and its bind records with the values they bind. -/
structure Region where
  anchor : Option Nat
  ops    : List RegionOp
  binds  : List ((Nat × Nat) × Value)
  deriving DecidableEq, Repr

/-- Whether a field of an operation holds a constant as it stands (R101, R106, R167): field a, b or c as 0, 1 or 2. -/
def literalField (o : BlfOp) (field : Nat) : Bool :=
  match field with
  | 1 => (o.slot < 2 && (o.op == 20 || o.op == 21)) || (o.slot == 3 && (o.op == 4 || o.op == 7))
  | 2 => vvSlot o.slot
  | _ => false

/-- The word of an operation is the short one of its slot's map. -/
def shortWord (o : BlfOp) : Bool :=
  let t := tableOf (slotOfNat o.slot)
  (readWord t false (modIn t none (4 * o.op)) (4 * o.op)).isSome

/-- The word of an operation has a field of its own for the record's immediate (R97, R100 to R102), so that an operand which names the immediate fills no
register field of it. -/
def ownImmediate (o : BlfOp) : Bool :=
  match tableOf (slotOfNat o.slot) with
  | .scratch | .global | .atomic | .matrix => true
  | .vector | .xmove | .transform | .engine | .link => false
  | _ => !shortWord o

/-- The value of an operand after `n` operations of its region (R18). An immediate is the record's, sign-extended as `MOVI` takes it. -/
def valueIn (consts : List Word) (n imm : Nat) (o : BlfOperand) : Value :=
  match o with
  | .producer d => .result (n - d)
  | .register file num => .entry file num
  | .constant i => .const ((consts[i]?).getD 0)
  | .absent => .absent
  | .immediate => .const (wrap64 (sextNat 32 imm))

/-- The regions of a list of records: `cur` is the region being read, `no` counts the operations of the unit. -/
def regionsOf (consts : List Word) (cur : Region) (no : Nat) : List BlfRecord → List Region
  | [] => [cur]
  | r :: rest =>
    match r with
    | .finish => [cur]
    | .anchor _ id => cur :: regionsOf consts ⟨some id, [], []⟩ no rest
    | .bind file num v =>
      regionsOf consts { cur with binds := cur.binds ++ [((file, num), valueIn consts cur.ops.length 0 v)] } no rest
    | .op o =>
      let v := valueIn consts cur.ops.length o.imm
      let field := fun (n : Nat) (w : BlfOperand) => if w == .immediate && ownImmediate o && !literalField o n then .absent else v w
      regionsOf consts { cur with ops := cur.ops ++ [⟨o, no, field 0 o.a, field 1 o.b, field 2 o.c, v o.p⟩] } (no + 1) rest

/-- The operands of an operation. -/
def valuesOf (o : RegionOp) : List Value := [o.a, o.b, o.c, o.p]

/-- The file of a result class (R17): none for class 0, whose operation has no result. -/
def classFile (cls : Nat) : Option Nat := if 1 ≤ cls && cls ≤ 7 then some (cls - 1) else none

/-- Two matrix operands of one cluster share an element (R99, R140): of one direction only the same line does; lines of two directions cross, but a diagonal
and an anti-diagonal only where their numbers are both even or both odd. -/
def sharesElement (a b : Nat) : Bool :=
  let dir := fun (n : Nat) => bits n 2 2
  a % 4 == b % 4 && (if dir a == dir b then a == b else !(2 ≤ dir a && 2 ≤ dir b) || bits a 4 1 == bits b 4 1)

/-- A register or bind record of a unit names this register, or for a matrix operand one that shares elements with it. -/
def namesIt (file num : Nat) (e : Nat × Nat) : Bool :=
  e.1 == file && (if file == 4 || file == 5 then sharesElement e.2 num else e.2 == num)

/-- A register that the spec hard-wires: g0, p0, k0. A bind record of it changes nothing. -/
def hardWired (e : Nat × Nat) : Bool := e.1 < 3 && e.2 == 0

/-- The binds that hold after the region: the last of each register that can be written. -/
def lastBinds : List ((Nat × Nat) × Value) → List ((Nat × Nat) × Value)
  | [] => []
  | e :: r => if hardWired e.1 || r.any (fun f => f.1 == e.1) then lastBinds r else e :: lastBinds r

/-- A value is what a register held at the region's start, or what one that shares elements with it did. -/
def readsEntry (reg : Nat × Nat) (v : Value) : Bool :=
  match v with
  | .entry f n => namesIt reg.1 reg.2 (f, n)
  | _ => false

/-- A transfer or another operation of the BR slot that ends a region (R79). -/
def endsRegion (o : RegionOp) : Bool := o.rec_.slot == 3 && [0, 1, 2, 3, 4, 5, 8, 10].contains o.rec_.op

/-- How many operations come before the region's final control operation, if it has one. -/
def bodyOps (r : Region) : Nat :=
  match r.ops.getLast? with
  | some o => if endsRegion o then r.ops.length - 1 else r.ops.length
  | none => 0

/-- The register that operation `i` writes because a bind record becomes its destination: no later operation needs what the register held, no bind
record of another register shares elements with it, and no bind record before it in the list has claimed the operation (R79). -/
def boundTo (r : Region) (i : Nat) : Option (Nat × Nat) :=
  match ((lastBinds r.binds).find? (fun e => e.2 == .result i)).map (fun e => e.1) with
  | none => none
  | some reg =>
    if (r.ops.drop (i + 1)).any (fun o => (valuesOf o).any (readsEntry reg))
      || (lastBinds r.binds).any (fun e => e.1 != reg && namesIt reg.1 reg.2 e.1)
      || (r.ops[i]?).all (fun o => classFile o.rec_.cls != some reg.1) then none else some reg

/-- The bind records that a move carries out. -/
def movedBinds (r : Region) : List ((Nat × Nat) × Value) :=
  (lastBinds r.binds).filter (fun e => match e.2 with
    | .result i => boundTo r i != some e.1
    | v => v != .entry e.1.1 e.1.2)

/-! ### Registers for the values of a region -/

/-- A value that needs a register of its own: a constant, an entry value read after its register is bound, the result of an operation. -/
inductive Temp where
  | const (w : Word)
  | saved (file num : Nat)
  | result (i : Nat)
  deriving DecidableEq, Repr

/-- Registers of a file that a callee may overwrite (R20), rows of matrix registers 0 and 1 in clusters A and B. -/
def callerSaved (file : Nat) : List Nat :=
  match file with
  | 0 => (List.range 64).filter (fun n => (1 ≤ n && n ≤ 31) || (48 ≤ n && n ≤ 61))
  | 1 => [1, 2, 3, 4, 5, 6, 7]
  | 2 => [1, 2, 3, 4, 5, 6, 7]
  | 3 => List.range 16
  | 4 | 5 => (List.range 64).flatMap (fun i => [16 * i, 16 * i + 1])
  | 6 => List.range 4
  | _ => []

/-- The registers that the records of a unit name. -/
def namedRegs (rs : List Region) : List (Nat × Nat) :=
  let entry := fun (v : Value) => match v with
    | .entry f n => some (f, n)
    | _ => none
  rs.flatMap (fun r => r.binds.map (fun e => e.1) ++ r.binds.filterMap (fun e => entry e.2)
    ++ (r.ops.flatMap valuesOf).filterMap entry)

/-- The registers that may carry values which no record of the unit names. -/
def spareRegs (named : List (Nat × Nat)) (file : Nat) : List Nat := (callerSaved file).filter (fun n => !named.any (namesIt file n))

/-- The constants that an operation reads from registers. -/
def constsOf (o : RegionOp) : List Word :=
  [(0, o.a), (1, o.b), (2, o.c)].filterMap (fun e => match e.2 with
    | .const w => if literalField o.rec_ e.1 then none else some w
    | _ => none)

/-- The entry values that must be kept: those that the final control operation or a bind record reads, of a bound register or one that shares elements
with it. -/
def savedIn (r : Region) : List (Nat × Nat) :=
  let late := (r.ops.drop (bodyOps r)).flatMap valuesOf ++ (movedBinds r).map (fun e => e.2)
  let kept := fun (v : Value) => match v with
    | .entry f n => if (lastBinds r.binds).any (fun e => readsEntry e.1 v) then some (f, n) else none
    | _ => none
  (late.filterMap kept).eraseDups

/-- The last operation that reads a value: its number in the region; the region's length for one that a move or a kept value needs. -/
def lastRead (r : Region) (i : Nat) : Nat :=
  if (movedBinds r).any (fun e => e.2 == .result i) then r.ops.length
  else ((List.range r.ops.length).filter (fun j => (r.ops[j]?).any (fun o => (valuesOf o).contains (.result i)))).foldl max i

/-- The values of a region that need registers, in order: what each is, its file, the operation that makes it (0 for the region's start), and the
last that reads it. -/
def tempsOf (r : Region) : List (Temp × Nat × Nat × Nat) :=
  let n := r.ops.length
  let consts := ((r.ops.flatMap constsOf) ++ (movedBinds r).filterMap (fun e => match e.2 with | .const w => some w | _ => none)).eraseDups
  consts.map (fun w => (.const w, 0, 0, n)) ++ (savedIn r).map (fun e => (.saved e.1 e.2, e.1, 0, n))
    ++ (List.range n).filterMap (fun i => (r.ops[i]?).bind (fun o =>
      match classFile o.rec_.cls with
      | none => none
      | some f => if (boundTo r i).isSome then none else some (.result i, f, i, lastRead r i)))

/-- Registers given to the values of a region in order, by a free choice among the spare ones that hold no value still to be read; none when a file
has none left. `got` holds each value with its file, its register and its last reader. -/
def assignTemps (spare : Nat → List Nat) (choice : Nat → Nat) : List (Temp × Nat × Nat × Nat) → List (Temp × Nat × Nat × Nat) →
    Option (List (Temp × Nat × Nat × Nat))
  | got, [] => some got
  | got, (t, f, i, last) :: rest =>
    let free := (spare f).filter (fun n => !got.any (fun e => e.2.1 == f && e.2.2.1 == n && i < e.2.2.2))
    match free[choice got.length % max 1 free.length]? with
    | none => none
    | some n => assignTemps spare choice (got ++ [(t, f, n, last)]) rest

/-! ### Instructions of a region -/

/-- The register that holds a value, as file and number; absent operands and constants in place are number 0. -/
def regOf (r : Region) (got : List (Temp × Nat × Nat × Nat)) (late : Bool) (v : Value) : Nat × Nat :=
  let temp := fun (t : Temp) => ((got.find? (fun e => e.1 == t)).map (fun e => (e.2.1, e.2.2.1))).getD (0, 0)
  match v with
  | .absent => (0, 0)
  | .const w => temp (.const w)
  | .entry f n => if late && (savedIn r).contains (f, n) then temp (.saved f n) else (f, n)
  | .result i => match boundTo r i with
    | some reg => reg
    | none => temp (.result i)

/-- A guard that always holds. -/
def always : Mod := { pfx := none, neg := false, pred := 0 }

/-- The instruction that copies a register to another of its file; none where no instruction does. -/
def moveInstr (file d a : Nat) : Option (Nat × Instr) :=
  match file with
  | 0 => some (0, .add always { d := BitVec.ofNat 6 d, a := BitVec.ofNat 6 a, b := 0 })
  | 1 => some (3, .pmov always { d := BitVec.ofNat 6 d, a := BitVec.ofNat 6 a, b := 0 })
  | 2 => some (4, .kor always { d := BitVec.ofNat 10 d, a := BitVec.ofNat 10 a, b := BitVec.ofNat 10 a, c := 0, k := 0, sub := 0, dfile := 2 })
  | 4 => some (4, .vmovs always { d := BitVec.ofNat 10 d, a := BitVec.ofNat 10 a, b := 0, c := 0, k := 0, sub := 0, dfile := 0 })
  | 5 => some (5, .vmovs always { d := BitVec.ofNat 10 d, a := BitVec.ofNat 10 a, b := 0, c := 0, k := 0, sub := 0, dfile := 0 })
  | _ => none

/-- The instructions that put a constant into a g register (R150): `MOVI`, and `MOVH` for a value that it does not sign-extend to. -/
def loadConst (d : Nat) (w : Word) : List Instr :=
  let lo : Instr := .movi always { d := BitVec.ofNat 6 d, a := 0, b := 0, imm := w.setWidth 32 }
  if (w.setWidth 32).signExtend 64 == w then [lo]
  else [lo, .movh always { d := BitVec.ofNat 6 d, a := BitVec.ofNat 6 d, b := 0, imm := BitVec.ofNat 32 (w.toNat / 2 ^ 32) }]

/-- The operand fields of a word: destination, the three operands with their files, and the guard's register. -/
structure WordFields where
  d : Nat
  a : Nat × Nat
  b : Nat × Nat
  c : Nat × Nat
  p : Nat
  deriving DecidableEq, Repr

/-- The number of an operand where the word takes a g register; 0 for one of another file, which fills a field of its own. -/
def gNum (e : Nat × Nat) : Nat := if e.1 == 0 then e.2 else 0

/-- An operand is a cluster A or cluster B operand. -/
def isMatrix (e : Nat × Nat) : Bool := e.1 == 4 || e.1 == 5

/-- The number of the operand of a file, of those that a record names; 0 when it names none. -/
def inFile (f : WordFields) (file : Nat) : Nat := (([f.a, f.b, f.c].find? (fun e => e.1 == file)).map (fun e => e.2)).getD 0

/-- The destination file code of a result class (R98). -/
def dfileOf (cls : Nat) : Nat :=
  match cls with
  | 1 => 1 | 2 => 3 | 3 => 2 | _ => 0

/-- The data field of a memory word, as a file and a number: the result of an operation that has one, otherwise operand c where the instruction takes data: an
atomic takes a matrix operand, and `ACAS` (opcode 10) a g register. -/
def dataField (o : BlfOp) (f : WordFields) : Nat × Nat :=
  if o.cls != 0 then (o.cls - 1, f.d)
  else if isMatrix f.c || (f.c.1 == 0 && (o.slot != 9 || o.op == 10)) then f.c
  else (0, 0)

/-- The immediate of a matrix word: `TROWV` (opcode 9) names its destination there and `TVROW` (opcode 10) its source, each with its cluster (R278). -/
def matrixImm (o : BlfOp) (f : WordFields) : Nat :=
  let row := fun (e : Nat × Nat) => pack [(10, e.2), (1, e.1 - 4), (5, bits o.imm 11 5)]
  if o.op == 9 && isMatrix (o.cls - 1, f.d) then row (o.cls - 1, f.d)
  else if o.op == 10 then (match [f.a, f.b, f.c].find? isMatrix with
    | some e => row e
    | none => o.imm)
  else o.imm

/-- The word of an operation (R97 to R104), in the class of its slot. A branch names its anchor by the immediate, and a `CALL` returns to the next
anchor, `after`. DESIGN CHOICE (log entry 20): R17 and R18 do not say which field of a word an operand fills. Operands a, b and c fill the fields of those
names that take their file; store data stands in operand c; a handle, a lane mask and a tile is the first operand of its file; a vector operation has the
lane mask k0; a branch takes its anchor from the low six bits of its immediate. The fields that no part of a record names are free (`free`): the modifiers of
memory, matrix, engine and link words. -/
def unitWord (o : BlfOp) (f : WordFields) (after : Nat) (free : Nat → Nat) (long : Bool) : Nat :=
  let x : Mod := { pfx := none, neg := o.neg, pred := BitVec.ofNat 4 f.p }
  let sr : SR := { d := BitVec.ofNat 6 f.d, a := BitVec.ofNat 6 f.a.2, b := BitVec.ofNat 6 f.b.2 }
  match tableOf (slotOfNat o.slot) with
  | .branch =>
    if !long then sr.word x o.op
    else if o.op == 6 then
      BX.word { d := 0, a := 0, b := 0, aux := fld o.imm 0 6, anchor := fld o.imm 6 6, page := fld o.imm 12 20 } x o.op
    else
      BX.word { d := sr.d, a := sr.a, b := sr.b, aux := if o.op == 3 then BitVec.ofNat 6 after else 0, anchor := fld o.imm 0 6, page := 0 }
        x o.op
  | .vector | .xmove | .transform =>
    VV.word { d := BitVec.ofNat 10 f.d, a := BitVec.ofNat 10 f.a.2, b := BitVec.ofNat 10 f.b.2, c := BitVec.ofNat 10 f.c.2, k := 0
              sub := BitVec.ofNat 4 o.func, dfile := BitVec.ofNat 4 (dfileOf o.cls) } x o.op
  | .scratch | .global | .atomic =>
    let data := dataField o f
    MEM.word { t := BitVec.ofNat 10 data.2, cl := data.1 == 5, a := BitVec.ofNat 6 (gNum f.a), b := BitVec.ofNat 6 (gNum f.b)
               k := BitVec.ofNat 3 (inFile f 2), h := BitVec.ofNat 5 (inFile f 3), mod := BitVec.ofNat 8 (free 0), imm := fld o.imm 0 12 } x o.op
  | .matrix =>
    MXW.word { t := BitVec.ofNat 2 (if o.cls == 7 then f.d else inFile f 6), a := BitVec.ofNat 6 (gNum f.a), fa := bit (free 0) 0
               b := BitVec.ofNat 6 (gNum f.b), bs := BitVec.ofNat 2 (free 1), cellop := BitVec.ofNat 8 (free 2), last := bit (free 3) 0
               discard := bit (free 4) 0, sub := BitVec.ofNat 8 (free 5), imm := fld (matrixImm o f) 0 16 } x o.op
  | .engine =>
    ENW.word { d := BitVec.ofNat 6 (if o.cls == 1 then f.d else inFile f 3), a := BitVec.ofNat 6 (gNum f.a)
               b := BitVec.ofNat 6 (gNum f.b), tag := BitVec.ofNat 6 (free 0)
               scope := BitVec.ofNat 3 (free 1), acq := bit (free 2) 0, rel := bit (free 3) 0, cmp := bit (free 4) 0, sealed := bit (free 5) 0
               wait := bit (free 6) 0, signal := bit (free 7) 0, nofill := bit (free 8) 0, c := BitVec.ofNat 6 (gNum f.c)
               sub := BitVec.ofNat 10 (free 9) } x o.op
  | .link =>
    LKW.word { d := sr.d, a := sr.a, b := sr.b, port := BitVec.ofNat 4 (free 0), c := BitVec.ofNat 6 f.c.2, sub := BitVec.ofNat 16 (free 1) } x o.op
  | .scalar | .mulDiv | .translate | .system =>
    if long then SI.word { d := sr.d, a := sr.a, b := sr.b, imm := BitVec.ofNat 32 o.imm } x o.op else sr.word x o.op

/-- The prefix that an operation needs (R91, R92): for its rounding, saturation and no-flag bits, and for a memory offset of more than 12 bits. -/
def unitPrefix (o : BlfOp) : Option Nat :=
  let wide := 7 ≤ o.slot && o.slot ≤ 9 && sextNat 12 o.imm != sextNat 32 o.imm
  if o.nfl || o.sat || o.rnd != 0 || wide then
    some (Pfx.unit { ext := if wide then fld o.imm 12 16 else 0, nfl := o.nfl, sat := o.sat, rnd := BitVec.ofNat 3 o.rnd })
  else none

/-- The instruction of an operation; none where its fields make no instruction of the tables. -/
def unitInstr (o : BlfOp) (f : WordFields) (after : Nat) (free : Nat → Nat) : Option Instr :=
  match decodeWord (slotOfNat o.slot) allFeatures (unitPrefix o) (!shortWord o) (unitWord o f after free (!shortWord o)) with
  | .ok i => some i
  | .error _ => none

/-! ### A unit as bundles -/

/-- One bundle of a unit's operation list: the number of the operation it belongs to, its words, the anchors at it, and for a loop instruction how
many operations its body has. -/
structure Item where
  owner   : Nat
  words   : Option (List (Nat × Instr))
  anchors : List Nat
  count   : Nat
  deriving DecidableEq, Repr

/-- A bundle of one instruction. -/
def itemOf (owner : Nat) (w : Option (Nat × Instr)) : Item := ⟨owner, w.map (fun e => [e]), [], 0⟩

/-- The body length that a loop instruction gives (R157): in the list form it counts operation records (log entry 20). -/
def bodyCount (i : Instr) : Nat :=
  match i with
  | .loop _ o => o.aux.toNat + 1
  | .loopr _ o => o.b.toNat + 1
  | _ => 0

/-- The bundle of operation `i` of a region. DESIGN CHOICE (log entry 20): of the predicate operand only the number of the register that holds it is taken, as
the guard, whatever its file; R17 and R18 do not say what a constant, an immediate or a register of another file means there. -/
def opItem (r : Region) (got : List (Temp × Nat × Nat × Nat)) (after : Nat) (free : Nat → Nat → Nat) (i : Nat) (o : RegionOp) : Item :=
  let late := bodyOps r ≤ i
  let field := fun (n : Nat) (v : Value) => match v with
    | .const w => if literalField o.rec_ n then (0, w.toNat) else regOf r got late v
    | v => regOf r got late v
  let d := if (classFile o.rec_.cls).isSome then (regOf r got late (.result i)).2 else 0
  let w := unitInstr o.rec_ ⟨d, field 0 o.a, field 1 o.b, field 2 o.c, (regOf r got late o.p).2⟩ after (free o.no)
  { itemOf o.no (w.map (fun e => (o.rec_.slot, e))) with count := (w.map bodyCount).getD 0 }

/-- The bundles of a region (R18, R79). DESIGN CHOICE (log entry 20): a bind record whose value is of another file than its register, or that needs a move in
the h or the tile file, which no instruction makes, becomes a malformed bundle, which traps. In order: constants and kept entry values first, then the operations, the moves of its binds before its final
control operation. `no` is the number of the unit's operation that comes next. -/
def regionItems (r : Region) (got : List (Temp × Nat × Nat × Nat)) (after : Nat) (free : Nat → Nat → Nat) (no : Nat) : List Item :=
  let start := got.flatMap (fun e => match e.1 with
    | .const w => (loadConst e.2.2.1 w).map (fun i => itemOf no (some (0, i)))
    | .saved f n => [itemOf no (moveInstr f e.2.2.1 n)]
    | .result _ => [])
  let ops := ((List.range r.ops.length).zip r.ops).map (fun e => opItem r got after free e.1 e.2)
  let moves := (movedBinds r).map (fun e =>
    let v := regOf r got true e.2
    itemOf (no + (bodyOps r - 1)) (if v.1 == e.1.1 then moveInstr e.1.1 e.1.2 v.2 else none))
  let all := start ++ ops.take (bodyOps r) ++ moves ++ ops.drop (bodyOps r)
  match r.anchor, all with
  | none, l => l
  | some id, [] => [⟨no, some [], [id], 0⟩]
  | some id, b :: l => { b with anchors := [id] } :: l

/-- The bundles of a list of regions in order; none when a region's values do not find registers. -/
def unitItems (named : List (Nat × Nat)) (free : Nat → Nat → Nat) (no : Nat) : List Region → Option (List Item)
  | [] => some []
  | r :: rest =>
    match assignTemps (spareRegs named) (fun k => free no (2 ^ 16 + k)) [] (tempsOf r) with
    | none => none
    | some got =>
      (unitItems named free (no + r.ops.length) rest).map (fun l =>
        regionItems r got ((rest.head?.bind (fun q => q.anchor)).getD 0) free no ++ l)

/-- A unit as lifting reads it (R18, R78): every operation a bundle of its own, and no branch has a delay bundle. -/
def readUnit (m : Memory) : Option ForeignPage :=
  match parseUnit m with
  | none => none
  | some rs =>
    let regions := regionsOf (unitConstants m) ⟨none, [], []⟩ 0 rs
    let bytes := peeks m 0 (4096 * unitChunks m)
    (unitItems (namedRegs regions) (Config.unitChoice bytes) 0 regions).map (fun l =>
      let span := fun (j : Nat) (e : Item) => if e.count == 0 then 0 else ((l.drop (j + 1)).takeWhile (fun f => f.owner ≤ e.owner + e.count)).length
      { bundles := ((List.range l.length).zip l).map (fun e => ⟨e.2.words, span e.1 e.2⟩)
        anchors := l.map (fun e => e.anchors), delayed := false })

end Sys2Proof.Machine
end

