-- ==== Sys2Proof/Machine/Still.lean ====
section
/-! DEFINITION. The Still (R77 to R83, R400): a foreign page or a BLF unit scheduled and laid out as native pages, the overlay of what it has
written, and the event that installs a rewrite. -/
namespace Sys2Proof.Machine

/-! ### Reading a foreign bundle (R82) -/

/-- The Gelxis slots of the Wilaefold slots, in order (R82). -/
def foreignSlots : List Nat := [0, 1, 2, 3, 4, 7, 8, 9, 10, 12, 13, 14]

/-- A Wilaefold header in the layout of R29: the slots of the mask moved to their Gelxis numbers. A header with a reserved bit set is
no header. -/
def nativeHeader (h : Nat) : Nat :=
  if bits h 23 9 != 0 then 0
  else bits h 0 11 + ((List.range 12).zip foreignSlots).foldl (fun n e => n + bitOf (bit h (11 + e.1)) * 2 ^ (11 + e.2)) 0

/-- The instructions that Wilaefold does not have (R82). -/
def notForeign (i : Instr) : Bool :=
  match i with
  | .vgmaxu _ _ | .stsvm _ _ | .mmas _ _ | .mmac _ _ | .agen _ _ | .aproj _ _ | .aseek _ _ => true
  | _ => false

/-- Rounding code 110 (R82). -/
def asksCode6 (i : Instr) : Bool :=
  match modOf i with
  | some { pfx := some p, .. } => p.rnd == 6
  | _ => false

/-- The body length of a loop instruction (R157), and the instruction with another. -/
def bodyLength (i : Instr) : Option Nat :=
  match i with
  | .loop _ o => some (o.aux.toNat + 1)
  | .loopr _ o => some (o.b.toNat + 1)
  | _ => none
def withCount (n : Nat) (i : Instr) : Instr :=
  match i with
  | .loop x o => .loop x { o with aux := BitVec.ofNat 6 (n - 1) }
  | .loopr x o => .loopr x { o with b := BitVec.ofNat 6 (n - 1) }
  | i => i

/-- The bundle at a byte offset of a foreign page. -/
def foreignBundle (m : Memory) (b : Nat) : ForeignBundle :=
  let unit := fun a => if a == b then nativeHeader (unitAt m a) else unitAt m a
  match parseBundle ⟨true, false, allFeatures⟩ unit b with
  | .error _ => ⟨none, 0⟩
  | .ok p =>
    if p.words.any (fun w => notForeign w.instr || asksCode6 w.instr) then ⟨none, 0⟩
    else ⟨some (p.words.map (fun w => (w.slot, w.instr))), ((p.words.findSome? (fun w => bodyLength w.instr)).getD 0)⟩

/-! ### The schedule of a part (R78, R79) -/

/-- An operation of the list: its slot, its instruction, and the number of the foreign bundle it came from. -/
structure Oper where
  slot   : Nat
  instr  : Instr
  bundle : Nat
  deriving DecidableEq, Repr

/-- The state in which an operation's register names are resolved: nothing rotates within a part. -/
def namingState (slot : Nat) : State := { State.reset with cur := { State.reset.cur with slot := slot } }

/-- The places an operation reads, with the cycle after issue. -/
def operReads (o : Oper) : List (Loc × Nat) :=
  (usesOf (namingState o.slot) o.instr).flatMap (fun u => u.locs.map (fun l => (l, u.delay)))

/-- The places an operation writes, with their due cycles after issue. -/
def operWrites (o : Oper) : List (Loc × Nat) := (timingOf o.slot o.instr).dests.flatMap (fun d => d.1.map (fun l => (l, d.2)))

/-- An operation that has been placed: its cycle and slot, and what it reads and writes at which cycles. -/
structure Seated where
  oper   : Oper
  cycle  : Nat
  slot   : Nat
  occ    : Nat
  due    : Nat
  reads  : List (Loc × Nat)
  writes : List (Loc × Nat)
  deriving DecidableEq, Repr

/-- Memory accesses and ordering points (R79): what the LS, LG, LA, MX, EN, SY and LK slots take, and the decoder's stream. -/
def isOrdered (o : Oper) : Bool :=
  o.slot == 7 || o.slot == 8 || o.slot == 9 || 12 ≤ o.slot || (match o.instr with
    | .xdcfg _ _ | .xdec _ _ => true
    | _ => false)

/-- A transfer with two delay bundles (R137), one without, and any control operation that ends a part. -/
def isDelayed (i : Instr) : Bool :=
  match i with
  | .br _ _ | .brc _ _ | .jmp _ _ | .call _ _ | .callr _ _ | .ret _ _ => true
  | _ => false
def isUndelayed (i : Instr) : Bool :=
  match i with
  | .lexit _ _ | .bt _ _ => true
  | _ => false
def isControl (i : Instr) : Bool := isDelayed i || isUndelayed i

/-- Whether an operation's list of places meets another's. -/
def meets (a b : List (Loc × Nat)) : Bool := a.any (fun e => b.any (fun f => e.1 == f.1))

/-- The earliest cycle the data row allows: the nearest earlier writer of each place read, other than those of the operation's own
bundle, is due. `h` holds what has been placed, newest first. -/
def dataFrom (h : List Seated) (o : Oper) : Nat :=
  (operReads o).foldl (fun c r =>
    match (h.filter (fun d => d.oper.bundle != o.bundle)).findSome? (fun d => d.writes.find? (fun w => w.1 == r.1)) with
    | some w => max c w.2
    | none => c) 0

/-- The earliest cycle the overwrite row allows. -/
def overwriteFrom (h : List Seated) (o : Oper) : Nat :=
  (operWrites o).foldl (fun c w =>
    h.foldl (fun c d =>
      let r := (d.reads.filter (fun e => e.1 == w.1)).foldl (fun c e => max c e.2) c
      (d.writes.filter (fun e => e.1 == w.1)).foldl (fun c e => max c (e.2 + 1 - w.2)) r) c) 0

/-- The earliest cycle the order row allows. -/
def orderFrom (h : List Seated) (o : Oper) : Nat :=
  if isOrdered o then
    h.foldl (fun c d => if isOrdered d.oper then max c (d.cycle + lastTouch d.oper.instr) else c) 0
  else 0

/-- A slot is free for the whole of an occupancy. -/
def slotFree (h : List Seated) (slot c occ : Nat) : Bool :=
  h.all (fun d => d.slot != slot || d.cycle + d.occ ≤ c || c + occ ≤ d.cycle)

/-- No ordered operation placed in the same cycle stands in this slot or a later one. -/
def inOrder (h : List Seated) (o : Oper) (slot c : Nat) : Bool :=
  !isOrdered o || h.all (fun d => !isOrdered d.oper || d.cycle != c || d.slot < slot)

/-- The slot that an operation takes at a cycle: S0 and S1 operations take S0, else S1; a member of a group its own. -/
def takes (h : List Seated) (alone : Bool) (c : Nat) (o : Oper) : Option Nat :=
  (if alone && o.slot < 2 then [0, 1] else [o.slot]).find? (fun s => slotFree h s c (timingOf o.slot o.instr).occ && inOrder h o s c)

/-- The first cycle from `c` at which every member of a group has its slot. -/
def seatAt (h : List Seated) (group : List Oper) : Nat → Nat → Nat × List Nat
  | 0, c => (c, group.map (fun o => o.slot))
  | fuel + 1, c =>
    let got := group.filterMap (takes h (group.length == 1) c)
    if got.length == group.length then (c, got) else seatAt h group fuel (c + 1)

/-- One operation at its cycle and slot. -/
def seated (o : Oper) (c slot : Nat) : Seated :=
  let t := timingOf o.slot o.instr
  { oper := o, cycle := c, slot := slot, occ := t.occ, due := if t.due == 0 then 0 else c + t.due
    reads := (operReads o).map (fun e => (e.1, c + e.2)), writes := (operWrites o).map (fun e => (e.1, c + e.2)) }

/-- The cycle by which every result of what has been placed is due, and the last cycle in which anything is placed. -/
def allDue (h : List Seated) : Nat := h.foldl (fun c d => max c d.due) 0
def lastCycle (h : List Seated) : Nat := h.foldl (fun c d => max c d.cycle) 0

/-- A group placed (R79). The control operation that ends a part waits until everything else is due and placed. -/
def place (h : List Seated) (final : Bool) (group : List Oper) : List Seated :=
  let c := group.foldl (fun c o => max c (max (dataFrom h o) (max (overwriteFrom h o) (orderFrom h o)))) 0
  let c := if final then max c (max (allDue h) (lastCycle h)) else c
  let r := seatAt h group (h.foldl (fun n d => max n (d.cycle + d.occ)) 0 + 1) c
  (group.zip r.2).foldl (fun h e => seated e.1 r.1 e.2 :: h) h

/-! ### The order of a bundle's operations (R78, step 3) -/

/-- The operations, by their number in the bundle, that must enter the list before operation `a`: the readers of what it writes. -/
def readersOf (os : List Oper) (a : Nat) : List Nat :=
  match os[a]? with
  | none => []
  | some w => (List.range os.length).filter (fun b => b != a && (match os[b]? with
    | some r => meets (operReads r) (operWrites w)
    | none => false))

/-- What must come before `a`, directly or through others. -/
def before (os : List Oper) : Nat → List Nat → List Nat
  | 0, l => l
  | fuel + 1, l => before os fuel ((List.range os.length).filter (fun b => l.contains b || l.any (fun a => (readersOf os a).contains b)))

/-- The operations that `a` stands in a cycle with, and `a` itself. -/
def circle (os : List Oper) (a : Nat) : List Nat :=
  let pre := fun (i : Nat) => before os os.length (readersOf os i)
  (List.range os.length).filter (fun b => b == a || ((pre a).contains b && (pre b).contains a))

/-- Enter an operation, its group, after everything that must come before it. `acc` holds the groups entered. -/
def enter (os : List Oper) : Nat → List (List Nat) → Nat → List (List Nat)
  | 0, acc, _ => acc
  | fuel + 1, acc, a =>
    if acc.any (fun g => g.contains a) then acc
    else
      let m := circle os a
      let first := (before os os.length (readersOf os a)).filter (fun b => !m.contains b)
      let acc := first.foldl (fun acc b => enter os fuel acc b) acc
      acc ++ [m]

/-- The groups of one bundle's operations in the order in which they enter the list; a control operation ends the part and stays last. -/
def groupsOf (os : List Oper) : List (List Oper) :=
  let control := fun (a : Nat) => (os[a]?).any (fun o => isControl o.instr)
  let turn := (List.range os.length).filter (fun a => !control a) ++ (List.range os.length).filter control
  let gs := turn.foldl (fun acc a => enter os (os.length + 1) acc a) []
  let gs := gs.filter (fun g => !g.any control) ++ gs.filter (fun g => g.any control)
  gs.map (fun g => g.filterMap (fun a => os[a]?))

/-- The operations of a part in runs of one bundle each. -/
def runsOf : List Oper → List (List Oper)
  | [] => []
  | o :: r =>
    match runsOf r with
    | (p :: q) :: t => if p.bundle == o.bundle then (o :: p :: q) :: t else [o] :: (p :: q) :: t
    | t => [o] :: t

/-- The schedule of a part's operations, newest first; `control` says that its last operation is a transfer. -/
def schedule (os : List Oper) (control : Bool) : List Seated :=
  let gs := (runsOf os).flatMap groupsOf
  (gs.zip (List.range gs.length)).foldl (fun h e => place h (control && e.2 + 1 == gs.length) e.1) []

/-! ### Native bundles -/

/-- A bundle of the output: its header, the units after it, whether it must stand in the page of the bundle before it, and the anchors that
name it. -/
structure Native where
  head    : Nat
  units   : List Nat
  glued   : Bool
  anchors : List Nat
  deriving DecidableEq, Repr

/-- The bytes of a bundle. -/
def nativeSize (b : Native) : Nat := 4 + 4 * b.units.length

/-- A bundle of slots and instructions. -/
def nativeOf (ws : List (Nat × Instr)) : Native :=
  let sorted := (List.range 16).flatMap (fun n => ws.filter (fun w => w.1 == n))
  let units := sorted.flatMap (fun w => encode w.2)
  ⟨3 + 32 * units.length + sorted.foldl (fun n w => n + 2 ^ (11 + w.1)) 0, units, false, []⟩

/-- The empty bundle 0x0000_0003. -/
def emptyNative : Native := ⟨3, [], false, []⟩

/-- The first bundle of a region: A when anchored, and D. -/
def markFirst (anchors : List Nat) (first : Bool) : List Native → List Native
  | [] => []
  | b :: r =>
    { b with head := b.head + (if anchors.isEmpty then 0 else 16) + (if first then 4 else 0), anchors := anchors } :: r

/-- The bundle that a malformed bundle becomes (R79). -/
def replacement (anchors : List Nat) : Native := ⟨if anchors.isEmpty then 0x80000003 else 0x80000017, [], false, anchors⟩

/-- How a part ends: open, at a transfer without delay bundles, or at one with two. -/
inductive Close where
  | plain | undelayed | delayed
  deriving DecidableEq, Repr

/-- The bundles of a part (R79, R80): one for each cycle until every result is due; two empty delay bundles after a branch; one bundle at
least where a region begins; a loop body's last part is drained before its last bundle. -/
def partBundles (anchors : List Nat) (first lastOfBody : Bool) (os : List Oper) (c : Close) : List Native :=
  let h := schedule os (c != .plain)
  let n := if h.isEmpty then 0 else max (lastCycle h + 1) (allDue h)
  let n := max n (if first then 1 else 0)
  let n := if lastOfBody && c == .plain then max n (allDue h + 1) else n
  let own := (List.range n).map (fun i => nativeOf ((h.filter (fun d => d.cycle == i)).map (fun d => (d.slot, d.oper.instr))))
  let delays := if c == .delayed then [{ emptyNative with glued := true }, { emptyNative with glued := true }] else []
  markFirst anchors first (own ++ delays)

/-! ### Lifting (R78, R80) -/

/-- The part being gathered: where it begins, its anchors, whether a region begins with it, and its operations. -/
structure Gather where
  begin     : Nat
  anchors : List Nat
  first   : Bool
  ops     : List Oper
  deriving DecidableEq, Repr

/-- What lifting gives: the bundles; whether a loop body with this end needs a loop-back bundle of its own (R80); whether control can fall
through the end; whether a body is too long; and the next foreign bundle. -/
structure Lifted where
  out   : List Native
  pad   : Bool
  falls : Bool
  overLong : Bool
  next  : Nat
  deriving DecidableEq, Repr

/-- The anchors that name bundle `j`. -/
def anchorsAt (p : ForeignPage) (j : Nat) : List Nat := (p.anchors[j]?).getD []

/-- The next anchored bundle from `j` on. -/
def nextAnchored (p : ForeignPage) : Nat → Nat → Nat
  | 0, j => j
  | fuel + 1, j => if p.bundles.length ≤ j || !(anchorsAt p j).isEmpty then j else nextAnchored p fuel (j + 1)

/-- A transfer that is taken whatever its guard holds. -/
def unconditional (i : Instr) : Bool :=
  isControl i && (match i with
    | .lexit _ _ => false
    | _ => (match modOf i with
      | some x => x.pred == 0 && !x.neg
      | none => true))

/-- The transfers whose place at the end of a loop body R158 forbids. -/
def forbidsEnd (i : Instr) : Bool :=
  match i with
  | .br _ _ | .brc _ _ | .jmp _ _ | .ret _ _ => true
  | _ => false

/-- A part put before the rest. -/
def Lifted.after (l : Lifted) (bs : List Native) : Lifted := { l with out := bs ++ l.out }

/-- The lifting of bundles `j` to `last - 1`, a loop body or the whole page, with the part gathered so far. Two points are choices of the model,
where the spec is silent (log entry 49): a branch in the last bundle of its page or loop body, which has no delay bundle there, is lifted with no
delay operations; and a loop whose body reaches past the page's end has its body cut there, an empty body being one empty bundle. -/
def lift (p : ForeignPage) (body : Bool) (last : Nat) : Nat → Option Gather → Nat → Lifted
  | 0, _, j => ⟨[], false, true, true, j⟩
  | fuel + 1, cur, j =>
    let put := fun (q : Gather) (atEnd : Bool) (c : Close) => partBundles q.anchors q.first atEnd q.ops c
    if last ≤ j then
      (match cur with
      | none => ⟨[], false, true, false, j⟩
      | some q => ⟨put q body .plain, false, true, false, j⟩)
    else
      let fresh : Gather := ⟨j, anchorsAt p j, !(anchorsAt p j).isEmpty || j == 0, []⟩
      match cur with
      | none => lift p body last fuel (some fresh) j
      | some q =>
        if q.begin != j && !(anchorsAt p j).isEmpty then (lift p body last fuel (some fresh) j).after (put q false .plain)
        else match ((p.bundles[j]?).getD ⟨none, 0⟩).words with
          | none =>
            let pre := if q.begin == j then [] else put q false .plain
            let k := nextAnchored p p.bundles.length (j + 1)
            let trap := replacement (anchorsAt p j)
            if last ≤ k then ⟨pre ++ [trap], false, false, false, k⟩
            else (lift p body last fuel none k).after (pre ++ [trap])
          | some ws =>
            let own := fun (f : Instr → Bool) => (ws.filter (fun w => f w.2)).map (fun w => (⟨w.1, w.2, j⟩ : Oper))
            let rest := own (fun i => (bodyLength i).isNone && !isControl i) ++ own isUndelayed
            match ws.find? (fun w => (bodyLength w.2).isSome) with
            | some w =>
              let n := ((p.bundles[j]?).map (fun b => b.span)).getD 1
              let q := { q with ops := q.ops ++ rest }
              let pre := if q.ops.isEmpty then [] else put q false .plain
              let start : Option Gather := if j + 1 < min last (j + 1 + n) then some ⟨j + 1, anchorsAt p (j + 1), true, []⟩ else none
              let b := lift p true (min last (j + 1 + n)) fuel start (j + 1)
              let inner := b.out ++ (if b.pad || start.isNone then [emptyNative] else [])
              let loop := markFirst (if q.ops.isEmpty then q.anchors else []) (q.ops.isEmpty && q.first)
                [nativeOf [(3, withCount inner.length w.2)]]
              let out := pre ++ loop ++ inner.map (fun e => { e with glued := true })
              let overLong := b.overLong || inner.length > 64
              let k := max (j + 1 + n) b.next
              if last ≤ k then ⟨out, true, true, overLong, max last b.next⟩
              else
                let l := lift p body last fuel none k
                { l with out := out ++ l.out, overLong := l.overLong || overLong }
            | none =>
              match ws.find? (fun w => isDelayed w.2) with
              | some w =>
                let delay := if p.delayed && j + 1 < last then (p.bundles[j + 1]?).map (fun b => b.words) else some (some [])
                match delay with
                | some none => lift p body last fuel (some { q with ops := q.ops ++ rest }) (j + 1)
                | d =>
                  let late := ((d.getD (some [])).getD []).map (fun e => (⟨e.1, e.2, j + 1⟩ : Oper))
                  let bs := put { q with ops := q.ops ++ rest ++ late ++ [⟨w.1, w.2, j⟩] } false .delayed
                  let k := if p.delayed && (anchorsAt p (j + 1)).isEmpty then j + 2 else j + 1
                  if last ≤ k then ⟨bs, forbidsEnd w.2, !unconditional w.2, false, last⟩
                  else (lift p body last fuel none k).after bs
              | none =>
                match ws.find? (fun w => isUndelayed w.2) with
                | some w =>
                  let bs := put { q with ops := q.ops ++ rest } false .undelayed
                  if last ≤ j + 1 then ⟨bs, false, !unconditional w.2, false, j + 1⟩
                  else (lift p body last fuel none (j + 1)).after bs
                | none => lift p body last fuel (some { q with ops := q.ops ++ rest }) (j + 1)

/-- A foreign page read (R78, R68): its bundles, and the anchors of its trailer by bundle. DESIGN CHOICE (log entry 20): an anchored bundle is one that an
anchor of the trailer names; the A bit of a bundle that none names makes it none. -/
def readForeign (m : Memory) : ForeignPage :=
  let bs := (boundaries m).getD []
  { bundles := bs.map (foreignBundle m)
    anchors := bs.map (fun o => (List.range (pageAnchors m)).filter (fun i => 4 * anchorWord m i == o))
    delayed := true }

/-- The output bundles of a page or unit as lifting reads it, and whether its last region falls through; none on rewrite overflow (R80). -/
def liftAll (p : ForeignPage) : Option (List Native × Bool) :=
  let l := lift p false p.bundles.length (4 * p.bundles.length + 4) none 0
  if l.overLong then none else some (l.out, l.falls)

/-! ### Laying out pages (R66, R81, R400) -/

/-- The bytes of a run of bundles. -/
def runSize (bs : List Native) : Nat := bs.foldl (fun n b => n + nativeSize b) 0

/-- Where a page that is full may end: before the last of its bundles that is not glued to the one before it. -/
def cutPoint (cur : List Native) : Nat :=
  (List.range cur.length).foldl (fun t i => if (cur[i]?).any (fun b => !b.glued) then i else t) 0

/-- The bundles dealt to pages in order: finished pages, and the page being filled; none when a group needs more than a page. -/
def deal : List (List Native) → List Native → List Native → Option (List (List Native))
  | done, cur, [] => some (done ++ [cur])
  | done, cur, b :: r =>
    if runSize cur + nativeSize b ≤ 3840 then deal done (cur ++ [b]) r
    else
      let t := if b.glued then cutPoint cur else cur.length
      if t == 0 || runSize (cur.drop t) + nativeSize b > 3840 then none
      else deal (done ++ [cur.take t]) (cur.drop t ++ [b]) r

/-- The unconditional `BR` to anchor 0 of the next home page, with its delay bundles (R81, rule 2). -/
def fallBranch : List Native :=
  [nativeOf [(3, .br { pfx := none, neg := false, pred := 0 } { d := 0, a := 0, b := 0, aux := 0, anchor := 0, page := 1 })],
   { emptyNative with glued := true }, { emptyNative with glued := true }]

/-- The 4-byte units of bundles as bytes. -/
def nativeBytes (bs : List Native) : List Byte := bs.flatMap (fun b => (b.head :: b.units).flatMap (bytesOf 4))

/-- The word offsets of the bundles that anchors name: anchor id and offset (R66, R81 rule 3). -/
def anchorOffsets (pages : List (List Native)) : List (Nat × Nat) :=
  (pages.zip (List.range pages.length)).flatMap (fun e =>
    (e.1.foldl (fun (a : List (Nat × Nat) × Nat) b =>
      (a.1 ++ b.anchors.map (fun i => (i, 960 * e.2 + a.2 / 4)), a.2 + nativeSize b)) ([], 0)).1)

/-- The bytes of one page (R66): the bundle area, padded with empty bundles on the last page, and the trailer. -/
def nativePage (bs : List Native) (kinds : List Nat) (offsets : List (Nat × Nat)) (slot number count : Nat) : List Byte :=
  let last := number + 1 == count
  let area := nativeBytes bs
  let fill := if last then (List.replicate ((3840 - area.length) / 4) (bytesOf 4 3)).flatten else List.replicate (3840 - area.length) 0
  let entries := if number == 0 then
      ((List.range kinds.length).zip kinds).map (fun e => e.2 * 4096 + (((offsets.find? (fun o => o.1 == e.1)).or offsets.head?).map (fun o => o.2)).getD 0)
    else []
  area ++ fill ++ bytesOf 4 0x47503951 ++ bytesOf 1 0x31 ++ bytesOf 1 (2 + bitOf (number != 0) + (if last then 4 else 0))
    ++ bytesOf 1 entries.length ++ [0] ++ bytesOf 2 (if last then 3840 else area.length) ++ List.replicate 6 0
    ++ bytesOf 8 (if last then 0 else annexVa slot (number + 1)) ++ (entries.flatMap (bytesOf 2))
    ++ List.replicate (128 - 2 * entries.length) 0 ++ List.replicate 104 0

/-- Bytes from address 0 up as a memory. -/
def memoryOf (bs : List Byte) : Memory := ((List.range bs.length).zip bs).filter (fun c => c.2 != unlistedByte)

/-- The pages of an output (R81): home page first; none on rewrite overflow. -/
def layPages (key : List Byte) (kinds : List Nat) (out : List Native) (falls : Bool) : Option (List Memory) :=
  match deal [] [] (if falls then out ++ fallBranch else out) with
  | none => none
  | some pages =>
    if pages.length > 4 then none
    else
      let offsets := anchorOffsets pages
      some ((pages.zip (List.range pages.length)).map (fun e =>
        memoryOf (nativePage e.1 kinds offsets (annexSlot key) e.2 pages.length)))

/-! ### Overlay (R77) -/

/-- A page that the Still has to rewrite: a BLF unit, or a page of tag 0x2A (R73, R74). -/
def isForeign (c : CodePage) : Bool := isBlf c || (c.present && !isNative c && pageTag c.bytes == 0x2A)

/-- The bytes of a page's overlay key (R77, R400). -/
def overlayKey (c : CodePage) : List Byte :=
  match c.src with
  | .blf h unit => hashBytes h ++ bytesOf 4 unit
  | .chunk h => hashBytes h
  | .native h => hashBytes h

/-- The anchor kinds of a page in order of id. An id below the count that no record of a unit has is a loop start, which no transfer from
outside a pinned body takes (log entry 20). -/
def foreignKinds (c : CodePage) : List Nat := (List.range (anchorCount c)).map (fun i => (kindOf c i).getD 3)

/-- The operations of a page that the Still takes (R78): a BLF unit's, or a foreign page's. -/
def operationsOf (c : CodePage) : Option ForeignPage := if isBlf c then readUnit c.bytes else some (readForeign c.bytes)

/-- The Still's output for a page: none on rewrite overflow (R78 to R81). -/
def rewrite (c : CodePage) : Option (List Memory) :=
  match (operationsOf c).bind liftAll with
  | none => none
  | some r => layPages (overlayKey c) (foreignKinds c) r.1 r.2

/-- The entry least recently mapped of a list. -/
def leastRecent : List Overlay → Option Overlay
  | [] => none
  | o :: r => match leastRecent r with
    | none => some o
    | some p => if p.used < o.used then some p else some o

/-- Room in the annex slot of a key (R400): the entry of another key that holds it is dropped, unless it is used. -/
def annexRoom (s : State) (key : List Byte) (n : Nat) : Option State :=
  if n ≤ 1 then some s
  else match s.overlay.find? (fun o => o.key != key && o.leaves.length > 1 && annexSlot o.key == annexSlot key) with
    | none => some s
    | some o => if overlayUsed s o then none else some (dropOverlay s o)

/-- Room for one more overlay entry (R77). -/
def overlayRoom (s : State) : State :=
  if s.overlay.length < 65536 then s
  else match leastRecent (s.overlay.filter (fun o => !overlayUsed s o)) with
    | some o => dropOverlay s o
    | none => s

/-- A native page in the chunk store (R10, R77): one that a host put under its hash and that has passed no check is replaced (R26). -/
def keepChunk (s : State) (m : Memory) : State :=
  let h := leafHash m
  match chunkAt s h with
  | none => { s with chunks := s.chunks ++ [{ hash := h, bytes := m, refs := 1, verified := false }] }
  | some _ =>
    countRefs { s with chunks := s.chunks.map (fun c => if c.hash == h && !c.verified then { c with bytes := m } else c) } [h] true

/-- A new overlay entry. -/
def addOverlay (s : State) (key : List Byte) (pages : List Memory) : State :=
  let s := pages.foldl keepChunk (overlayRoom s)
  { s with overlay := s.overlay ++ [{ key := key, leaves := pages.map leafHash, used := 0 }] }

/-! ### Installing (R77, R83) -/

/-- Native pages mapped for a code page, which have passed their check (R11): at once, or as a pending change while the page is in use; the annex pages
at their own addresses. The entry is the most recently mapped. -/
def install (s : State) (c : CodePage) (key : List Byte) (pages : List (BitVec 256 × Memory)) : State :=
  match pages with
  | [] => s
  | home :: annexes =>
    let used := pageUsed s c.pasid c.va
    let fix := fun (e : CodePage) =>
      if e.pasid == c.pasid && e.va == c.va then
        (if used then { e with next := some (.native home.1, home.2) }
          else { e with src := .native home.1, bytes := home.2, present := true, checked := false, origin := some (c.src, c.bytes) })
      else e
    let chain := (annexes.zip (List.range annexes.length)).map (fun a =>
      ({ pasid := 0, va := annexVa (annexSlot key) (a.2 + 1), src := .native a.1.1, present := true, checked := false, bytes := a.1.2, next := none }
        : CodePage))
    let s := nextStamp (markVerified s (pages.map (fun e => e.1)))
    { s with
      code := (s.code.filter (fun e => !chain.any (fun a => a.va == e.va))).map fix ++ chain
      overlay := s.overlay.map (fun o => if o.key == key then { o with used := s.stamp } else o) }

/-- The contexts of a space that wait for the Still at a page: core and bank. -/
def stillWaiters (s : State) (pasid page : Nat) : List (Nat × Nat) :=
  s.cores.flatMap (fun e => ([0, 1, 2].filter (fun b =>
    let x := ctxIn e.2 b
    x.pasid == pasid && (match x.life with
      | .parked (.still entry) => entry.toNat / 4096 * 4096 == page
      | _ => false))).map (fun b => (e.1, b)))

/-- The contexts that wait for a page go on when it is native (R75, R77). -/
def stillResume (s : State) (pasid page : Nat) : State :=
  match codePage s pasid page with
  | some c => if isForeign c then s else (stillWaiters s pasid page).foldl (fun s w => resume s w.1 w.2) s
  | none => s

/-- A rewrite that failed: the kernels of the contexts that wait end with reason 6 (R76, R80). -/
def stillFailed (s : State) (pasid page : Nat) : State :=
  (stillWaiters s pasid page).foldl (fun s w =>
    let x := ctxAt s w.1 w.2
    endKernel s w.1 w.2 6 (bits x.tcause.toNat 8 5) 0x04 x.tval x.epc) s

/-- The stored pages of an overlay entry, each checked against its hash (R11, R77). -/
def storedPages (s : State) (o : Overlay) : Option (List (BitVec 256 × Memory)) :=
  o.leaves.foldr (fun h l => match checkedChunk s h, l with
    | some m, some r => some ((h, m) :: r)
    | _, _ => none) (some [])

/-- The Still rewrites a page, and the result is stored and mapped (R77, step 3). -/
def runStill (s : State) (c : CodePage) : State :=
  let key := overlayKey c
  let s := bump s 0x1C4 1
  match rewrite c with
  | none => stillFailed s c.pasid c.va
  | some pages => match annexRoom s key pages.length with
    | none => stillFailed s c.pasid c.va
    | some s => stillResume (install (addOverlay s key pages) c key (pages.map (fun m => (leafHash m, m)))) c.pasid c.va

/-- `STILL_REWRITE_DONE` (R75 to R83): the leaf serves trap 0x04 for a page. An entry of the overlay that fails its check is discarded, and the page
rewritten again (R11). -/
def execStillRewriteDone (pasid page : Nat) (s : State) : Answer :=
  if (stillWaiters s pasid page).isEmpty then .next s
  else match codePage s pasid page with
    | none => .next s
    | some c =>
      if !isForeign c then .next (stillResume s pasid page)
      else match s.overlay.find? (fun o => o.key == overlayKey c) with
        | none => .next (runStill s c)
        | some o => match storedPages s o with
          | some ps => .next (stillResume (install s c (overlayKey c) ps) pasid page)
          | none => .next (runStill (discardEntry s o) c)

/-! ### Paging in (R11, R70) -/

/-- An entry of the overlay has failed its check (R11): it is discarded, and its pages are foreign again; where one of them is in use, which no change
may touch, the Still gives the same pages once more. -/
def badEntry (s : State) (o : Overlay) : State :=
  let cs := s.code.filter (usesEntry o)
  if cs.all (fun c => !pageUsed s c.pasid c.va) then discardEntry s o
  else match firstSome (cs.map (fun c => c.origin.bind (fun g => rewrite { c with src := g.1, bytes := g.2 }))) with
    | none => s
    | some pages =>
      let good := fun (c : Chunk) => match pages.find? (fun m => leafHash m == c.hash) with
        | some m => { c with bytes := m, verified := true }
        | none => c
      { bump s 0x1C4 1 with chunks := s.chunks.map good }

/-- The chunk of a page that was not there is in device memory, if it passes its check. -/
def pageInFrom (s : State) (c : CodePage) : State :=
  match pageChunk c with
  | none => pageIn s c.pasid c.va c.bytes
  | some h => match checkedChunk s h with
    | some m => pageIn (markVerified s [h]) c.pasid c.va m
    | none => s

/-- `CODE_PAGE_IN_DONE` (R70, R11): the chunk of a mapped page is paged in under its check, and the contexts that wait for the page go on. A chunk that
fails its check is not mapped: the entry of a native page is discarded and the page rewritten again. -/
def execCodePageInDone (pasid page : Nat) (s : State) : Answer :=
  match s.code.find? (fun c => c.pasid == pasid && c.va == page && !c.present) with
  | none => .next s
  | some c =>
    match (pageChunk c).bind (fun h => if (checkedChunk s h).isSome then none else s.overlay.find? (fun o => isNative c && o.leaves.contains h)) with
    | none => .next (pageInFrom s c)
    | some o =>
      let t := badEntry s o
      .next (match t.code.find? (fun e => e.pasid == pasid && e.va == page) with
        | some e => if e.present then pageIn t pasid page e.bytes else pageInFrom t e
        | none => t)

end Sys2Proof.Machine
end

