-- ==== Sys2Proof/Machine/Vector.lean ====
section
/-! DEFINITION. The instructions of the VA and VB slots (R167 to R186). -/
namespace Sys2Proof.Machine

/-! ### Integer lanes (R172) -/

/-- sat32 and satu32 of R170. -/
def sat32 (v : Int) : Unit32 := BitVec.ofInt 32 (max (-(2 ^ 31 : Int)) (min v (2 ^ 31 - 1)))
def satu32 (v : Int) : Unit32 := BitVec.ofInt 32 (max 0 (min v (2 ^ 32 - 1)))

/-- The unsigned form `.u` of an instruction that has one: sub bit 0. -/
def isU (o : VV) : Bool := bit o.sub.toNat 0

/-- A lane sum or difference, wrapped or saturated. -/
def addLane (sat u : Bool) (sign : Int) (a b : Unit32) : Unit32 :=
  if !sat then wrap32 (a.toInt + sign * b.toInt)
  else if u then satu32 ((a.toNat : Int) + sign * b.toNat) else sat32 (a.toInt + sign * b.toInt)

def execVadd (x : Mod) (o : VV) (s : State) : Answer := lanes2 x o s 2 (addLane (satOf x) (isU o) 1)
def execVsub (x : Mod) (o : VV) (s : State) : Answer := lanes2 x o s 2 (addLane (satOf x) (isU o) (-1))
def execVmul (x : Mod) (o : VV) (s : State) : Answer := lanes2 x o s 2 (fun a b => wrap32 (a.toInt * b.toInt))
def execVmulh (x : Mod) (o : VV) (s : State) : Answer :=
  lanes2 x o s 2 (fun a b =>
    if isU o then BitVec.ofNat 32 (a.toNat * b.toNat / 2 ^ 32) else wrap32 ((a.toInt * b.toInt).fdiv (2 ^ 32)))
def execVmin (x : Mod) (o : VV) (s : State) : Answer := lanes2 x o s 2 (fun a b => if a.sle b then a else b)
def execVmax (x : Mod) (o : VV) (s : State) : Answer := lanes2 x o s 2 (fun a b => if b.sle a then a else b)
def execVminu (x : Mod) (o : VV) (s : State) : Answer := lanes2 x o s 2 (fun a b => if a.ule b then a else b)
def execVmaxu (x : Mod) (o : VV) (s : State) : Answer := lanes2 x o s 2 (fun a b => if b.ule a then a else b)
def execVabs (x : Mod) (o : VV) (s : State) : Answer :=
  lanes1 x o s 2 (fun a => if satOf x then sat32 (a.toInt.natAbs : Int) else wrap32 (a.toInt.natAbs : Int))
def execVand (x : Mod) (o : VV) (s : State) : Answer := lanes2 x o s 2 (fun a b => a &&& b)
def execVor (x : Mod) (o : VV) (s : State) : Answer := lanes2 x o s 2 (fun a b => a ||| b)
def execVxor (x : Mod) (o : VV) (s : State) : Answer := lanes2 x o s 2 (fun a b => a ^^^ b)
def execVshl (x : Mod) (o : VV) (s : State) : Answer := lanes2 x o s 2 (fun a b => a <<< (b.toNat % 32))
def execVshr (x : Mod) (o : VV) (s : State) : Answer := lanes2 x o s 2 (fun a b => a >>> (b.toNat % 32))
def execVsar (x : Mod) (o : VV) (s : State) : Answer := lanes2 x o s 2 (fun a b => a.sshiftRight (b.toNat % 32))

/-- The pair a:b of a funnel shift (R173). -/
def pair32 (a b : Unit32) : Nat := a.toNat * 2 ^ 32 + b.toNat

def execVfshl (x : Mod) (o : VV) (s : State) : Answer :=
  lanes3 x o s 2 (fun a b c => BitVec.ofNat 32 (pair32 a b * 2 ^ (c.toNat % 64) / 2 ^ 32))
def execVfshr (x : Mod) (o : VV) (s : State) : Answer :=
  lanes3 x o s 2 (fun a b c => BitVec.ofNat 32 (pair32 a b / 2 ^ (c.toNat % 64)))
def execVclz (x : Mod) (o : VV) (s : State) : Answer :=
  lanes1 x o s 2 (fun a => BitVec.ofNat 32 (if a.toNat == 0 then 32 else 31 - Nat.log2 a.toNat))
def execVpopc (x : Mod) (o : VV) (s : State) : Answer := lanes1 x o s 2 (fun a => BitVec.ofNat 32 (popcount 32 a.toNat))

/-! ### Compare, select, group maximum (R174, R175) -/

def execVcmp (x : Mod) (o : VV) (s : State) : Answer :=
  let a := rd s o.a
  let b := rd s o.b
  cmpOut x o s 2 (fun i => intRel o.sub.toNat (lane a i) (lane b i)) 0
def execVsel (x : Mod) (o : VV) (s : State) : Answer :=
  let a := rd s o.a
  let b := rd s o.b
  let k := regK s (o.c.toNat % 8)
  vOut x o s 2 (fun i => if laneOn k i then lane a i else lane b i)

/-- Lanes in a group of `VGMAXU`. -/
def groupSize (sub : Nat) : Nat :=
  match sub with
  | 0 => 8
  | 1 => 16
  | _ => 64

def execVgmaxu (x : Mod) (o : VV) (s : State) : Answer :=
  let a := rd s o.a
  let mask := maskOf s o
  let G := groupSize o.sub.toNat
  vOut x o s 4 (fun i =>
    let q := i / G
    BitVec.ofNat 32 (((List.range G).filter (fun j => laneOn mask (q * G + j))).foldl (fun m j => max m (lane a (q * G + j)).toNat) 0))

/-! ### FP32 lanes (R176 to R179) -/

def execFadd (x : Mod) (o : VV) (s : State) : Answer := fp2 x o s 4 1 fAdd
def execFsub (x : Mod) (o : VV) (s : State) : Answer := fp2 x o s 4 1 fSub
def execFmul (x : Mod) (o : VV) (s : State) : Answer := fp2 x o s 4 1 fMul
def execFma (x : Mod) (o : VV) (s : State) : Answer := fp3 x o s 4 1 (fun m t u => fFma m t u false false)
def execFms (x : Mod) (o : VV) (s : State) : Answer := fp3 x o s 4 1 (fun m t u => fFma m t u false true)
def execFnma (x : Mod) (o : VV) (s : State) : Answer := fp3 x o s 4 1 (fun m t u => fFma m t u true false)
def execFmin (x : Mod) (o : VV) (s : State) : Answer :=
  let a := rd s o.a
  let b := rd s o.b
  fpOut x o s 4 1 noDraw (fun _ _ _ i => fMinMax false (lane a i) (lane b i))
def execFmax (x : Mod) (o : VV) (s : State) : Answer :=
  let a := rd s o.a
  let b := rd s o.b
  fpOut x o s 4 1 noDraw (fun _ _ _ i => fMinMax true (lane a i) (lane b i))
def execFabs (x : Mod) (o : VV) (s : State) : Answer := lanes1 x o s 4 (fun a => a &&& 0x7FFFFFFF)
def execFneg (x : Mod) (o : VV) (s : State) : Answer := lanes1 x o s 4 (fun a => a ^^^ 0x80000000)

/-- Invalid of a compare lane (R177). -/
def cmpInvalid (cc : Nat) (a b : Val) : Bool := if cc < 2 then isSig a || isSig b else isNan a || isNan b

def execFcmp (x : Mod) (o : VV) (s : State) : Answer :=
  let a := rd s o.a
  let b := rd s o.b
  let cc := o.sub.toNat
  let nv := (lanes.filter (laneOn (maskOf s o))).any (fun i => cmpInvalid cc (val32 (lane a i)) (val32 (lane b i)))
  cmpOut x o s 4 (fun i => fpRel cc (val32 (lane a i)) (val32 (lane b i))) (flagsOf x { Fl.none with nv := nv })
def execFdiv (x : Mod) (o : VV) (s : State) : Answer := fp2 x o s 14 2 fDiv
def execFsqrt (x : Mod) (o : VV) (s : State) : Answer := fp1 x o s 14 2 fSqrt
def execFrcp (x : Mod) (o : VV) (s : State) : Answer :=
  let a := rd s o.a
  fpOut x o s 4 1 noDraw (fun _ t _ i => fRcp t (val32 (lane a i)))
def execFrsq (x : Mod) (o : VV) (s : State) : Answer :=
  let a := rd s o.a
  fpOut x o s 4 1 noDraw (fun _ t _ i => fRsq t (val32 (lane a i)))

/-! ### Conversions (R180) -/

/-- An integer as an exact value. -/
def intVal (v : Int) : Val := .num (v < 0) v.natAbs 0

def execCvtif (x : Mod) (o : VV) (s : State) : Answer :=
  let a := rd s o.a
  fpOut x o s 3 1 wasRounded (fun m _ u i =>
    roundVal fp32 m false u (intVal (if isU o then (lane a i).toNat else (lane a i).toInt)))
/-- An integer rounding drew: the operand was finite. -/
def finite32 (v : Unit32) : Bool := bits v.toNat 23 8 != 255

/-- Lanes whose draw depends on the operand, not the result. -/
def fpOutBy (x : Mod) (o : VV) (s : State) (due : Nat) (took : Nat → Bool) (f : Nat → Bool → Nat → Nat → Nat × Fl) : Answer :=
  let mode := modeOf s x
  let mask := maskOf s o
  let on := guardOn s x
  let r := (lanes.filter (laneOn mask)).foldl (fun (acc : FpAcc) i =>
    let q := roundOnce (mode == 6 && on) acc.rng (fun _ => took i) (fun u => f mode (satOf x) u i)
    { vals := acc.vals ++ [(i, q.1.1)], fl := acc.fl.or q.1.2, rng := q.2 }) { vals := [], fl := Fl.none, rng := (me s).srng.toNat }
  let s' := toLanes s on (dst s o.d) mask due 1 (clusterOf s) (flagsOf x r.fl) (accLane r)
  .next (if mode == 6 && on then setRng s' r.rng else s')

def execCvtfi (x : Mod) (o : VV) (s : State) : Answer :=
  let a := rd s o.a
  let lo : Int := if isU o then 0 else -(2 ^ 31)
  let hi : Int := if isU o then 2 ^ 32 - 1 else 2 ^ 31 - 1
  fpOutBy x o s 3 (fun i => finite32 (lane a i)) (fun m _ u i =>
    let r := toInt lo hi m u (val32 (lane a i))
    ((wrap32 r.1).toNat, r.2))
def execCvtfb (x : Mod) (o : VV) (s : State) : Answer :=
  let a := rd s o.a
  let old := rd s o.d
  fpOutBy x o s 3 (fun i => finite32 (lane a i)) (fun m t u i =>
    let r := toNarrow bf16 m t u (val32 (lane a i))
    let d := (lane old i).toNat
    (if isU o then r.1 * 2 ^ 16 + d % 2 ^ 16 else d / 2 ^ 16 * 2 ^ 16 + r.1, r.2))
def execCvtbf (x : Mod) (o : VV) (s : State) : Answer :=
  let a := rd s o.a
  fpOut x o s 3 1 noDraw (fun _ _ _ i =>
    let r := widenElem 2 (if isU o then (lane a i).toNat / 2 ^ 16 else (lane a i).toNat % 2 ^ 16)
    (r.1.toNat, r.2))

/-! ### Reductions (R181, R182) -/

def execVredadd (x : Mod) (o : VV) (s : State) : Answer :=
  let S := ((onLanes s o).map (fun v => v.toInt)).sum
  redOut x o s (wrap64 S) (if satOf x then sat32 S else wrap32 S) 0
def execVredmax (x : Mod) (o : VV) (s : State) : Answer :=
  let S := (onLanes s o).foldl (fun m v => max m v.toInt) (-(2 ^ 31))
  redOut x o s (wrap64 S) (wrap32 S) 0
def execVredmaxu (x : Mod) (o : VV) (s : State) : Answer :=
  let S := (onLanes s o).foldl (fun m v => max m v.toNat) 0
  redOut x o s (BitVec.ofNat 64 S) (BitVec.ofNat 32 S) 0
def execVredmin (x : Mod) (o : VV) (s : State) : Answer :=
  let S := (onLanes s o).foldl (fun m v => min m v.toInt) (2 ^ 31 - 1)
  redOut x o s (wrap64 S) (wrap32 S) 0
def execFredadd (x : Mod) (o : VV) (s : State) : Answer :=
  let a := rd s o.a
  let mask := maskOf s o
  let mode := modeOf s x
  let stoch := mode == 6 && guardOn s x
  let v := lanes.map (fun i => if laneOn mask i then (lane a i).toNat else 0)
  let t := tree64 (fun u p q => fAdd mode (satOf x) u (valueOf fp32 p) (valueOf fp32 q)) stoch v (me s).srng.toNat
  redOut x o (if stoch then setRng s t.2.2 else s) (BitVec.ofNat 64 t.1) (BitVec.ofNat 32 t.1) (flagsOf x t.2.1)
def execFredmax (x : Mod) (o : VV) (s : State) : Answer :=
  let a := rd s o.a
  let mask := maskOf s o
  let on := lanes.filter (laneOn mask)
  let v := lanes.map (fun i => if laneOn mask i then (lane a i).toNat else 0xFF800000)
  let t := tree64 (fun _ p q => fMinMax true (BitVec.ofNat 32 p) (BitVec.ofNat 32 q)) false v 0
  let r := if !on.isEmpty && on.all (fun i => isNan (val32 (lane a i))) then nan32 else t.1
  redOut x o s (BitVec.ofNat 64 r) (BitVec.ofNat 32 r) (flagsOf x t.2.1)

/-! ### Lane movement (R183 to R185) -/

def execVbcstG (x : Mod) (o : VV) (s : State) : Answer :=
  let v := (regG s (o.a.toNat % 64)).setWidth 32
  vOut x o s 2 (fun _ => v)
def execVbcstLane (x : Mod) (o : VV) (s : State) : Answer :=
  let v := lane (rd s o.a) (o.c.toNat % 64)
  vOut x o s 2 (fun _ => v)
def execVrotG (x : Mod) (o : VV) (s : State) : Answer :=
  let a := rd s o.a
  let n := (regG s (o.b.toNat % 64)).toNat % 64
  vOut x o s 2 (fun i => lane a ((i + n) % 64))
def execVrotImm (x : Mod) (o : VV) (s : State) : Answer :=
  let a := rd s o.a
  vOut x o s 2 (fun i => lane a ((i + o.c.toNat % 64) % 64))
def execVperm (x : Mod) (o : VV) (s : State) : Answer :=
  let a := rd s o.a
  let b := rd s o.b
  vOut x o s 2 (fun i => lane a ((lane b i).toNat % 64))
def execVcmpr (x : Mod) (o : VV) (s : State) : Answer :=
  let a := rd s o.a
  let on := lanes.filter (laneOn (maskOf s o))
  let written := if isU o then BitVec.ofNat 64 (2 ^ on.length - 1) else BitVec.allOnes 64
  .next (toLanes s (guardOn s x) (dst s o.d) written 2 1 (clusterOf s) 0 (fun j => match on[j]? with
    | some i => lane a i
    | none => 0))
def execViota (x : Mod) (o : VV) (s : State) : Answer :=
  let k := (regK s (o.b.toNat % 8)).toNat
  vOut x o s 2 (fun i => BitVec.ofNat 32 (popcount i k))
def execVmovs (x : Mod) (o : VV) (s : State) : Answer := lanes1 x o s 2 id
def execVins (x : Mod) (o : VV) (s : State) : Answer :=
  let v := (regG s (o.a.toNat % 64)).setWidth 32
  let j := o.c.toNat % 64
  .next (toLanes s (guardOn s x) (dst s o.d) (maskOf s o &&& BitVec.ofNat 64 (2 ^ j)) 2 1 (clusterOf s) 0 (fun _ => v))

/-! ### Mask registers (R186) -/

def execKand (x : Mod) (o : VV) (s : State) : Answer :=
  .next (toK s (guardOn s x) (o.d.toNat % 8) 1 (BitVec.allOnes 64) (regK s (o.a.toNat % 8) &&& regK s (o.b.toNat % 8)) 0)
def execKor (x : Mod) (o : VV) (s : State) : Answer :=
  .next (toK s (guardOn s x) (o.d.toNat % 8) 1 (BitVec.allOnes 64) (regK s (o.a.toNat % 8) ||| regK s (o.b.toNat % 8)) 0)
def execKnot (x : Mod) (o : VV) (s : State) : Answer :=
  .next (toK s (guardOn s x) (o.d.toNat % 8) 1 (BitVec.allOnes 64) (~~~regK s (o.a.toNat % 8)) 0)
def execKpopc (x : Mod) (o : VV) (s : State) : Answer :=
  .next (toG s (guardOn s x) (o.d.toNat % 64) 1 1 (BitVec.ofNat 64 (popcount 64 (regK s (o.a.toNat % 8)).toNat)))

/-! ### Cluster moves (R187 to R191) -/

/-- Source and destination operands of an XM or TF word by the cluster bits of sub. -/
def srcX (s : State) (o : VV) : MOp := matOp (me s) (bits o.sub.toNat 0 1) o.a
def dstX (s : State) (o : VV) : MOp := matOp (me s) (bits o.sub.toNat 1 1) o.d

def execMvx (x : Mod) (o : VV) (s : State) : Answer :=
  let a := readOp s (srcX s o)
  .next (toLanes s (guardOn s x) (dstX s o) (maskOf s o) 2 1 0 0 (lane a))
def execMvxm (x : Mod) (o : VV) (s : State) : Answer :=
  let n := o.c.toNat % 64 + 1
  let mask := maskOf s o
  let a := readOp s (srcX s o)
  let on := guardOn s x
  .next (push s { newFlight s (n + 1) with
    occ := n
    dests := (List.range n).flatMap (fun r => laneDests (advance (dstX s o) r) mask (r + 2))
    writes := if on then [(2, lanesOut (dstX s o) mask (lane a))] else []
    late := if on then .moveRows (srcX s o) (dstX s o) n mask else .none })
def execMvgr (x : Mod) (o : VV) (s : State) : Answer :=
  let v := lane (readOp s (srcX s o)) (o.c.toNat % 64)
  .next (toG s (guardOn s x) (o.d.toNat % 64) 2 1 (if bit o.sub.toNat 2 then v.signExtend 64 else v.setWidth 64))
def execMvkKm (x : Mod) (o : VV) (s : State) : Answer :=
  let a := readOp s (srcX s o)
  .next (toK s (guardOn s x) (o.d.toNat % 8) 2 (maskOf s o) (maskFrom (fun i => lane a i != 0)) 0)
def execMvkMk (x : Mod) (o : VV) (s : State) : Answer :=
  let k := regK s (o.a.toNat % 8)
  .next (toLanes s (guardOn s x) (dstX s o) (maskOf s o) 2 1 0 0 (fun i => allBits (laneOn k i)))
def execMvkGk (x : Mod) (o : VV) (s : State) : Answer :=
  .next (toG s (guardOn s x) (o.d.toNat % 64) 2 1 (regK s (o.a.toNat % 8)))
def execMvkKg (x : Mod) (o : VV) (s : State) : Answer :=
  .next (toK s (guardOn s x) (o.d.toNat % 8) 2 (maskOf s o) (regG s (o.a.toNat % 64)) 0)

end Sys2Proof.Machine
end

