-- ==== Sys2Proof/Machine/Dispatch.lean ====
section
/-! DEFINITION. One meaning for each constructor of Instr. -/
namespace Sys2Proof.Machine

def exec (i : Instr) (s : State) : Host.Outcome State Fault Refusal :=
  match i with
  | .nop => Sys2Proof.Machine.execNop s
  | .add x o => Sys2Proof.Machine.execAdd x o s
  | .sub x o => Sys2Proof.Machine.execSub x o s
  | .and x o => Sys2Proof.Machine.execAnd x o s
  | .or x o => Sys2Proof.Machine.execOr x o s
  | .xor x o => Sys2Proof.Machine.execXor x o s
  | .andn x o => Sys2Proof.Machine.execAndn x o s
  | .orn x o => Sys2Proof.Machine.execOrn x o s
  | .sel x o => Sys2Proof.Machine.execSel x o s
  | .shl x o => Sys2Proof.Machine.execShl x o s
  | .shr x o => Sys2Proof.Machine.execShr x o s
  | .sar x o => Sys2Proof.Machine.execSar x o s
  | .rol x o => Sys2Proof.Machine.execRol x o s
  | .min x o => Sys2Proof.Machine.execMin x o s
  | .max x o => Sys2Proof.Machine.execMax x o s
  | .minu x o => Sys2Proof.Machine.execMinu x o s
  | .maxu x o => Sys2Proof.Machine.execMaxu x o s
  | .absd x o => Sys2Proof.Machine.execAbsd x o s
  | .clz x o => Sys2Proof.Machine.execClz x o s
  | .ctz x o => Sys2Proof.Machine.execCtz x o s
  | .popc x o => Sys2Proof.Machine.execPopc x o s
  | .sext x o => Sys2Proof.Machine.execSext x o s
  | .zext x o => Sys2Proof.Machine.execZext x o s
  | .addi x o => Sys2Proof.Machine.execAddi x o s
  | .movi x o => Sys2Proof.Machine.execMovi x o s
  | .movh x o => Sys2Proof.Machine.execMovh x o s
  | .fshl x o => Sys2Proof.Machine.execFshl x o s
  | .fshr x o => Sys2Proof.Machine.execFshr x o s
  | .shadd x o => Sys2Proof.Machine.execShadd x o s
  | .bext x o => Sys2Proof.Machine.execBext x o s
  | .bins x o => Sys2Proof.Machine.execBins x o s
  | .cmpEq x o => Sys2Proof.Machine.execCmpEq x o s
  | .cmpNe x o => Sys2Proof.Machine.execCmpNe x o s
  | .cmpLt x o => Sys2Proof.Machine.execCmpLt x o s
  | .cmpLtu x o => Sys2Proof.Machine.execCmpLtu x o s
  | .cmpLe x o => Sys2Proof.Machine.execCmpLe x o s
  | .cmpLeu x o => Sys2Proof.Machine.execCmpLeu x o s
  | .cmpGt x o => Sys2Proof.Machine.execCmpGt x o s
  | .cmpGtu x o => Sys2Proof.Machine.execCmpGtu x o s
  | .cmpGe x o => Sys2Proof.Machine.execCmpGe x o s
  | .cmpGeu x o => Sys2Proof.Machine.execCmpGeu x o s
  | .cmpiEq x o => Sys2Proof.Machine.execCmpiEq x o s
  | .cmpiNe x o => Sys2Proof.Machine.execCmpiNe x o s
  | .cmpiLt x o => Sys2Proof.Machine.execCmpiLt x o s
  | .cmpiLtu x o => Sys2Proof.Machine.execCmpiLtu x o s
  | .cmpiLe x o => Sys2Proof.Machine.execCmpiLe x o s
  | .cmpiLeu x o => Sys2Proof.Machine.execCmpiLeu x o s
  | .cmpiGt x o => Sys2Proof.Machine.execCmpiGt x o s
  | .cmpiGtu x o => Sys2Proof.Machine.execCmpiGtu x o s
  | .cmpiGe x o => Sys2Proof.Machine.execCmpiGe x o s
  | .cmpiGeu x o => Sys2Proof.Machine.execCmpiGeu x o s
  | .mul x o => Sys2Proof.Machine.execMul x o s
  | .mulh x o => Sys2Proof.Machine.execMulh x o s
  | .mulhu x o => Sys2Proof.Machine.execMulhu x o s
  | .div x o => Sys2Proof.Machine.execDiv x o s
  | .divu x o => Sys2Proof.Machine.execDivu x o s
  | .rem x o => Sys2Proof.Machine.execRem x o s
  | .remu x o => Sys2Proof.Machine.execRemu x o s
  | .br x o => Sys2Proof.Machine.execBr x o s
  | .brc x o => Sys2Proof.Machine.execBrc x o s
  | .jmp x o => Sys2Proof.Machine.execJmp x o s
  | .call x o => Sys2Proof.Machine.execCall x o s
  | .callr x o => Sys2Proof.Machine.execCallr x o s
  | .ret x o => Sys2Proof.Machine.execRet x o s
  | .loop x o => Sys2Proof.Machine.execLoop x o s
  | .loopr x o => Sys2Proof.Machine.execLoopr x o s
  | .lexit x o => Sys2Proof.Machine.execLexit x o s
  | .pbt x o => Sys2Proof.Machine.execPbt x o s
  | .pbtReg x o => Sys2Proof.Machine.execPbtReg x o s
  | .bt x o => Sys2Proof.Machine.execBt x o s
  | .pand x o => Sys2Proof.Machine.execPand x o s
  | .por x o => Sys2Proof.Machine.execPor x o s
  | .pxor x o => Sys2Proof.Machine.execPxor x o s
  | .pnot x o => Sys2Proof.Machine.execPnot x o s
  | .pmov x o => Sys2Proof.Machine.execPmov x o s
  | .vadd x o => Sys2Proof.Machine.execVadd x o s
  | .vsub x o => Sys2Proof.Machine.execVsub x o s
  | .vmul x o => Sys2Proof.Machine.execVmul x o s
  | .vmulh x o => Sys2Proof.Machine.execVmulh x o s
  | .vmin x o => Sys2Proof.Machine.execVmin x o s
  | .vmax x o => Sys2Proof.Machine.execVmax x o s
  | .vminu x o => Sys2Proof.Machine.execVminu x o s
  | .vmaxu x o => Sys2Proof.Machine.execVmaxu x o s
  | .vabs x o => Sys2Proof.Machine.execVabs x o s
  | .vand x o => Sys2Proof.Machine.execVand x o s
  | .vor x o => Sys2Proof.Machine.execVor x o s
  | .vxor x o => Sys2Proof.Machine.execVxor x o s
  | .vshl x o => Sys2Proof.Machine.execVshl x o s
  | .vshr x o => Sys2Proof.Machine.execVshr x o s
  | .vsar x o => Sys2Proof.Machine.execVsar x o s
  | .vfshl x o => Sys2Proof.Machine.execVfshl x o s
  | .vfshr x o => Sys2Proof.Machine.execVfshr x o s
  | .vclz x o => Sys2Proof.Machine.execVclz x o s
  | .vpopc x o => Sys2Proof.Machine.execVpopc x o s
  | .vcmp x o => Sys2Proof.Machine.execVcmp x o s
  | .vsel x o => Sys2Proof.Machine.execVsel x o s
  | .vgmaxu x o => Sys2Proof.Machine.execVgmaxu x o s
  | .fadd x o => Sys2Proof.Machine.execFadd x o s
  | .fsub x o => Sys2Proof.Machine.execFsub x o s
  | .fmul x o => Sys2Proof.Machine.execFmul x o s
  | .fma x o => Sys2Proof.Machine.execFma x o s
  | .fms x o => Sys2Proof.Machine.execFms x o s
  | .fnma x o => Sys2Proof.Machine.execFnma x o s
  | .fmin x o => Sys2Proof.Machine.execFmin x o s
  | .fmax x o => Sys2Proof.Machine.execFmax x o s
  | .fabs x o => Sys2Proof.Machine.execFabs x o s
  | .fneg x o => Sys2Proof.Machine.execFneg x o s
  | .fcmp x o => Sys2Proof.Machine.execFcmp x o s
  | .fdiv x o => Sys2Proof.Machine.execFdiv x o s
  | .fsqrt x o => Sys2Proof.Machine.execFsqrt x o s
  | .frcp x o => Sys2Proof.Machine.execFrcp x o s
  | .frsq x o => Sys2Proof.Machine.execFrsq x o s
  | .cvtif x o => Sys2Proof.Machine.execCvtif x o s
  | .cvtfi x o => Sys2Proof.Machine.execCvtfi x o s
  | .cvtfb x o => Sys2Proof.Machine.execCvtfb x o s
  | .cvtbf x o => Sys2Proof.Machine.execCvtbf x o s
  | .vredadd x o => Sys2Proof.Machine.execVredadd x o s
  | .vredmax x o => Sys2Proof.Machine.execVredmax x o s
  | .vredmaxu x o => Sys2Proof.Machine.execVredmaxu x o s
  | .vredmin x o => Sys2Proof.Machine.execVredmin x o s
  | .fredadd x o => Sys2Proof.Machine.execFredadd x o s
  | .fredmax x o => Sys2Proof.Machine.execFredmax x o s
  | .vbcstG x o => Sys2Proof.Machine.execVbcstG x o s
  | .vbcstLane x o => Sys2Proof.Machine.execVbcstLane x o s
  | .vrotG x o => Sys2Proof.Machine.execVrotG x o s
  | .vrotImm x o => Sys2Proof.Machine.execVrotImm x o s
  | .vperm x o => Sys2Proof.Machine.execVperm x o s
  | .vcmpr x o => Sys2Proof.Machine.execVcmpr x o s
  | .viota x o => Sys2Proof.Machine.execViota x o s
  | .vmovs x o => Sys2Proof.Machine.execVmovs x o s
  | .vins x o => Sys2Proof.Machine.execVins x o s
  | .kand x o => Sys2Proof.Machine.execKand x o s
  | .kor x o => Sys2Proof.Machine.execKor x o s
  | .knot x o => Sys2Proof.Machine.execKnot x o s
  | .kpopc x o => Sys2Proof.Machine.execKpopc x o s
  | .mvx x o => Sys2Proof.Machine.execMvx x o s
  | .mvxm x o => Sys2Proof.Machine.execMvxm x o s
  | .mvgr x o => Sys2Proof.Machine.execMvgr x o s
  | .mvkKm x o => Sys2Proof.Machine.execMvkKm x o s
  | .mvkMk x o => Sys2Proof.Machine.execMvkMk x o s
  | .mvkGk x o => Sys2Proof.Machine.execMvkGk x o s
  | .mvkKg x o => Sys2Proof.Machine.execMvkKg x o s
  | .lds x o => Sys2Proof.Machine.execLds x o s
  | .sts x o => Sys2Proof.Machine.execSts x o s
  | .ldsv x o => Sys2Proof.Machine.execLdsv x o s
  | .stsv x o => Sys2Proof.Machine.execStsv x o s
  | .ldsvu x o => Sys2Proof.Machine.execLdsvu x o s
  | .stsvm x o => Sys2Proof.Machine.execStsvm x o s
  | .ldsx x o => Sys2Proof.Machine.execLdsx x o s
  | .stsx x o => Sys2Proof.Machine.execStsx x o s
  | .ldsm x o => Sys2Proof.Machine.execLdsm x o s
  | .stsm x o => Sys2Proof.Machine.execStsm x o s
  | .ldg x o => Sys2Proof.Machine.execLdg x o s
  | .stg x o => Sys2Proof.Machine.execStg x o s
  | .ldgv x o => Sys2Proof.Machine.execLdgv x o s
  | .stgv x o => Sys2Proof.Machine.execStgv x o s
  | .stgvm x o => Sys2Proof.Machine.execStgvm x o s
  | .pfg x o => Sys2Proof.Machine.execPfg x o s
  | .flg x o => Sys2Proof.Machine.execFlg x o s
  | .aadd x o => Sys2Proof.Machine.execAadd x o s
  | .afadd x o => Sys2Proof.Machine.execAfadd x o s
  | .amin x o => Sys2Proof.Machine.execAmin x o s
  | .amax x o => Sys2Proof.Machine.execAmax x o s
  | .aminu x o => Sys2Proof.Machine.execAminu x o s
  | .amaxu x o => Sys2Proof.Machine.execAmaxu x o s
  | .aand x o => Sys2Proof.Machine.execAand x o s
  | .aor x o => Sys2Proof.Machine.execAor x o s
  | .axor x o => Sys2Proof.Machine.execAxor x o s
  | .axchg x o => Sys2Proof.Machine.execAxchg x o s
  | .acas x o => Sys2Proof.Machine.execAcas x o s
  | .aradd x o => Sys2Proof.Machine.execAradd x o s
  | .xlt x o => Sys2Proof.Machine.execXlt x o s
  | .xltp x o => Sys2Proof.Machine.execXltp x o s
  | .xrel x o => Sys2Proof.Machine.execXrel x o s
  | .xinv x o => Sys2Proof.Machine.execXinv x o s
  | .xpose x o => Sys2Proof.Machine.execXpose x o s
  | .xcvt x o => Sys2Proof.Machine.execXcvt x o s
  | .xexp x o => Sys2Proof.Machine.execXexp x o s
  | .xpack x o => Sys2Proof.Machine.execXpack x o s
  | .xdec x o => Sys2Proof.Machine.execXdec x o s
  | .xdcfg x o => Sys2Proof.Machine.execXdcfg x o s
  | .xwiden x o => Sys2Proof.Machine.execXwiden x o s
  | .tcfg x o => Sys2Proof.Machine.execTcfg x o s
  | .tzero x o => Sys2Proof.Machine.execTzero x o s
  | .tfet x o => Sys2Proof.Machine.execTfet x o s
  | .trel x o => Sys2Proof.Machine.execTrel x o s
  | .mma x o => Sys2Proof.Machine.execMma x o s
  | .mmas x o => Sys2Proof.Machine.execMmas x o s
  | .mmac x o => Sys2Proof.Machine.execMmac x o s
  | .tld x o => Sys2Proof.Machine.execTld x o s
  | .tst x o => Sys2Proof.Machine.execTst x o s
  | .trowv x o => Sys2Proof.Machine.execTrowv x o s
  | .tvrow x o => Sys2Proof.Machine.execTvrow x o s
  | .agen x o => Sys2Proof.Machine.execAgen x o s
  | .aproj x o => Sys2Proof.Machine.execAproj x o s
  | .aseek x o => Sys2Proof.Machine.execAseek x o s
  | .tswap x o => Sys2Proof.Machine.execTswap x o s
  | .cpy x o => Sys2Proof.Machine.execCpy x o s
  | .cpyt x o => Sys2Proof.Machine.execCpyt x o s
  | .cfill x o => Sys2Proof.Machine.execCfill x o s
  | .ctwany x o => Sys2Proof.Machine.execCtwany x o s
  | .ctwall x o => Sys2Proof.Machine.execCtwall x o s
  | .ctffr x o => Sys2Proof.Machine.execCtffr x o s
  | .ctclr x o => Sys2Proof.Machine.execCtclr x o s
  | .semsig x o => Sys2Proof.Machine.execSemsig x o s
  | .semwait x o => Sys2Proof.Machine.execSemwait x o s
  | .semrd x o => Sys2Proof.Machine.execSemrd x o s
  | .semset x o => Sys2Proof.Machine.execSemset x o s
  | .screate x o => Sys2Proof.Machine.execScreate x o s
  | .satt x o => Sys2Proof.Machine.execSatt x o s
  | .sdet x o => Sys2Proof.Machine.execSdet x o s
  | .sfreeze x o => Sys2Proof.Machine.execSfreeze x o s
  | .sdrop x o => Sys2Proof.Machine.execSdrop x o s
  | .squery x o => Sys2Proof.Machine.execSquery x o s
  | .phase x o => Sys2Proof.Machine.execPhase x o s
  | .efence x o => Sys2Proof.Machine.execEfence x o s
  | .csrr x o => Sys2Proof.Machine.execCsrr x o s
  | .csrw x o => Sys2Proof.Machine.execCsrw x o s
  | .csrs x o => Sys2Proof.Machine.execCsrs x o s
  | .csrc x o => Sys2Proof.Machine.execCsrc x o s
  | .trap x o => Sys2Proof.Machine.execTrap x o s
  | .rfe x o => Sys2Proof.Machine.execRfe x o s
  | .idle x o => Sys2Proof.Machine.execIdle x o s
  | .wpset x o => Sys2Proof.Machine.execWpset x o s
  | .wpclr x o => Sys2Proof.Machine.execWpclr x o s
  | .logctlHw x o => Sys2Proof.Machine.execLogctlHw x o s
  | .logctlFlush x o => Sys2Proof.Machine.execLogctlFlush x o s
  | .logctlMark x o => Sys2Proof.Machine.execLogctlMark x o s
  | .logctlDrift x o => Sys2Proof.Machine.execLogctlDrift x o s
  | .halt x o => Sys2Proof.Machine.execHalt x o s
  | .dstop x o => Sys2Proof.Machine.execDstop x o s
  | .sstart x o => Sys2Proof.Machine.execSstart x o s
  | .lsend x o => Sys2Proof.Machine.execLsend x o s
  | .lrecv x o => Sys2Proof.Machine.execLrecv x o s
  | .lwait x o => Sys2Proof.Machine.execLwait x o s
  | .lclk x o => Sys2Proof.Machine.execLclk x o s
  | .powerOn => Sys2Proof.Machine.execPowerOn s
  | .functionTrained fn ok => Sys2Proof.Machine.execFunctionTrained fn ok s
  | .clockResync delta => Sys2Proof.Machine.execClockResync delta s
  | .powerClockStep up => Sys2Proof.Machine.execPowerClockStep up s
  | .thermalStepDown die => Sys2Proof.Machine.execThermalStepDown die s
  | .thermalShutdown die => Sys2Proof.Machine.execThermalShutdown die s
  | .lifetimeCounterFlush => Sys2Proof.Machine.execLifetimeCounterFlush s
  | .readiness source => Sys2Proof.Machine.execReadiness source s
  | .attest source nonce => Sys2Proof.Machine.execAttest source nonce s
  | .recordPut source record => Sys2Proof.Machine.execRecordPut source record s
  | .powerLimit source limit => Sys2Proof.Machine.execPowerLimit source limit s
  | .dataWrite r => Sys2Proof.Machine.execDataWrite r s
  | .tailWrite r => Sys2Proof.Machine.execTailWrite r s
  | .qcbFetchDone fetch bytes => Sys2Proof.Machine.execQcbFetchDone fetch bytes s
  | .qcbFetchTimeout fetch => Sys2Proof.Machine.execQcbFetchTimeout fetch s
  | .dataRead r => Sys2Proof.Machine.execDataRead r s
  | .chunkPut r => Sys2Proof.Machine.execChunkPut r s
  | .qcbInvalidate r => Sys2Proof.Machine.execQcbInvalidate r s
  | .controlWrite r => Sys2Proof.Machine.execControlWrite r s
  | .controlRead r => Sys2Proof.Machine.execControlRead r s
  | .give r => Sys2Proof.Machine.execGive r s
  | .take r => Sys2Proof.Machine.execTake r s
  | .map r => Sys2Proof.Machine.execMap r s
  | .unmap r => Sys2Proof.Machine.execUnmap r s
  | .refuse r => Sys2Proof.Machine.execRefuse r s
  | .noOperation pasid queue => Sys2Proof.Machine.execNoOperation pasid queue s
  | .launch pasid queue => Sys2Proof.Machine.execLaunch pasid queue s
  | .launchAdmit part => Sys2Proof.Machine.execLaunchAdmit part s
  | .slotLoad pasid queue => Sys2Proof.Machine.execSlotLoad pasid queue s
  | .slotRelease pasid queue => Sys2Proof.Machine.execSlotRelease pasid queue s
  | .slotReleaseDone slot => Sys2Proof.Machine.execSlotReleaseDone slot s
  | .slotRestore slot => Sys2Proof.Machine.execSlotRestore slot s
  | .kernelComplete part => Sys2Proof.Machine.execKernelComplete part s
  | .firmwareLinkMessage leaf down => Sys2Proof.Machine.execFirmwareLinkMessage leaf down s
  | .firmwareLinkError leaf => Sys2Proof.Machine.execFirmwareLinkError leaf s
  | .iterationAssign part => Sys2Proof.Machine.execIterationAssign part s
  | .patienceExpiry part => Sys2Proof.Machine.execPatienceExpiry part s
  | .segmentLoadDone core name => Sys2Proof.Machine.execSegmentLoadDone core name s
  | .bundleIssue core => Sys2Proof.Machine.execBundleIssue core s
  | .stillRewriteDone pasid page => Sys2Proof.Machine.execStillRewriteDone pasid page s
  | .codePageInDone pasid page => Sys2Proof.Machine.execCodePageInDone pasid page s
  | .pageReplace pasid page => Sys2Proof.Machine.execPageReplace pasid page s
  | .partitionStopFreeze part => Sys2Proof.Machine.execPartitionStopFreeze part s
  | .dumpResume part => Sys2Proof.Machine.execDumpResume part s
  | .dumpEndKernel part => Sys2Proof.Machine.execDumpEndKernel part s
  | .secondaryBubble core => Sys2Proof.Machine.execSecondaryBubble core s
  | .variableResultArrival core result => Sys2Proof.Machine.execVariableResultArrival core result s
  | .leafAnswer core bank => Sys2Proof.Machine.execLeafAnswer core bank s
  | .impreciseReportArrival id => Sys2Proof.Machine.execImpreciseReportArrival id s
  | .preemptRequest part => Sys2Proof.Machine.execPreemptRequest part s
  | .watchdogExpiry part => Sys2Proof.Machine.execWatchdogExpiry part s
  | .partitionResume part => Sys2Proof.Machine.execPartitionResume part s
  | .machineCheck src => Sys2Proof.Machine.execMachineCheck src s
  | .iterationRetire core bank => Sys2Proof.Machine.execIterationRetire core bank s
  | .secondaryEnd core => Sys2Proof.Machine.execSecondaryEnd core s
  | .epochClose part => Sys2Proof.Machine.execEpochClose part s
  | .atomicPerform id => Sys2Proof.Machine.execAtomicPerform id s
  | .commandStart core id => Sys2Proof.Machine.execCommandStart core id s
  | .commandComplete core id => Sys2Proof.Machine.execCommandComplete core id s
  | .remoteSignalArrival id => Sys2Proof.Machine.execRemoteSignalArrival id s
  | .peerCopyArrival endpoint sender tag core offset bytes => Sys2Proof.Machine.execPeerCopyArrival endpoint sender tag core offset bytes s
  | .peerSignalArrival endpoint tag far core sem inc => Sys2Proof.Machine.execPeerSignalArrival endpoint tag far core sem inc s
  | .linkDeparture core id => Sys2Proof.Machine.execLinkDeparture core id s
  | .flitArrival port ch index count bytes => Sys2Proof.Machine.execFlitArrival port ch index count bytes s
  | .linkReceiveMiss core id => Sys2Proof.Machine.execLinkReceiveMiss core id s
  | .fmodeWrite ctx v => Sys2Proof.Machine.execFmodeWrite ctx v s
  | .srngWrite ctx v => Sys2Proof.Machine.execSrngWrite ctx v s
  | .skeyWrite ctx n v => Sys2Proof.Machine.execSkeyWrite ctx n v s
  | .formatWindowWrite ctx n v => Sys2Proof.Machine.execFormatWindowWrite ctx n v s
  | .logCsrWrite ctx n v => Sys2Proof.Machine.execLogCsrWrite ctx n v s
  | .csrWrite ctx n v => Sys2Proof.Machine.execCsrWrite ctx n v s
  | .lossOfSupply => Sys2Proof.Machine.execLossOfSupply s

end Sys2Proof.Machine
end

