-- ==== Sys2Proof/Machine/Happen.lean ====
section
/-! DEFINITION. A step of the device happens: the meaning that `exec` gives its row of the opcode table. -/
namespace Sys2Proof.Machine

/-- The effect of a device step. -/
def happen (e : Event) (s : State) : Answer :=
  match e with
  | .powerOn => execPowerOn s
  | .functionTrained fn ok => execFunctionTrained fn ok s
  | .clockResync delta => execClockResync delta s
  | .powerClockStep up => execPowerClockStep up s
  | .thermalStepDown die => execThermalStepDown die s
  | .thermalShutdown die => execThermalShutdown die s
  | .lifetimeCounterFlush => execLifetimeCounterFlush s
  | .readiness source => execReadiness source s
  | .attest source nonce => execAttest source nonce s
  | .recordPut source record => execRecordPut source record s
  | .powerLimit source limit => execPowerLimit source limit s
  | .otherManagement source => otherManagement source s
  | .dataWrite r => execDataWrite r s
  | .tailWrite r => execTailWrite r s
  | .qcbFetchDone fetch bytes => execQcbFetchDone fetch bytes s
  | .qcbFetchTimeout fetch => execQcbFetchTimeout fetch s
  | .dataRead r => execDataRead r s
  | .chunkPut r => execChunkPut r s
  | .qcbInvalidate r => execQcbInvalidate r s
  | .controlWrite r => execControlWrite r s
  | .controlRead r => execControlRead r s
  | .give r => execGive r s
  | .take r => execTake r s
  | .map r => execMap r s
  | .unmap r => execUnmap r s
  | .refuse r => execRefuse r s
  | .noOperation pasid queue => execNoOperation pasid queue s
  | .launch pasid queue => execLaunch pasid queue s
  | .launchAdmit part => execLaunchAdmit part s
  | .slotLoad pasid queue => execSlotLoad pasid queue s
  | .slotRelease pasid queue => execSlotRelease pasid queue s
  | .slotReleaseDone slot => execSlotReleaseDone slot s
  | .slotRestore slot => execSlotRestore slot s
  | .kernelComplete part => execKernelComplete part s
  | .firmwareLinkMessage leaf down => execFirmwareLinkMessage leaf down s
  | .firmwareLinkError leaf => execFirmwareLinkError leaf s
  | .iterationAssign part => execIterationAssign part s
  | .patienceExpiry part => execPatienceExpiry part s
  | .segmentLoadDone core name => execSegmentLoadDone core name s
  | .bundleIssue core => execBundleIssue core s
  | .stillRewriteDone pasid page => execStillRewriteDone pasid page s
  | .codePageInDone pasid page => execCodePageInDone pasid page s
  | .pageReplace pasid page => execPageReplace pasid page s
  | .partitionStopFreeze part => execPartitionStopFreeze part s
  | .dumpResume part => execDumpResume part s
  | .dumpEndKernel part => execDumpEndKernel part s
  | .secondaryBubble core => execSecondaryBubble core s
  | .variableResultArrival core result => execVariableResultArrival core result s
  | .leafAnswer core bank => execLeafAnswer core bank s
  | .impreciseReportArrival id => execImpreciseReportArrival id s
  | .preemptRequest part => execPreemptRequest part s
  | .watchdogExpiry part => execWatchdogExpiry part s
  | .partitionResume part => execPartitionResume part s
  | .machineCheck src => execMachineCheck src s
  | .iterationRetire core bank => execIterationRetire core bank s
  | .secondaryEnd core => execSecondaryEnd core s
  | .epochClose part => execEpochClose part s
  | .atomicPerform id => execAtomicPerform id s
  | .commandStart core id => execCommandStart core id s
  | .commandComplete core id => execCommandComplete core id s
  | .remoteSignalArrival id => execRemoteSignalArrival id s
  | .peerCopyArrival endpoint sender tag core offset bytes => execPeerCopyArrival endpoint sender tag core offset bytes s
  | .peerSignalArrival endpoint tag far core sem inc => execPeerSignalArrival endpoint tag far core sem inc s
  | .linkDeparture core id => execLinkDeparture core id s
  | .flitArrival port ch index count bytes => execFlitArrival port ch index count bytes s
  | .linkReceiveMiss core id => execLinkReceiveMiss core id s
  | .fmodeWrite ctx v => execFmodeWrite ctx v s
  | .srngWrite ctx v => execSrngWrite ctx v s
  | .skeyWrite ctx n v => execSkeyWrite ctx n v s
  | .formatWindowWrite ctx n v => execFormatWindowWrite ctx n v s
  | .logCsrWrite ctx n v => execLogCsrWrite ctx n v s
  | .csrWrite ctx n v => execCsrWrite ctx n v s
  | .lossOfSupply => execLossOfSupply s

end Sys2Proof.Machine
end

