-- ==== Sys2Proof/Machine/Schedule.lean ====
section
/-! DEFINITION. Which step of the device comes next: the steps that are due at once, and those that may come now (log entry 7). What comes
from outside (requests, peers, flits, clock and power orders, errors, pre-emption) stands in the schedule of the state only. -/
namespace Sys2Proof.Machine

/-- A list with one entry under a condition. -/
def whenever {α : Type} (c : Bool) (a : α) : List α := if c then [a] else []

/-- The event of a request, by its operation (R26). -/
def requestEvent (r : Req) : Event :=
  match r.op.toNat with
  | 0x01 => .dataWrite r
  | 0x02 => .tailWrite r
  | 0x03 => .dataRead r
  | 0x04 => .chunkPut r
  | 0x05 => .qcbInvalidate r
  | 0x06 => .controlWrite r
  | 0x07 => .controlRead r
  | 0x08 => .give r
  | 0x09 => .take r
  | 0x0A => .map r
  | 0x0B => .unmap r
  | _ => .refuse r

/-- The arrival record of a peer's arrival that is held (R379). -/
def peerWord (e : Event) : Word :=
  match e with
  | .peerCopyArrival endpoint _ tag _ _ _ => arrivalWord 1 endpoint tag
  | .peerSignalArrival endpoint tag _ _ _ _ => arrivalWord 2 endpoint tag
  | _ => 0

/-- The partitions with registers, and the cores that exist. -/
def partsOf (s : State) : List Nat := s.parts.map (fun e => e.1)

/-- The head of a kernel's iterations may be assigned now, has yet to be chosen, or diverges in replay (R53 to R55, R381). -/
def assignDue (s : State) (part : Nat) : Bool :=
  match headOf s part with
  | none => false
  | some (k, o) => k.patience.isNone || (k.replay && directed s part o == .diverged) || (placedNow s part k o).isSome

/-- The head's patience is to end, or has ended and a core is free for it (R54, steps 3 and 4). -/
def patienceOver (s : State) (part : Nat) : Bool :=
  match headOf s part with
  | none => false
  | some (k, o) =>
    !k.replay && !k.ordered && (patienceEnds s part k o || (k.patience == some 0 && (bestCore s part (namesOf k.recBytes o)).isSome))

/-- What a partition must do now. -/
def partDue (s : State) (part : Nat) : List Event :=
  let halt := (partAt s part).halt
  let stopped := match halt with
    | .stopped _ _ told => told
    | _ => false
  let edge := match halt with
    | .stopping g _ _ _ => g + 200 ≤ s.gclk
    | _ => false
  whenever (closesEpoch s part) (.epochClose part) ++ whenever edge (.partitionStopFreeze part)
    ++ whenever (stopped && dumpCommand s part == 1) (.dumpResume part) ++ whenever (stopped && dumpCommand s part == 2) (.dumpEndKernel part)
    ++ whenever (assignDue s part) (.iterationAssign part) ++ whenever (patienceOver s part) (.patienceExpiry part)

/-- What a core must do now. -/
def coreDue (s : State) (core : Nat) (c : Core) : List Event :=
  whenever (4096 ≤ c.collide && !c.bubble) (.secondaryBubble core)
    ++ (c.cmds.filter (linkStarts s core)).map (fun d => .commandStart core d.id)
    ++ (c.cmds.filter (sendDue s)).map (fun d => .linkDeparture core d.id)
    ++ (c.cmds.filter (receiveMissed s)).map (fun d => .linkReceiveMiss core d.id)

/-- Steps that happen before anything else, in order. -/
def dueEvents (s : State) : List Event :=
  whenever (s.powered && s.boot == .off) .powerOn
    ++ (attended s).toList.map requestEvent ++ s.peers.filter (fun e => arrivalLets s (peerWord e))
    ++ (partsOf s).flatMap (partDue s) ++ (s.flying.filter (reportDue s)).map (fun f => .impreciseReportArrival f.id)
    ++ s.cores.flatMap (fun e => coreDue s e.1 e.2) ++ whenever (mustSlow s) (.powerClockStep false)

/-- The command at the head of a queue, by its kind (R37). -/
def queueOpen (s : State) (q : Qcb) : List Event :=
  match nextCommand s q.pasid q.queue with
  | none => whenever (slotChanged s q.pasid q.queue).isSome (.launch q.pasid q.queue)
  | some (_, b) =>
    match cmdKind b with
    | 0 => [.noOperation q.pasid q.queue]
    | 2 => [.slotLoad q.pasid q.queue]
    | 3 => [.slotRelease q.pasid q.queue]
    | _ => [.launch q.pasid q.queue]

/-- What the scheduler and the leaves may do for a partition. -/
def partOpen (s : State) (part : Nat) : List Event :=
  let p := partAt s part
  whenever (partIdle s part && clustersReady s part && !untakenLaunch s part && (admitted s part).isSome) (.launchAdmit part)
    ++ (match p.kernel with
      | none => []
      | some k => whenever (kernelDone s part k || kernelGone s part k) (.kernelComplete part))
    ++ whenever (beingPreempted s part && !allAside s part && requestsReturn s part) (.watchdogExpiry part)

/-- What a model slot waits for. -/
def slotOpen (s : State) (n : Nat) (m : ModelSlot) : List Event :=
  whenever (m.state == .releasing && !slotRuns s n) (.slotReleaseDone n) ++ whenever (m.state == .restoring) (.slotRestore n)

/-- What may come for a context. -/
def ctxOpen (s : State) (core bank : Nat) (x : Ctx) : List Event :=
  (match x.life with
  | .parked (.still entry) => [.stillRewriteDone x.pasid (entry.toNat / 4096 * 4096)]
  | .parked _ => [.leafAnswer core bank]
  | .ending => whenever (!x.swapped && !(coreAt s core).frozen) (if bank == 2 then .secondaryEnd core else .iterationRetire core bank)
  | _ => match x.ask with
    | .waiting _ => [.leafAnswer core bank]
    | _ => [])
  ++ (x.flights.filter (mayArrive s core)).map (fun f => .variableResultArrival core f.id)

/-- What may come on a core. -/
def coreOpen (s : State) (core : Nat) (c : Core) : List Event :=
  ctxOpen s core 0 c.b0 ++ ctxOpen s core 1 c.b1 ++ ctxOpen s core 2 c.sec
    ++ (c.dir.filter (fun d => d.state == .loading && loadReached s core d)).map (fun d => .segmentLoadDone core d.name)
    ++ (c.cmds.filter (fun d => mayStart s core d && (!d.acq || engineTurn s core d.tag))).map (fun d => .commandStart core d.id)
    ++ (c.cmds.filter (fun d => cmdDone d && cmdReached s core d && !signalWaits s core d && (!(d.rel && d.started) || engineTurn s core d.tag))).map
      (fun d => .commandComplete core d.id)

/-- Code pages that are being paged in, and pending changes of pages (R70, R83). -/
def pageOpen (s : State) (c : CodePage) : List Event :=
  whenever (!c.present) (.codePageInDone c.pasid c.va)
    ++ whenever ((c.next.isSome || reclaimable c) && !pageUsed s c.pasid c.va) (.pageReplace c.pasid c.va)

/-- Messages on the firmware links, and functions still in training (R42, R395). -/
def linkOpen (e : Nat × FwLink) : List Event :=
  whenever (!e.2.down.sent.isEmpty) (.firmwareLinkMessage e.1 true) ++ whenever (!e.2.up.sent.isEmpty) (.firmwareLinkMessage e.1 false)

/-- The next stage of a bring-up that has begun (R395). -/
def bootOpen (s : State) : Bool :=
  match s.boot with
  | .starting _ => s.powered
  | _ => false

def trainOpen (s : State) (fn : Nat) : List Event := whenever (trainable s fn) (.functionTrained fn (Config.pick s.free fn % 2 == 0))

/-- Steps of the device that may come now, in any order. -/
def openEvents (s : State) : List Event :=
  whenever (bootOpen s) .powerOn ++ (List.range 53).flatMap (trainOpen s) ++ s.links.flatMap linkOpen ++ s.sched.cache.flatMap (queueOpen s)
    ++ (partsOf s).flatMap (partOpen s) ++ s.slots.flatMap (fun e => slotOpen s e.1 e.2) ++ s.code.flatMap (pageOpen s)
    ++ s.cores.flatMap (fun e => coreOpen s e.1 e.2) ++ (s.atomics.filter (mayPerform s)).map (fun a => .atomicPerform a.id)
    ++ (s.signals.filter (signalReady s)).map (fun g => .remoteSignalArrival g.id)
    ++ s.flying.map (fun f => .impreciseReportArrival f.id)

/-- The step that comes: the first that is due, otherwise one of those that may come or the turn of the next core, by a free choice. -/
def chosen (s : State) (due may : List Event) : Event :=
  match due with
  | i :: _ => i
  | [] =>
    match may with
    | [] => .bundleIssue s.turn
    | _ => ((may ++ [.bundleIssue s.turn])[Config.choose s.free % (may.length + 1)]?).getD (.bundleIssue s.turn)

/-- A step of the device that issues no bundle is over. -/
def afterEvent (s : State) : State := { s with free := s.free + 1 }

/-! ### Placing one instruction -/

/-- The units of a page that holds one bundle with a bare instruction word `v` of a slot; the word 3 is the empty bundle itself. -/
def bundleUnits (v : Nat) : List Nat :=
  if v == 3 then [3]
  else
    let long := bits v 0 2 == 1
    let slot := match slotTaking long v allSlots with
      | some n => slotNum n
      | none => 0
    let body := if long then [v % 2 ^ 32, v / 2 ^ 32 % 2 ^ 32] else [v % 2 ^ 32]
    pack [(2, 3), (3, 0), (6, body.length), (16, 2 ^ slot), (5, 0)] :: body

/-- Tag of the page that a bundle with one instruction needs: neutral for those that a Gelxis page may not hold (R104). -/
def tagFor (v : Nat) : Nat :=
  match (slotTaking (bits v 0 2 == 1) v allSlots).bind (fun n => (decodeWord n allFeatures none (bits v 0 2 == 1) v).toOption) with
  | some (.rfe _ _) | some (.bt _ _) | some (.pbt _ _) => 0
  | _ => 0x31

/-- The bytes of a page with one bundle: its units, and a trailer without anchors (R66). -/
def pageOf (v : Nat) : Memory :=
  let us := bundleUnits v
  let m := pokes [] 0 (us.flatMap (bytesOf 4))
  let m := pokeNat m 3840 4 0x47503951
  pokeNat (pokeNat m 3844 1 (tagFor v)) 3848 2 (4 * us.length)

/-- The page where `placeWord` puts its bundle. -/
def placePage : Nat := 0x10000

/-- An instruction placed where core 0 issues next. -/
def placeWord (s : State) (v : Nat) : State :=
  let page : CodePage := { pasid := (ctxAt s 0 0).pasid, va := placePage, src := .native 0, present := true, checked := true,
                           bytes := pageOf v, next := none }
  let s := modCtx s 0 0 (fun x =>
    { x with life := .ready, swapped := false,
             seq := { page := placePage, off := 0, home := placePage, pend := none, loops := [], entering := false, crossing := false } })
  let c := coreAt s 0
  { setCore s 0 { c with active := 0, hold := 0, frozen := false, bubble := false } with
    boot := .running, conf := { s.conf with features := allFeatures }, turn := 0, issued := false
    code := page :: s.code.filter (fun e => e.va != placePage), agenda := [.bundleIssue 0] }

end Sys2Proof.Machine
end

