-- ==== Sys2Proof/Machine/Step.lean ====
section
/-! DEFINITION. One step of the device (log entry 7): the next entry of the schedule, a step that is due, or one of those that may come now;
after a `BUNDLE_ISSUE` the latched bundle runs. -/
namespace Sys2Proof.Machine

/-- One device step happens, and the bundle it latched runs. -/
def perform (e : Event) (s : State) : Host.Outcome State Fault Refusal :=
  match happen e s with
  | .next t => if t.issued then runCycle exec s t else .next (afterEvent t)
  | a => a

/-- The step that comes next when the schedule is empty. -/
def nextEvent (s : State) : Event := chosen s (dueEvents s) (openEvents s)

/-- One step. -/
def step (s : State) : Host.Outcome State Fault Refusal :=
  match s.agenda with
  | e :: r => perform e { s with agenda := r }
  | [] => if s.powered then perform (nextEvent s) s else .fault .poweredOff

/-- The state with an instruction, whose bits are numbered as the opcode table numbers them, placed where the next step fetches: core 0, bank 0
is about to issue the bundle at offset 0 of a page that holds the instruction alone, and the schedule lets core 0 issue (log entry 7). -/
def State.withFetchWord (s : State) (nbits w : Nat) : State := placeWord s (w % 2 ^ nbits)

end Sys2Proof.Machine
end

