-- ==== Sys2Proof/Safety.lean ====
section
/-! DEFINITION. The terms in which claims are stated: a context that finds nothing in flight, its registers as it holds them, what the state is
once results have landed, and what stays within bounds in every step. -/
namespace Sys2Proof.Machine

/-! ### What a context holds -/

/-- g[n] as the acting context holds it; g0 is zero (R139). -/
def heldG (s : State) (n : Nat) : Word := if n = 0 then 0 else tgetD (me s).g n 0

/-- p[n] as the acting context holds it; p0 is true (R139). -/
def heldP (s : State) (n : Nat) : Bool := if n = 0 then true else tgetD (me s).p n false

/-- k[n] as the acting context holds it; k0 is all ones (R139). -/
def heldK (s : State) (n : Nat) : Word := if n = 0 then BitVec.allOnes 64 else tgetD (me s).k n 0

/-- h[n] as the acting context holds it. -/
def heldH (s : State) (n : Nat) : Word128 := tgetD (me s).h n 0

/-- Lane `i` of a matrix operand as the acting context holds it (R140 to R142). -/
def heldLane (s : State) (o : MOp) (i : Nat) : Unit32 := storedEl (me s) o.file (laneEl o i)

/-- The guard of an instruction (R97). -/
def guardHeld (s : State) (x : Mod) : Bool := heldP s x.pred.toNat != x.neg

/-! ### Changes of a context -/

/-- g[n] takes a value; a write to g0 is discarded (R139). -/
def setG (n : Nat) (v : Word) (c : Ctx) : Ctx := if n = 0 then c else { c with g := tset c.g n v }

/-- p[n] takes a value; a write to p0 is discarded (R139). -/
def setP (n : Nat) (v : Bool) (c : Ctx) : Ctx := if n = 0 then c else { c with p := tset c.p n v }

/-- The bits of `mask` of k[n] take those of a value; a write to k0 is discarded (R139). -/
def setK (n : Nat) (mask v : Word) (c : Ctx) : Ctx :=
  if n = 0 then c else { c with k := tset c.k n ((tgetD c.k n 0 &&& ~~~mask) ||| (v &&& mask)) }

/-- h[n] takes a value. -/
def setH (n : Nat) (v : Word128) (c : Ctx) : Ctx := { c with h := tset c.h n v }

/-- The lanes of a matrix operand that are on in a mask take values, the highest lane last (R140). -/
def setLanes (o : MOp) (mask : Word) (v : Nat → Unit32) (c : Ctx) : Ctx :=
  { c with m := (lanes.filter (laneOn mask)).foldl (fun m i => tset m (elKey o.file (laneEl o i)) (v i)) c.m }

/-- Flags of a group are raised (R247). -/
def setFlags (group flags : Nat) (c : Ctx) : Ctx := { c with fflags := raise c.fflags group flags }

/-- A change that only happens when `on`. -/
def when_ (on : Bool) (f : Ctx → Ctx) : Ctx → Ctx := if on then f else id

/-! ### Results that land -/

/-- The acting context is one of the three of its core, and nothing of the core is in flight. -/
def Quiet (s : State) : Prop := s.cur.bank < 3 ∧ ∀ b, b < 3 → (ctxAt s s.cur.core b).flights = []

/-- No byte of the core's scratchpad is in a window in which a reader may find an old or a new value (R268, R289, R326). -/
def SpSettled (s : State) : Prop := altBytes s s.cur.core s.cur.bank 0 = []

/-- `n` cycles of a core's pipelines in which the results of one bank advance (R133). -/
def settle (n : Nat) (s : State) (core bank : Nat) : State :=
  match n with
  | 0 => s
  | n + 1 => settle n (tickCore s core (fun b _ => b == bank)) core bank

/-- The state `n` cycles after the acting context put its result in flight. -/
def after (n : Nat) (s : State) : State := settle n s s.cur.core s.cur.bank

/-- An instruction answers a next state which, after `n` cycles, is `u` of the state before it, the model's count of results put in flight one
higher. -/
def SettlesTo (i : Instr) (s : State) (n : Nat) (u : State → State) : Prop :=
  ∃ t, exec i s = .next t ∧ after n t = u { s with nextId := s.nextId + 1 }

/-- An instruction answers a next state in which, after `n` cycles, the acting context has changed by `f` and nothing else of the whole state
has. -/
def LandsAs (i : Instr) (s : State) (n : Nat) (f : Ctx → Ctx) : Prop := SettlesTo i s n (fun s => modMe s f)

/-- An instruction answers a next state that meets `P`. -/
def Answers (i : Instr) (s : State) (P : State → Prop) : Prop := ∃ t, exec i s = .next t ∧ P t

/-! ### What every step keeps -/

/-- What every step keeps: the turn stays with a core that exists (R44), the arithmetic clock between 1.0 GHz and 3.0 GHz (R398), and every memory in its
canonical form: what device memory held first, and every scratchpad. -/
def State.Inv (s : State) : Prop := s.turn < 96 ∧ s.clockStep ≤ 20 ∧ s.first.wf = true ∧ ∀ core, (coreAt s core).sp.wf = true

end Sys2Proof.Machine
end

