-- ==== Sys2Proof/Certificates/Slice0/Obligations.lean ====
section
/-! DEFINITION. The statements about the model, each a proposition with a name that says what it states. The tables in front of them give, for each
instruction of one shape, the value the spec gives its result. -/

namespace Sys2Proof.Claims
open Sys2Proof Sys2Proof.Machine

/-- A step of the device answers this next state. -/
def Becomes (i : Instr) (s t : State) : Prop := exec i s = .next t

/-! ### Scalar results (R148 to R152) -/

/-- `fin` of R148 on an exact integer: clamped to the signed 64-bit range under sat, otherwise wrapped. -/
def finOf (x : Mod) (v : Int) : Word :=
  if satOf x then BitVec.ofInt 64 (max (-(2 ^ 63)) (min v (2 ^ 63 - 1))) else BitVec.ofInt 64 v

/-- A scalar result: guard, destination, the cycle it is due, its value. -/
structure ScalarOut where
  on  : Bool
  d   : Nat
  due : Nat
  v   : Word

/-- A register form of R149 on the values of its operands. -/
def registerValue (x : Mod) (n : Nat) (a b : Word) : Instr → Option Word
  | .add _ _ => some (finOf x (a.toInt + b.toInt))
  | .sub _ _ => some (finOf x (a.toInt - b.toInt))
  | .and _ _ => some (a &&& b)
  | .or _ _ => some (a ||| b)
  | .xor _ _ => some (a ^^^ b)
  | .andn _ _ => some (a &&& ~~~b)
  | .orn _ _ => some (a ||| ~~~b)
  | .shl _ _ => some (BitVec.ofNat 64 (a.toNat * 2 ^ (b.toNat % 64)))
  | .shr _ _ => some (BitVec.ofNat 64 (a.toNat / 2 ^ (b.toNat % 64)))
  | .sar _ _ => some (BitVec.ofInt 64 (a.toInt / 2 ^ (b.toNat % 64)))
  | .rol _ _ => some ((a <<< (b.toNat % 64)) ||| (a >>> (64 - b.toNat % 64)))
  | .min _ _ => some (BitVec.ofInt 64 (min a.toInt b.toInt))
  | .max _ _ => some (BitVec.ofInt 64 (max a.toInt b.toInt))
  | .minu _ _ => some (BitVec.ofNat 64 (min a.toNat b.toNat))
  | .maxu _ _ => some (BitVec.ofNat 64 (max a.toNat b.toNat))
  | .absd _ _ => some (BitVec.ofNat 64 (a.toInt - b.toInt).natAbs)
  | .clz _ _ => some (BitVec.ofNat 64 (if a = 0 then 64 else 63 - Nat.log2 a.toNat))
  | .ctz _ _ => some (BitVec.ofNat 64 (((List.range 64).find? (fun i => a.getLsbD i)).getD 64))
  | .popc _ _ => some (BitVec.ofNat 64 ((List.range 64).filter (fun i => a.getLsbD i)).length)
  | .sext _ _ => some ((a.setWidth (n + 1)).signExtend 64)
  | .zext _ _ => some ((a.setWidth (n + 1)).setWidth 64)
  | _ => none

/-- The word of a register form. -/
def registerForm : Instr → Option (Mod × SR)
  | .add x o => some (x, o) | .sub x o => some (x, o) | .and x o => some (x, o) | .or x o => some (x, o)
  | .xor x o => some (x, o) | .andn x o => some (x, o) | .orn x o => some (x, o) | .shl x o => some (x, o)
  | .shr x o => some (x, o) | .sar x o => some (x, o) | .rol x o => some (x, o) | .min x o => some (x, o)
  | .max x o => some (x, o) | .minu x o => some (x, o) | .maxu x o => some (x, o) | .absd x o => some (x, o)
  | .clz x o => some (x, o) | .ctz x o => some (x, o) | .popc x o => some (x, o) | .sext x o => some (x, o)
  | .zext x o => some (x, o)
  | _ => none

/-- An immediate form of R150 on the values of its operands; `v` is the immediate extended as R148 says. -/
def immediateValue (s : State) (x : Mod) (imm : BitVec 32) (v : Int) (a b : Word) : Instr → Option Word
  | .addi _ _ => some (finOf x (a.toInt + b.toInt + v))
  | .movi _ _ => some (BitVec.ofInt 64 v)
  | .movh _ _ => some (imm ++ a.setWidth 32)
  | .shadd _ _ => some (finOf x (a.toInt * 2 ^ (imm.toNat % 8) + b.toInt))
  | .bext _ _ =>
    let len := imm.toNat / 2 ^ 8 % 64 + 1
    let f := (a >>> (imm.toNat % 64)).setWidth len
    some (if imm.getLsbD 16 then f.signExtend 64 else f.setWidth 64)
  | .bins _ _ =>
    let pos := imm.toNat % 64
    let m := min (imm.toNat / 2 ^ 8 % 64 + 1) (64 - pos)
    some (BitVec.ofNat 64 (b.toNat - (b.toNat / 2 ^ pos % 2 ^ m) * 2 ^ pos + (a.toNat % 2 ^ m) * 2 ^ pos))
  | .fshl _ _ => some (((a ++ b) <<< amount).extractLsb' 64 64)
  | .fshr _ _ => some (((a ++ b) >>> amount).setWidth 64)
  | _ => none
where
  /-- The amount of a funnel shift: bits [5:0], or under bit 6 the low six bits of a third register. -/
  amount : Nat := if imm.getLsbD 6 then (heldG s (imm.toNat / 2 ^ 8 % 64)).toNat % 64 else imm.toNat % 64

/-- The word of an immediate form. -/
def immediateForm : Instr → Option (Mod × SI)
  | .addi x o => some (x, o) | .movi x o => some (x, o) | .movh x o => some (x, o) | .shadd x o => some (x, o)
  | .bext x o => some (x, o) | .bins x o => some (x, o) | .fshl x o => some (x, o) | .fshr x o => some (x, o)
  | _ => none

/-- The instructions of R152: due cycle and value. -/
def multiplyValue (a b : Word) : Instr → Option (Nat × Word)
  | .mul _ _ => some (3, a * b)
  | .mulh _ _ => some (3, BitVec.ofInt 64 (a.toInt * b.toInt / 2 ^ 64))
  | .mulhu _ _ => some (3, BitVec.ofNat 64 (a.toNat * b.toNat / 2 ^ 64))
  | .div _ _ => some (14, if b = 0 then BitVec.allOnes 64 else a.sdiv b)
  | .divu _ _ => some (14, if b = 0 then BitVec.allOnes 64 else a / b)
  | .rem _ _ => some (14, if b = 0 then a else a.srem b)
  | .remu _ _ => some (14, if b = 0 then a else a % b)
  | _ => none

/-- The word of a multiply or divide. -/
def multiplyForm : Instr → Option (Mod × SR)
  | .mul x o => some (x, o) | .mulh x o => some (x, o) | .mulhu x o => some (x, o) | .div x o => some (x, o)
  | .divu x o => some (x, o) | .rem x o => some (x, o) | .remu x o => some (x, o)
  | _ => none

/-- A relation of R151 between two words: signed for eq, ne, lt, le, gt, ge, unsigned for ltu, leu, gtu, geu. -/
def relation (a b : Word) : Instr → Option Bool
  | .cmpEq _ _ | .cmpiEq _ _ => some (a == b)
  | .cmpNe _ _ | .cmpiNe _ _ => some (a != b)
  | .cmpLt _ _ | .cmpiLt _ _ => some (decide (a.toInt < b.toInt))
  | .cmpLtu _ _ | .cmpiLtu _ _ => some (decide (a.toNat < b.toNat))
  | .cmpLe _ _ | .cmpiLe _ _ => some (decide (a.toInt ≤ b.toInt))
  | .cmpLeu _ _ | .cmpiLeu _ _ => some (decide (a.toNat ≤ b.toNat))
  | .cmpGt _ _ | .cmpiGt _ _ => some (decide (a.toInt > b.toInt))
  | .cmpGtu _ _ | .cmpiGtu _ _ => some (decide (a.toNat > b.toNat))
  | .cmpGe _ _ | .cmpiGe _ _ => some (decide (a.toInt ≥ b.toInt))
  | .cmpGeu _ _ | .cmpiGeu _ _ => some (decide (a.toNat ≥ b.toNat))
  | _ => none

/-- Prefix and guard, destination field and the two values of a compare of R151. -/
def compareForm (s : State) : Instr → Option (Mod × BitVec 6 × Word × Word)
  | .cmpEq x o | .cmpNe x o | .cmpLt x o | .cmpLtu x o | .cmpLe x o | .cmpLeu x o | .cmpGt x o | .cmpGtu x o
  | .cmpGe x o | .cmpGeu x o => some (x, o.d, heldG s o.a.toNat, heldG s o.b.toNat)
  | .cmpiEq x o | .cmpiNe x o | .cmpiLt x o | .cmpiLtu x o | .cmpiLe x o | .cmpiLeu x o | .cmpiGt x o | .cmpiGtu x o
  | .cmpiGe x o | .cmpiGeu x o => some (x, o.d, heldG s o.a.toNat, BitVec.ofInt 64 (immExt x 32 o.imm.toNat))
  | _ => none

/-- The predicate logic of R165: the word and the value of its result. -/
def predicateValue (s : State) : Instr → Option (Mod × SR × Bool)
  | .pand x o => some (x, o, heldP s o.a.toNat && heldP s o.b.toNat)
  | .por x o => some (x, o, heldP s o.a.toNat || heldP s o.b.toNat)
  | .pxor x o => some (x, o, xor (heldP s o.a.toNat) (heldP s o.b.toNat))
  | .pnot x o => some (x, o, !heldP s o.a.toNat)
  | .pmov x o => some (x, o, heldP s o.a.toNat)
  | _ => none

end Sys2Proof.Claims

open Sys2Proof Sys2Proof.Machine Sys2Proof.Claims

/-- R149: a register form writes its result, and nothing else, to g[d], due 1 and under its guard; `CLZ`, `CTZ` and `POPC` have b = 0. -/
def Obligations.RegisterFormsCompute : Prop :=
  (∀ (s : State) (i : Instr) (x : Mod) (o : SR) (v : Word), Quiet s → registerForm i = some (x, o) →
    registerValue x o.b.toNat (heldG s o.a.toNat) (heldG s o.b.toNat) i = some v →
    LandsAs i s 1 (when_ (guardHeld s x) (setG o.d.toNat v)))
  ∧ ∀ (x : Mod) (o : SR), Instr.WellFormed (.clz x o) ∨ Instr.WellFormed (.ctz x o) ∨ Instr.WellFormed (.popc x o) → o.b = 0

/-- R150: an immediate form writes its result, and nothing else, to g[d], due 1 and under its guard. -/
def Obligations.ImmediateFormsCompute : Prop :=
  ∀ (s : State) (i : Instr) (x : Mod) (o : SI) (v : Word), Quiet s → immediateForm i = some (x, o) →
    immediateValue s x o.imm (immExt x 32 o.imm.toNat) (heldG s o.a.toNat) (heldG s o.b.toNat) i = some v →
    LandsAs i s 1 (when_ (guardHeld s x) (setG o.d.toNat v))

/-- R152: a multiply or divide writes its result, and nothing else, to g[d], due 3 or 14 and under its guard. -/
def Obligations.MultiplyAndDivideCompute : Prop :=
  ∀ (s : State) (i : Instr) (x : Mod) (o : SR) (due : Nat) (v : Word), Quiet s → multiplyForm i = some (x, o) →
    multiplyValue (heldG s o.a.toNat) (heldG s o.b.toNat) i = some (due, v) →
    LandsAs i s due (when_ (guardHeld s x) (setG o.d.toNat v))

/-- R151: `SEL` always writes the operand its predicate selects; a compare writes its relation to p[d] under its guard; in a compare the upper two
bits of d are reserved; the four encodings of the rule decode to their instructions. -/
def Obligations.SelectAndCompare : Prop :=
  (∀ (s : State) (x : Mod) (o : SR), Quiet s →
    LandsAs (.sel x o) s 1 (setG o.d.toNat (if guardHeld s x then heldG s o.a.toNat else heldG s o.b.toNat)))
  ∧ (∀ (s : State) (i : Instr) (x : Mod) (d : BitVec 6) (a b : Word) (r : Bool), Quiet s → i.WellFormed →
    compareForm s i = some (x, d, a, b) → relation a b i = some r →
    d.toNat < 16 ∧ LandsAs i s 1 (when_ (guardHeld s x) (setP d.toNat r)))
  ∧ (let on : Mod := { pfx := none, neg := false, pred := 0 }
     (decode .s0 allFeatures [0x00000022, 0x00204300]).toOption =
       some (.add { on with pfx := some { ext := 0, nfl := false, sat := true, rnd := 0 } } { d := 3, a := 1, b := 2 })
     ∧ (decode .s0 allFeatures [0x4840C71C]).toOption = some (.sel { on with neg := true, pred := 2 } { d := 7, a := 3, b := 4 })
     ∧ (decode .s0 allFeatures [0x000142C9, 0xFFFFFFF9]).toOption = some (.cmpiLt on { d := 2, a := 5, b := 0, imm := 0xFFFFFFF9 })
     ∧ (decode .s0 allFeatures [0x00010979, 0x0000130C]).toOption = some (.bext on { d := 9, a := 4, b := 0, imm := 0x0000130C }))

/-- R165: the predicate instructions write their result to p[d], unguarded; the upper bits of their fields, pred and neg are zero, and `PNOT` and
`PMOV` have b = 0; their words are 32 bits long and stand in the BR slot alone, as those of control instructions do, and a pending branch or a loop
changes nothing in their effect. -/
def Obligations.PredicateLogic : Prop :=
  (∀ (s : State) (i : Instr) (x : Mod) (o : SR) (v : Bool), Quiet s → i.WellFormed → predicateValue s i = some (x, o, v) →
    o.d.toNat < 16 ∧ o.a.toNat < 16 ∧ o.b.toNat < 16 ∧ x.pred = 0 ∧ x.neg = false ∧ (∃ w, wordOf i = some (.branch, false, w))
    ∧ LandsAs i s 1 (setP o.d.toNat v))
  ∧ allSlots.filter (fun n => tableOf n == .branch) = [.br]
  ∧ ∀ (x : Mod) (o : SR), Instr.WellFormed (.pnot x o) ∨ Instr.WellFormed (.pmov x o) → o.b = 0

namespace Sys2Proof.Claims

/-! ### Transfers and loops (R137, R138, R154 to R164) -/

/-- A branch of R156: whether it is taken, and the resolution of its target with the kinds it accepts. -/
def branchOf (s : State) : Instr → Option (Bool × Except BadTarget Word)
  | .br _ o => some (true, withLoopStart s (checkTarget s (me s).pasid s.cur.home o.page o.anchor.toNat) [0, 1])
  | .brc x o => some (guardHeld s x, withLoopStart s (checkTarget s (me s).pasid s.cur.home o.page o.anchor.toNat) [0, 1])
  | .jmp x o => some (guardHeld s x, checkPointer s (me s).pasid (heldG s o.a.toNat) [0, 1])
  | .ret _ o => some (true, checkPointer s (me s).pasid (heldG s o.a.toNat) [2])
  | _ => none

/-- A call of R156: its link register, its return point, and the resolution of its target. -/
def callOf (s : State) : Instr → Option (Nat × Nat × Except BadTarget Word)
  | .call _ o => some (o.d.toNat, o.aux.toNat, checkTarget s (me s).pasid s.cur.home o.page o.anchor.toNat [0, 1])
  | .callr _ o => some (o.d.toNat, o.b.toNat, checkPointer s (me s).pasid (heldG s o.a.toNat) [0, 1])
  | _ => none

/-- A prepare-to-branch of R163: its register and the resolution of its target. -/
def prepareOf (s : State) : Instr → Option (Nat × Except BadTarget Word)
  | .pbt _ o => some (o.d.toNat % 4, checkTarget s (me s).pasid s.cur.home o.page o.anchor.toNat [0, 1, 3])
  | .pbtReg _ o => some (o.d.toNat % 4, checkPointer s (me s).pasid (heldG s o.anchor.toNat) [0, 1, 2])
  | _ => none

/-- A loop instruction of R157: its count and the length of its body. -/
def loopOf (s : State) : Instr → Option (Nat × Nat)
  | .loop _ o => some (o.page.toNat * 64 + o.anchor.toNat, o.aux.toNat + 1)
  | .loopr _ o => some ((heldG s o.a.toNat).toNat, o.b.toNat + 1)
  | _ => none

/-- A transfer with delay bundles may stand here: no pending branch (R137), a Gelxis page (R138), its delay bundles in the page (R72). -/
def MayTransfer (s : State) : Prop :=
  s.cur.pend0 = none ∧ s.cur.gelxis = true
    ∧ bundlesFit (curBytes s) (pageLength (curBytes s)) 2 (s.cur.off + s.cur.size) = true

/-- The bundle is not one of the last three of a pinned body (R161). -/
def NotNearEnd (s : State) : Prop := ∀ e ∈ (me s).seq.loops, s.cur.off < skipBundles (curBytes s) e.start (e.len - 3)

/-- A loop of `n` bundles may stand here (R158). -/
def MayLoop (s : State) (n : Nat) : Prop :=
  let m := curBytes s
  let next := s.cur.off + s.cur.size
  s.cur.pend0 = none ∧ (me s).seq.loops.length < 6 ∧ bundlesFit m (pageLength m) n next = true
    ∧ ∀ e ∈ (me s).seq.loops, skipBundles m next n ≤ skipBundles m e.start (e.len - 1)

/-- The context takes a precise trap at its bundle with none of its effects (R346, R351): cause, slot and `tval`, the bundle's address in `epc`, and
every register as it was. -/
def TrapsAt (i : Instr) (s : State) (cause : Nat) (tval : Word) : Prop :=
  Answers i s (fun t => t.cur.out = .trapped
    ∧ (me t).tcause = BitVec.ofNat 64 (cause + 256 * (s.cur.slot % 32)) ∧ (me t).tval = tval
    ∧ (me t).epc = BitVec.ofNat 64 (s.cur.page + s.cur.off) ∧ (me t).ehome = BitVec.ofNat 64 s.cur.home
    ∧ (me t).g = (me s).g ∧ (me t).p = (me s).p ∧ (me t).k = (me s).k ∧ (me t).h = (me s).h ∧ (me t).bt = (me s).bt
    ∧ (me t).m = (me s).m ∧ (me t).tiles = (me s).tiles ∧ (me t).fflags = (me s).fflags)

/-- Nothing of the context is on its way: no result in flight, no atomic at a home slice. -/
def Settled (s : State) : Prop := Quiet s ∧ atomicsOf s s.cur.core s.cur.bank = []

/-- Whether a control instruction of this chapter is out of place (R166): in a delay bundle, in the wrong kind of page, with delay bundles that
reach past the page, near the end of a pinned body, a call within a body, or a loop instruction under R158. -/
def OutOfPlace (s : State) : Instr → Prop
  | .br _ _ | .brc _ _ | .jmp _ _ | .ret _ _ => ¬ (MayTransfer s ∧ NotNearEnd s)
  | .call _ _ | .callr _ _ => ¬ (MayTransfer s ∧ (me s).seq.loops = [])
  | .loop _ o => ¬ MayLoop s (o.aux.toNat + 1)
  | .loopr _ o => ¬ MayLoop s (o.b.toNat + 1)
  | .lexit x _ => s.cur.pend0.isSome ∨ (guardHeld s x ∧ (me s).seq.loops = [])
  | .pbt _ _ | .pbtReg _ _ | .bt _ _ => ¬ (s.cur.pend0 = none ∧ s.cur.gelxis = false)
  | _ => False

end Sys2Proof.Claims

/-- R154, R23, R68, R70: an encoded target whose page is out of canonical form is refused with 0x06; one in an unmapped page with 0x0A; one that names no
anchor of an accepted kind of a page whose trailer is held with 0x06 and its pointer; one whose anchor lies in an annex that is not there or is malformed with
0x0A or 0x01 and that annex; otherwise it is the code pointer of page and anchor. -/
def Obligations.TargetResolution : Prop :=
  ∀ (s : State) (pasid home : Nat) (page : BitVec 20) (id : Nat) (kinds : List Nat), id < 64 →
    let va := BitVec.ofInt 64 (home + page.toInt * 4096)
    let r := checkTarget s pasid home page id kinds
    (canonical va = false → r = .error ⟨0x06, va⟩)
    ∧ (canonical va → va.toNat ≠ endPage → codePage s pasid va.toNat = none → ∃ t, r = .error ⟨0x0A, t⟩)
    ∧ (∀ c, canonical va → va.toNat ≠ endPage → codePage s pasid va.toNat = some c → c.present → c.checked = false → isBlf c = false →
        trailerOk s pasid c false = false → r = .error ⟨0x01, va⟩)
    ∧ (∀ c, canonical va → va.toNat ≠ endPage → codePage s pasid va.toNat = some c → c.present → isBlf c = false →
        bit (pageFlags c.bytes) 0 = false → (c.checked ∨ trailerOk s pasid c false) →
        (¬ (id < pageAnchors c.bytes ∧ anchorKind c.bytes id ∈ kinds) → r = .error ⟨0x06, va + BitVec.ofNat 64 (id * 64)⟩)
        ∧ (id < pageAnchors c.bytes → anchorKind c.bytes id ∈ kinds →
            let target := BitVec.ofNat 64 (va.toNat + 64 * id)
            (anchorWord c.bytes id < 960 → r = .ok target)
            ∧ ∀ p off, anchorPlace s pasid c (anchorWord c.bytes id) = some (p, off) → p.va ≠ c.va →
                (p.present = false → r = .error ⟨0x0A, BitVec.ofNat 64 (p.va + 0xFFF)⟩)
                ∧ (p.present → annexOk s pasid p = false → r = .error ⟨0x01, BitVec.ofNat 64 p.va⟩)
                ∧ (p.present → annexOk s pasid p → r = .ok target)))

/-- R155, R156, R137: where it may stand, a branch that is not taken has no effect, and one that is taken to a target that resolves leaves that target
pending behind two delay bundles, and nothing else. -/
def Obligations.BranchesPend : Prop :=
  ∀ (s : State) (i : Instr) (on : Bool) (r : Except BadTarget Word), Quiet s → MayTransfer s → NotNearEnd s → branchOf s i = some (on, r) →
    (on = false → LandsAs i s 1 id)
    ∧ ∀ p, on = true → r = .ok p → LandsAs i s 1 (fun c => { c with seq := { c.seq with pend := some ⟨p, 2⟩ } })

/-- R156: where it may stand, a call to a target that resolves leaves it pending behind two delay bundles and writes the code pointer of its return
point, a return-point anchor of the home page, to g[d], due 1. -/
def Obligations.CallsLink : Prop :=
  ∀ (s : State) (i : Instr) (d back : Nat) (p : Word) (c : CodePage), Quiet s → MayTransfer s → (me s).seq.loops = [] →
    callOf s i = some (d, back, .ok p) → codePage s (me s).pasid s.cur.home = some c → kindOf c back = some 2 →
    LandsAs i s 1 (fun x => setG d (BitVec.ofNat 64 (s.cur.home + back * 64)) { x with seq := { x.seq with pend := some ⟨p, 2⟩ } })

/-- R157, R160: where R158 allows it, a loop instruction with count 0 goes on after its body, and with a greater count up to 2^26 - 1 pushes index 0, its
count, its start and its length. Outside delay bundles a `LEXIT` with a false guard has no effect, and with a true guard pops the top entry and goes on
after its body. -/
def Obligations.LoopsStartAndExit : Prop :=
  (∀ (s : State) (i : Instr) (count n : Nat), Quiet s → MayLoop s n → loopOf s i = some (count, n) →
     (count = 0 → SettlesTo i s 1 (fun u =>
       let v := modMe u (fun c => { c with seq := { c.seq with off := skipBundles (curBytes s) (s.cur.off + s.cur.size) n } })
       { v with cur := { v.cur with moved := true } }))
     ∧ (0 < count → count < 2 ^ 26 → LandsAs i s 1 (fun c =>
         { c with seq := { c.seq with loops := ⟨0, count, s.cur.off + s.cur.size, n⟩ :: c.seq.loops } })))
  ∧ (∀ (s : State) (x : Mod) (o : SR), Quiet s → s.cur.pend0 = none →
       (guardHeld s x = false → LandsAs (.lexit x o) s 1 id)
       ∧ ∀ e r, guardHeld s x = true → (me s).seq.loops = e :: r → SettlesTo (.lexit x o) s 1 (fun u =>
           let v := modMe u (fun c => { c with seq := { c.seq with loops := r, off := skipBundles (curBytes s) e.start e.len } })
           { v with cur := { v.cur with moved := true } }))

/-- R159, R144: after the last bundle of the top body, with no branch pending and control not moved, the pass below the count goes back to the start of
the body with its index one higher and both bases one lower modulo 64, and the last pass pops the entry. -/
def Obligations.LoopBackRotates : Prop :=
  ∀ (s : State) (e : LoopEntry) (r : List LoopEntry), s.cur.pend0 = none → s.cur.moved = false → (me s).seq.loops = e :: r →
    (s.cur.off ≠ skipBundles (curBytes s) e.start (e.len - 1) → sequence s = s)
    ∧ (s.cur.off = skipBundles (curBytes s) e.start (e.len - 1) →
        sequence s = modMe s (fun c =>
          if e.index + 1 < e.count then
            { c with rba := (c.rba + 63) % 64, rbb := (c.rbb + 63) % 64,
                     seq := { c.seq with off := e.start, loops := { e with index := e.index + 1 } :: r } }
          else { c with seq := { c.seq with loops := r } }))

/-- R163, R164: in a neutral page and outside delay bundles, a `PBT` with a target that resolves writes it to its bt register; a `BT` with a false guard
has no effect, and one with a true guard passes control at once to the place that its register's pointer names now. -/
def Obligations.PrepareAndTransfer : Prop :=
  (∀ (s : State) (i : Instr) (n : Nat) (p : Word), Quiet s → s.cur.pend0 = none → s.cur.gelxis = false → prepareOf s i = some (n, .ok p) →
    LandsAs i s 1 (fun c => { c with bt := tset c.bt n p }))
  ∧ ∀ (s : State) (x : Mod) (o : SR), Quiet s → s.cur.pend0 = none → s.cur.gelxis = false →
    (guardHeld s x = false → LandsAs (.bt x o) s 1 id)
    ∧ ∀ p, guardHeld s x = true → regBt s (o.a.toNat % 4) ≠ 0 →
        withLoopStart s (checkPointer s (me s).pasid (regBt s (o.a.toNat % 4))) [0, 1, 2] = .ok p →
        SettlesTo (.bt x o) s 1 (fun u => { goTo u p with cur := { u.cur with moved := true } })

/-- R166, R158, R164: a control instruction out of its place traps with 0x03, a `LOOPR` count above 2^26 - 1 with 0x03 and the count, and a `BT` whose
register holds zero with 0x06, precisely and without effect. -/
def Obligations.ControlOutOfPlaceTraps : Prop :=
  (∀ (s : State) (i : Instr), Settled s → OutOfPlace s i → TrapsAt i s 0x03 0)
  ∧ (∀ (s : State) (x : Mod) (o : SR), Settled s → MayLoop s (o.b.toNat + 1) → 2 ^ 26 ≤ (heldG s o.a.toNat).toNat →
      TrapsAt (.loopr x o) s 0x03 (heldG s o.a.toNat))
  ∧ ∀ (s : State) (x : Mod) (o : SR), Settled s → s.cur.pend0 = none → s.cur.gelxis = false → guardHeld s x = true →
      regBt s (o.a.toNat % 4) = 0 → TrapsAt (.bt x o) s 0x06 0

namespace Sys2Proof.Claims

/-! ### Vector results (R167 to R191) -/

/-- Lane `i` of an operand field of a VA or VB word (R99). -/
def laneOf (s : State) (f : BitVec 10) (i : Nat) : Unit32 := heldLane s (matOp (me s) (clusterOf s) f) i

/-- The lane mask of a VV word. -/
def maskHeld (s : State) (o : VV) : Word := heldK s o.k.toNat

/-- The destination of a VA or VB word. -/
def destOf (s : State) (o : VV) : MOp := matOp (me s) (clusterOf s) o.d

/-- An integer clamped to a range. -/
def clampInt (lo hi v : Int) : Unit32 := BitVec.ofInt 32 (max lo (min v hi))

/-- A lane sum or difference of R172: wrapped, or under sat clamped to the signed or with `.u` the unsigned range. -/
def sumLane (x : Mod) (o : VV) (sign : Int) (a b : Unit32) : Unit32 :=
  if !satOf x then BitVec.ofInt 32 (a.toInt + sign * b.toInt)
  else if o.sub.getLsbD 0 then clampInt 0 (2 ^ 32 - 1) (a.toNat + sign * b.toNat)
  else clampInt (-(2 ^ 31)) (2 ^ 31 - 1) (a.toInt + sign * b.toInt)

/-- The lane-wise instructions without flags (R172 to R175, R178, R183 to R185): word, due cycle, and lane `i` of the result. -/
def laneResult (s : State) : Instr → Option (Mod × VV × Nat × (Nat → Unit32))
  | .vadd x o => some (x, o, 2, fun i => sumLane x o 1 (laneOf s o.a i) (laneOf s o.b i))
  | .vsub x o => some (x, o, 2, fun i => sumLane x o (-1) (laneOf s o.a i) (laneOf s o.b i))
  | .vmul x o => some (x, o, 2, fun i => laneOf s o.a i * laneOf s o.b i)
  | .vmulh x o => some (x, o, 2, fun i =>
      if o.sub.getLsbD 0 then BitVec.ofNat 32 ((laneOf s o.a i).toNat * (laneOf s o.b i).toNat / 2 ^ 32)
      else BitVec.ofInt 32 ((laneOf s o.a i).toInt * (laneOf s o.b i).toInt / 2 ^ 32))
  | .vmin x o => some (x, o, 2, fun i => BitVec.ofInt 32 (min (laneOf s o.a i).toInt (laneOf s o.b i).toInt))
  | .vmax x o => some (x, o, 2, fun i => BitVec.ofInt 32 (max (laneOf s o.a i).toInt (laneOf s o.b i).toInt))
  | .vminu x o => some (x, o, 2, fun i => BitVec.ofNat 32 (min (laneOf s o.a i).toNat (laneOf s o.b i).toNat))
  | .vmaxu x o => some (x, o, 2, fun i => BitVec.ofNat 32 (max (laneOf s o.a i).toNat (laneOf s o.b i).toNat))
  | .vabs x o => some (x, o, 2, fun i =>
      if satOf x then clampInt (-(2 ^ 31)) (2 ^ 31 - 1) (laneOf s o.a i).toInt.natAbs else BitVec.ofInt 32 (laneOf s o.a i).toInt.natAbs)
  | .vand x o => some (x, o, 2, fun i => laneOf s o.a i &&& laneOf s o.b i)
  | .vor x o => some (x, o, 2, fun i => laneOf s o.a i ||| laneOf s o.b i)
  | .vxor x o => some (x, o, 2, fun i => laneOf s o.a i ^^^ laneOf s o.b i)
  | .vshl x o => some (x, o, 2, fun i => BitVec.ofNat 32 ((laneOf s o.a i).toNat * 2 ^ ((laneOf s o.b i).toNat % 32)))
  | .vshr x o => some (x, o, 2, fun i => BitVec.ofNat 32 ((laneOf s o.a i).toNat / 2 ^ ((laneOf s o.b i).toNat % 32)))
  | .vsar x o => some (x, o, 2, fun i => BitVec.ofInt 32 ((laneOf s o.a i).toInt / 2 ^ ((laneOf s o.b i).toNat % 32)))
  | .vfshl x o => some (x, o, 2, fun i =>
      ((laneOf s o.a i ++ laneOf s o.b i) <<< ((laneOf s o.c i).toNat % 64)).extractLsb' 32 32)
  | .vfshr x o => some (x, o, 2, fun i => ((laneOf s o.a i ++ laneOf s o.b i) >>> ((laneOf s o.c i).toNat % 64)).setWidth 32)
  | .vclz x o => some (x, o, 2, fun i =>
      BitVec.ofNat 32 (if laneOf s o.a i = 0 then 32 else 31 - Nat.log2 (laneOf s o.a i).toNat))
  | .vpopc x o => some (x, o, 2, fun i =>
      BitVec.ofNat 32 ((List.range 32).filter (fun j => (laneOf s o.a i).getLsbD j)).length)
  | .vsel x o => some (x, o, 2, fun i =>
      if (heldK s (o.c.toNat % 8)).getLsbD i then laneOf s o.a i else laneOf s o.b i)
  | .vgmaxu x o => some (x, o, 4, fun i =>
      let G := if o.sub = 0 then 8 else if o.sub = 1 then 16 else 64
      BitVec.ofNat 32 ((((List.range 64).filter (fun j => j / G == i / G && (maskHeld s o).getLsbD j)).map
        (fun j => (laneOf s o.a j).toNat)).foldl max 0))
  | .fabs x o => some (x, o, 4, fun i => laneOf s o.a i &&& 0x7FFFFFFF)
  | .fneg x o => some (x, o, 4, fun i => laneOf s o.a i ^^^ 0x80000000)
  | .vbcstG x o => some (x, o, 2, fun _ => (heldG s (o.a.toNat % 64)).setWidth 32)
  | .vbcstLane x o => some (x, o, 2, fun _ => laneOf s o.a (o.c.toNat % 64))
  | .vrotG x o => some (x, o, 2, fun i => laneOf s o.a ((i + (heldG s (o.b.toNat % 64)).toNat) % 64))
  | .vrotImm x o => some (x, o, 2, fun i => laneOf s o.a ((i + o.c.toNat) % 64))
  | .vperm x o => some (x, o, 2, fun i => laneOf s o.a ((laneOf s o.b i).toNat % 64))
  | .viota x o => some (x, o, 2, fun i =>
      BitVec.ofNat 32 ((List.range i).filter (fun j => (heldK s (o.b.toNat % 8)).getLsbD j)).length)
  | .vmovs x o => some (x, o, 2, fun i => laneOf s o.a i)
  | _ => none

/-- An FP32 instruction: its word, the cycle it is due, whether a lane's rounding drew, and a lane's code and flags from mode, sat, draw and lane. -/
structure FpForm where
  x    : Mod
  o    : VV
  due  : Nat
  took : Nat → Nat × Fl → Bool
  f    : Nat → Bool → Nat → Nat → Nat × Fl

/-- The FP32 instructions and conversions of R176 to R180. -/
def fpForm (s : State) : Instr → Option FpForm
  | .fadd x o => some ⟨x, o, 4, fun _ => wasRounded, fun m t u i => fAdd m t u (A o i) (B o i)⟩
  | .fsub x o => some ⟨x, o, 4, fun _ => wasRounded, fun m t u i => fSub m t u (A o i) (B o i)⟩
  | .fmul x o => some ⟨x, o, 4, fun _ => wasRounded, fun m t u i => fMul m t u (A o i) (B o i)⟩
  | .fma x o => some ⟨x, o, 4, fun _ => wasRounded, fun m t u i => fFma m t u false false (A o i) (B o i) (C o i)⟩
  | .fms x o => some ⟨x, o, 4, fun _ => wasRounded, fun m t u i => fFma m t u false true (A o i) (B o i) (C o i)⟩
  | .fnma x o => some ⟨x, o, 4, fun _ => wasRounded, fun m t u i => fFma m t u true false (A o i) (B o i) (C o i)⟩
  | .fmin x o => some ⟨x, o, 4, fun _ => noDraw, fun _ _ _ i => fMinMax false (laneOf s o.a i) (laneOf s o.b i)⟩
  | .fmax x o => some ⟨x, o, 4, fun _ => noDraw, fun _ _ _ i => fMinMax true (laneOf s o.a i) (laneOf s o.b i)⟩
  | .fdiv x o => some ⟨x, o, 14, fun _ => wasRounded, fun m t u i => fDiv m t u (A o i) (B o i)⟩
  | .fsqrt x o => some ⟨x, o, 14, fun _ => wasRounded, fun m t u i => fSqrt m t u (A o i)⟩
  | .frcp x o => some ⟨x, o, 4, fun _ => noDraw, fun _ t _ i => fRcp t (A o i)⟩
  | .frsq x o => some ⟨x, o, 4, fun _ => noDraw, fun _ t _ i => fRsq t (A o i)⟩
  | .cvtif x o => some ⟨x, o, 3, fun _ => wasRounded, fun m _ u i =>
      roundVal fp32 m false u (intVal (if o.sub.getLsbD 0 then (laneOf s o.a i).toNat else (laneOf s o.a i).toInt))⟩
  | .cvtfi x o => some ⟨x, o, 3, fun i _ => finite32 (laneOf s o.a i), fun m _ u i =>
      let r := if o.sub.getLsbD 0 then toInt 0 (2 ^ 32 - 1) m u (A o i) else toInt (-(2 ^ 31)) (2 ^ 31 - 1) m u (A o i)
      ((BitVec.ofInt 32 r.1).toNat, r.2)⟩
  | .cvtfb x o => some ⟨x, o, 3, fun i _ => finite32 (laneOf s o.a i), fun m t u i =>
      let r := toNarrow bf16 m t u (A o i)
      let d := (laneOf s o.d i).toNat
      (if o.sub.getLsbD 0 then r.1 * 2 ^ 16 + d % 2 ^ 16 else d / 2 ^ 16 * 2 ^ 16 + r.1, r.2)⟩
  | .cvtbf x o => some ⟨x, o, 3, fun _ => noDraw, fun _ _ _ i =>
      let r := widenElem 2 (if o.sub.getLsbD 0 then (laneOf s o.a i).toNat / 2 ^ 16 else (laneOf s o.a i).toNat % 2 ^ 16)
      (r.1.toNat, r.2)⟩
  | _ => none
where
  /-- The value of a lane of an operand. -/
  A (o : VV) (i : Nat) : Val := val32 (laneOf s o.a i)
  B (o : VV) (i : Nat) : Val := val32 (laneOf s o.b i)
  C (o : VV) (i : Nat) : Val := val32 (laneOf s o.c i)

/-- The lanes that are on, in ascending order: each computes with one draw where the mode is stochastic, and the generator moves on where the lane's
rounding drew (R171, R246). -/
def gather (stoch : Bool) (rng : Nat) (on : Nat → Bool) (took : Nat → Nat × Fl → Bool) (f : Nat → Nat → Nat × Fl) : FpAcc :=
  (lanes.filter on).foldl (fun acc i =>
    let r := f i (if stoch then (draw acc.rng).1 else 0)
    { vals := acc.vals ++ [(i, r.1)], fl := acc.fl.or r.2, rng := if stoch && took i r then (draw acc.rng).2 else acc.rng })
    { vals := [], fl := Fl.none, rng := rng }

/-- A compare to lanes or masks (R174, R177): word, due cycle, the relation of lane `i`, and whether an invalid operand raises NV. -/
def compareLanes (s : State) : Instr → Option (Mod × VV × Nat × (Nat → Bool) × Bool)
  | .vcmp x o => some (x, o, 2, fun i => intRel o.sub.toNat (laneOf s o.a i) (laneOf s o.b i), false)
  | .fcmp x o => some (x, o, 4, fun i => fpRel o.sub.toNat (val32 (laneOf s o.a i)) (val32 (laneOf s o.b i)),
      !nflOf x && ((List.range 64).filter (fun i => (maskHeld s o).getLsbD i)).any (fun i =>
        cmpInvalid o.sub.toNat (val32 (laneOf s o.a i)) (val32 (laneOf s o.b i))))
  | _ => none

/-- Where a compare goes by dfile: bits of a k register, a p register that says whether any lane that is on holds, or lanes of all ones or zero. -/
def compareChange (s : State) (o : VV) (r : Nat → Bool) : Ctx → Ctx :=
  let mask := maskHeld s o
  if o.dfile = 2 then setK (o.d.toNat % 8) mask (maskFrom r)
  else if o.dfile = 3 then setP (o.d.toNat % 16) ((lanes.filter (laneOn mask)).any r)
  else setLanes (destOf s o) mask (fun i => if r i then BitVec.allOnes 32 else 0)

/-- The lanes of operand a that are on. -/
def lanesOn (s : State) (o : VV) : List Unit32 := (lanes.filter (laneOn (maskHeld s o))).map (laneOf s o.a)

/-- The reductions of R181 and R182: word, the g result, the lane result, the flags, and the generator after its draws. -/
def reduction (s : State) : Instr → Option (Mod × VV × Word × Unit32 × Fl × Nat)
  | .vredadd x o =>
    let S := ((lanesOn s o).map (fun v => v.toInt)).sum
    some (x, o, BitVec.ofInt 64 S, if satOf x then clampInt (-(2 ^ 31)) (2 ^ 31 - 1) S else BitVec.ofInt 32 S, Fl.none, rng)
  | .vredmax x o =>
    let S := ((lanesOn s o).map (fun v => v.toInt)).foldl max (-(2 ^ 31))
    some (x, o, BitVec.ofInt 64 S, BitVec.ofInt 32 S, Fl.none, rng)
  | .vredmaxu x o =>
    let S := ((lanesOn s o).map (fun v => v.toNat)).foldl max 0
    some (x, o, BitVec.ofNat 64 S, BitVec.ofNat 32 S, Fl.none, rng)
  | .vredmin x o =>
    let S := ((lanesOn s o).map (fun v => v.toInt)).foldl min (2 ^ 31 - 1)
    some (x, o, BitVec.ofInt 64 S, BitVec.ofInt 32 S, Fl.none, rng)
  | .fredadd x o =>
    let m := modeHeld s x
    let v := lanes.map (fun i => if laneOn (maskHeld s o) i then (laneOf s o.a i).toNat else 0)
    let t := tree64 (fun u p q => fAdd m (satOf x) u (valueOf fp32 p) (valueOf fp32 q)) (m == 6 && guardHeld s x) v rng
    some (x, o, BitVec.ofNat 64 t.1, BitVec.ofNat 32 t.1, t.2.1, t.2.2)
  | .fredmax x o =>
    let on := lanesOn s o
    let v := lanes.map (fun i => if laneOn (maskHeld s o) i then (laneOf s o.a i).toNat else 0xFF800000)
    let t := tree64 (fun _ p q => fMinMax true (BitVec.ofNat 32 p) (BitVec.ofNat 32 q)) false v 0
    let r := if !on.isEmpty && on.all (fun e => isNan (val32 e)) then nan32 else t.1
    some (x, o, BitVec.ofNat 64 r, BitVec.ofNat 32 r, t.2.1, rng)
  | _ => none
where
  /-- The rounding mode of an instruction (R171, R245). -/
  modeHeld (s : State) (x : Mod) : Nat := modeOf s x
  /-- The generator before the instruction. -/
  rng : Nat := (me s).srng.toNat

/-- The mask-register instructions and the moves of registers between files (R186, R189 to R191): their guard, due cycle and change. -/
def registerMove (s : State) : Instr → Option (Mod × Nat × (Ctx → Ctx))
  | .kand x o => some (x, 1, setK (o.d.toNat % 8) (BitVec.allOnes 64) (heldK s (o.a.toNat % 8) &&& heldK s (o.b.toNat % 8)))
  | .kor x o => some (x, 1, setK (o.d.toNat % 8) (BitVec.allOnes 64) (heldK s (o.a.toNat % 8) ||| heldK s (o.b.toNat % 8)))
  | .knot x o => some (x, 1, setK (o.d.toNat % 8) (BitVec.allOnes 64) (~~~heldK s (o.a.toNat % 8)))
  | .kpopc x o => some (x, 1, setG (o.d.toNat % 64)
      (BitVec.ofNat 64 ((List.range 64).filter (fun i => (heldK s (o.a.toNat % 8)).getLsbD i)).length))
  | .mvgr x o =>
    let v := heldLane s (srcX s o) (o.c.toNat % 64)
    some (x, 2, setG (o.d.toNat % 64) (if o.sub.getLsbD 2 then v.signExtend 64 else v.setWidth 64))
  | .mvkKm x o => some (x, 2, setK (o.d.toNat % 8) (maskHeld s o) (maskFrom (fun i => heldLane s (srcX s o) i != 0)))
  | .mvkGk x o => some (x, 2, setG (o.d.toNat % 64) (heldK s (o.a.toNat % 8)))
  | .mvkKg x o => some (x, 2, setK (o.d.toNat % 8) (maskHeld s o) (heldG s (o.a.toNat % 64)))
  | .mvx x o => some (x, 2, setLanes (dstX s o) (maskHeld s o) (heldLane s (srcX s o)))
  | .mvkMk x o => some (x, 2, setLanes (dstX s o) (maskHeld s o) (fun i =>
      if (heldK s (o.a.toNat % 8)).getLsbD i then BitVec.allOnes 32 else 0))
  | .vcmpr x o =>
    let on := lanes.filter (laneOn (maskHeld s o))
    some (x, 2, setLanes (destOf s o) (if o.sub.getLsbD 0 then BitVec.ofNat 64 (2 ^ on.length - 1) else BitVec.allOnes 64) (fun j =>
      ((on[j]?).map (laneOf s o.a)).getD 0))
  | .vins x o => some (x, 2, setLanes (destOf s o) (maskHeld s o &&& BitVec.ofNat 64 (2 ^ (o.c.toNat % 64)))
      (fun _ => (heldG s (o.a.toNat % 64)).setWidth 32))
  | _ => none

/-- `MVXM` of `n` operands (R189): operand t is read at cycle t, after what lands in that cycle, and written at cycle t + 2. -/
def movedRows (src dst : MOp) (mask : Word) (n : Nat) (c : Ctx) : Ctx :=
  ((List.range (n + 2)).foldl (fun (a : Ctx × List (Nat → Unit32)) t =>
    let c := match (if 2 ≤ t then a.2[t - 2]? else none) with
      | some v => setLanes (advance dst (t - 2)) mask v a.1
      | none => a.1
    (c, if t < n then a.2 ++ [fun i => storedEl c src.file (laneEl (advance src t) i)] else a.2)) (c, [])).1

end Sys2Proof.Claims

/-- R172 to R175, R178, R183 to R185: a lane-wise instruction writes, due 2 or 4, the lanes of its destination that are on, each with the value its rule
gives, under its guard, and changes nothing else. -/
def Obligations.LaneInstructionsCompute : Prop :=
  ∀ (s : State) (i : Instr) (x : Mod) (o : VV) (due : Nat) (v : Nat → Unit32), Quiet s → laneResult s i = some (x, o, due, v) →
    LandsAs i s due (when_ (guardHeld s x) (setLanes (destOf s o) (maskHeld s o) v))

/-- R171, R176 to R180, R246, R247: an FP32 instruction computes its lanes that are on in ascending order, writes them when it is due, raises their flags
in its cluster's group unless nfl is set, and moves the generator on by its draws; a false guard does none of this. -/
def Obligations.FloatInstructionsCompute : Prop :=
  ∀ (s : State) (i : Instr) (F : FpForm), Quiet s → fpForm s i = some F →
    let on := guardHeld s F.x
    let mode := modeOf s F.x
    let r := gather (mode == 6 && on) (me s).srng.toNat (laneOn (maskHeld s F.o)) F.took (fun i u => F.f mode (satOf F.x) u i)
    LandsAs i s F.due (when_ on (fun c =>
      let c := setFlags (clusterOf s) (if nflOf F.x then 0 else r.fl.bits) (setLanes (destOf s F.o) (maskHeld s F.o) (accLane r) c)
      if mode = 6 then { c with srng := BitVec.ofNat 64 r.rng } else c))

/-- R174, R177, R181, R182: a vector compare writes its relations to the destination that dfile selects, due 2 or 4 and under its guard, an FP32 compare of
an invalid operand raising NV in its cluster's group unless nfl is set; a reduction over the lanes that are on writes its result, due 6 and under its guard, to
g[d] or to every lane that is on, raises its flags unless nfl is set, and moves the generator on by its draws. -/
def Obligations.ComparesAndReductionsCompute : Prop :=
  (∀ (s : State) (i : Instr) (x : Mod) (o : VV) (due : Nat) (r : Nat → Bool) (nv : Bool), Quiet s →
     compareLanes s i = some (x, o, due, r, nv) →
     LandsAs i s due (when_ (guardHeld s x) (fun c => setFlags (clusterOf s) (if nv then 16 else 0) (compareChange s o r c))))
  ∧ (∀ (s : State) (i : Instr) (x : Mod) (o : VV) (g : Word) (v : Unit32) (fl : Fl) (rng : Nat), Quiet s →
       reduction s i = some (x, o, g, v, fl, rng) →
       LandsAs i s 6 (when_ (guardHeld s x) (fun c =>
         let c := setFlags (clusterOf s) (if nflOf x then 0 else fl.bits)
           (if o.dfile = 1 then setG (o.d.toNat % 64) g c else setLanes (destOf s o) (maskHeld s o) (fun _ => v) c)
         if rng = (me s).srng.toNat then c else { c with srng := BitVec.ofNat 64 rng })))

/-- R184 to R191: the mask-register instructions, `VCMPR`, `VINS` and the one-cycle moves between files write their result when it is due and under their
guard; `MVXM` of n operands reads operand t at cycle t and writes it at cycle t + 2, each with both indices t further on. Nothing else changes. -/
def Obligations.RegisterMovesCompute : Prop :=
  (∀ (s : State) (i : Instr) (x : Mod) (due : Nat) (f : Ctx → Ctx), Quiet s → registerMove s i = some (x, due, f) →
     LandsAs i s due (when_ (guardHeld s x) f))
  ∧ (∀ (s : State) (x : Mod) (o : VV), Quiet s →
       LandsAs (.mvxm x o) s (o.c.toNat % 64 + 2)
         (when_ (guardHeld s x) (movedRows (srcX s o) (dstX s o) (maskHeld s o) (o.c.toNat % 64 + 1))))
namespace Sys2Proof.Claims

/-! ### Memory (R198 to R212) -/

/-- off of an LS, LG or LA word (R206, R209). -/
def offOf (s : State) (x : Mod) (o : MEM) : Nat := (heldG s o.a.toNat + BitVec.ofInt 64 (immExt x 12 o.imm.toNat)).toNat

/-- Bytes of a scalar access, and a loaded value zero- or sign-extended (R100, R207). -/
def sizeOf_ (o : MEM) : Nat := 2 ^ (o.mod.toNat % 4)
def loadedValue (o : MEM) (v : Nat) : Word :=
  if o.mod.getLsbD 2 then (BitVec.ofNat (8 * sizeOf_ o) v).signExtend 64 else BitVec.ofNat 64 v

/-- The register operand of a vector access (R100), lane `i` of it, and the lane mask. -/
def memLanes (s : State) (o : MEM) : MOp := matOp (me s) (if o.cl then 1 else 0) o.t
def memLane (s : State) (o : MEM) (i : Nat) : Unit32 := heldLane s (memLanes s o) i
def memMaskHeld (s : State) (o : MEM) : Word := heldK s o.k.toNat

/-- The address of lane `i` of a strided access: off plus i times a signed stride, modulo 2^64 (R207). -/
def stridedAt (s : State) (x : Mod) (o : MEM) (i : Nat) : Nat :=
  (BitVec.ofInt 64 (offOf s x o + i * (heldG s o.b.toNat).toInt)).toNat

/-- The bytes of the lanes that are on, lane `i` at `at_ i`, in ascending order. -/
def bytesOfLanes (mask : Word) (at_ : Nat → Nat) (v : Nat → Unit32) : List (Nat × Byte) :=
  ((List.range 64).filter (fun i => mask.getLsbD i)).flatMap (fun i =>
    (List.range 4).map (fun j => (at_ i + j, (v i).extractLsb' (8 * j) 8)))

/-- A scratchpad access: ranges it checks, whether it stores, its alignment. -/
structure SpAccess where
  ranges : List (Nat × Nat)
  store  : Bool
  align  : Nat

/-- R206: every byte of every range lies in the window, every range is aligned, and one in the segment area lies in one copy that allows the access. -/
def SpAllowed (s : State) (a : SpAccess) : Prop :=
  ∀ r ∈ a.ranges, r.1 < 2 ^ 32 ∧ (r.2 = 0 ∨ r.1 + r.2 ≤ windowOf s s.cur.core) ∧ r.1 % a.align = 0
    ∧ (r.2 = 0 ∨ r.1 + r.2 ≤ programEnd s s.cur.core ∨ ∃ d, copyAt (myCore s) r.1 = some d ∧ r.1 + r.2 ≤ d.off + d.size
        ∧ (if a.store then 0 < d.writers ∧ (d.state = .clean ∨ d.state = .dirty)
           else d.state = .clean ∨ d.state = .dirty ∨ d.state = .frozen))

/-- The refusal of R206 on one range that passed the first two checks. -/
def copyRefusal (s : State) (store : Bool) (r : Nat × Nat) : Option (Nat × Nat) :=
  if r.2 = 0 ∨ r.1 + r.2 ≤ programEnd s s.cur.core then none
  else match copyAt (myCore s) r.1 with
    | none => some (0x0C, r.1 + 2 * 2 ^ 57)
    | some d =>
      if d.off + d.size < r.1 + r.2 then some (0x0C, r.1 + 2 * 2 ^ 57)
      else if store ∧ d.state = .frozen then some (0x0D, r.1)
      else if (store ∧ 0 < d.writers ∧ (d.state = .clean ∨ d.state = .dirty))
          ∨ (!store ∧ (d.state = .clean ∨ d.state = .dirty ∨ d.state = .frozen)) then none
      else some (0x0C, r.1 + 2 * 2 ^ 57)

/-- The first check of R206 that fails, with cause and `tval` (R205): the window, then alignment, then the segment area. -/
def spRefusal (s : State) (a : SpAccess) : Option (Nat × Nat) :=
  match a.ranges.find? (fun r => decide (2 ^ 32 ≤ r.1 ∨ (r.2 ≠ 0 ∧ windowOf s s.cur.core < r.1 + r.2))) with
  | some r => some (0x0C, r.1 % 2 ^ 32 + 1 * 2 ^ 57)
  | none =>
    match a.ranges.find? (fun r => decide (r.1 % a.align ≠ 0)) with
    | some r => some (0x0C, r.1 % 2 ^ 32 + 3 * 2 ^ 57)
    | none => (a.ranges.filterMap (copyRefusal s a.store)).head?

/-- A scratchpad load of R207: guard, access, the cycle its last result is due, and the change. -/
def scratchLoad (s : State) : Instr → Option (Mod × SpAccess × Nat × (Ctx → Ctx))
  | .lds x o => some (x, ⟨[(offOf s x o, sizeOf_ o)], false, 1⟩, 5,
      setG (o.t.toNat % 64) (loadedValue o (peekNat sp (offOf s x o) (sizeOf_ o))))
  | .ldsv x o => some (x, ⟨[(offOf s x o, 256)], false, 256⟩, 6, row o (fun i => offOf s x o + 4 * i))
  | .ldsvu x o => some (x, ⟨[(offOf s x o, 256)], false, 1⟩, 6, row o (fun i => offOf s x o + 4 * i))
  | .ldsx x o => some (x, ⟨(List.range 64).map (fun i => (stridedAt s x o i, 4)), false, 4⟩, 6, row o (stridedAt s x o))
  | .ldsm x o =>
    let n := o.mod.toNat % 64 + 1
    some (x, ⟨[(offOf s x o, 256 * n)], false, 256⟩, n + 5, fun c => (List.range n).foldl (fun c r =>
      setLanes (advance (memLanes s o) r) (memMaskHeld s o) (fun i => BitVec.ofNat 32 (peekNat sp (offOf s x o + 256 * r + 4 * i) 4)) c) c)
  | _ => none
where
  /-- The scratchpad at the issue cycle. -/
  sp : Memory := (myCore s).sp
  /-- The lanes of one operand, lane `i` read at an address. -/
  row (o : MEM) (at_ : Nat → Nat) : Ctx → Ctx :=
    setLanes (memLanes s o) (memMaskHeld s o) (fun i => BitVec.ofNat 32 (peekNat (myCore s).sp (at_ i) 4))

/-- A scratchpad store of R207 and R208: guard, access, occupancy, the address a watch match reports, and the bytes of each cycle in turn. -/
def scratchStore (s : State) : Instr → Option (Mod × SpAccess × Nat × Nat × List (List (Nat × Byte)))
  | .sts x o =>
    let v := heldG s (o.t.toNat % 64)
    some (x, ⟨[(offOf s x o, sizeOf_ o)], true, 1⟩, 1, offOf s x o,
      [(List.range (sizeOf_ o)).map (fun j => (offOf s x o + j, v.extractLsb' (8 * j) 8))])
  | .stsv x o => some (x, ⟨[(offOf s x o, 256)], true, 256⟩, 1, offOf s x o,
      [bytesOfLanes (memMaskHeld s o) (fun i => offOf s x o + 4 * i) (memLane s o)])
  | .stsx x o => some (x, ⟨(List.range 64).map (fun i => (stridedAt s x o i, 4)), true, 4⟩, 1, offOf s x o,
      [bytesOfLanes (memMaskHeld s o) (stridedAt s x o) (memLane s o)])
  | .stsvm x o =>
    let cnt := (heldG s o.b.toNat).toNat
    let bs := (bytesOfLanes (memMaskHeld s o) (fun i => offOf s x o + 4 * i) (memLane s o)).filter (fun e => e.1 < offOf s x o + cnt)
    if cnt ≤ 256 then some (x, ⟨bs.map (fun e => (e.1, 1)), true, 1⟩, 1, offOf s x o, [bs]) else none
  | .stsm x o =>
    let n := o.mod.toNat % 64 + 1
    some (x, ⟨[(offOf s x o, 256 * n)], true, 256⟩, n, offOf s x o, (List.range n).map (fun r =>
      bytesOfLanes (memMaskHeld s o) (fun i => offOf s x o + 256 * r + 4 * i) (heldLane s (advance (memLanes s o) r))))
  | _ => none

/-- R199 allows an access of `len` bytes at `off` in a handle's page, with an alignment, that needs permission bit `perm` (R 0, W 1, A 2). -/
def PageAllows (h : Word128) (off len align perm : Nat) : Prop :=
  hState h = 1 ∧ off + len ≤ pageBytes (hSize h) ∧ off % align = 0 ∧ hSealed h = false ∧ (BitVec.ofNat 4 (hPerms h)).getLsbD perm = true

/-- The first check of R199 that fails, with cause and `tval` (R201, R205). -/
def pageRefusal (h : Word128) (n off len align perm : Nat) : Option (Nat × Word) :=
  let atPage := BitVec.ofNat 64 (hVa h + n % 32)
  let atByte := fun reason => BitVec.ofNat 64 ((hVa h + off) % 2 ^ 57 + reason * 2 ^ 57)
  if hState h = 0 ∨ hState h = 2 then some (0x08, atPage)
  else if hState h = 3 then (if hCause h = 0x0C then some (0x0C, atByte (hReason h)) else some (hCause h, atPage))
  else if pageBytes (hSize h) < off + len then some (0x09, atByte 0)
  else if off % align ≠ 0 then some (0x0C, atByte 3)
  else if hSealed h then some (0x0C, atByte 5)
  else if (BitVec.ofNat 4 (hPerms h)).getLsbD perm = false then some (0x0C, atByte (if hPerms h = 0 then 6 else 4))
  else none

/-- The page access of an LG or LA instruction (R209 to R212): word, length, alignment, permission bit; none for `PFG`, which checks nothing, for an
empty `STGVM`, and for one whose count is above 256. -/
def pageAccess (s : State) : Instr → Option (Mod × MEM × Nat × Nat × Nat)
  | .ldg x o => some (x, o, sizeOf_ o, 1, 0)
  | .stg x o => some (x, o, sizeOf_ o, 1, 1)
  | .ldgv x o => some (x, o, 256, 4, 0)
  | .stgv x o => some (x, o, 256, 4, 1)
  | .stgvm x o =>
    let cnt := (heldG s o.b.toNat).toNat
    if cnt ≤ 256 ∧ cnt ≠ 0 then some (x, o, cnt, 1, 1) else none
  | .flg x o => some (x, o, 1, 1, 0)
  | .aadd x o | .afadd x o | .amin x o | .amax x o | .aminu x o | .amaxu x o | .aand x o | .aor x o | .axor x o | .axchg x o
  | .acas x o => some (x, o, if o.mod.toNat / 32 % 4 = 3 then 8 else 4, if o.mod.toNat / 32 % 4 = 3 then 8 else 4, 2)
  | .aradd x o => some (x, o, 256, 4, 2)
  | _ => none

/-- The result of a global load at a physical address (R209). -/
def globalLoad (s : State) (pa : Nat) : Instr → Option (Ctx → Ctx)
  | .ldg _ o => some (setG (o.t.toNat % 64) (loadedValue o (natOfBytes (loadBytes s s.cur.core s.cur.bank pa (sizeOf_ o)))))
  | .ldgv _ o => some (setLanes (memLanes s o) (memMaskHeld s o) (fun i =>
      BitVec.ofNat 32 (natOfBytes (loadBytes s s.cur.core s.cur.bank (pa + 4 * i) 4))))
  | _ => none

/-- The bytes of a global store at a physical address (R209). -/
def globalStore (s : State) (pa : Nat) : Instr → Option (List (Nat × Byte))
  | .stg _ o => some ((List.range (sizeOf_ o)).map (fun j => (pa + j, (heldG s (o.t.toNat % 64)).extractLsb' (8 * j) 8)))
  | .stgv _ o => some (bytesOfLanes (memMaskHeld s o) (fun i => pa + 4 * i) (memLane s o))
  | .stgvm _ o => some ((bytesOfLanes (memMaskHeld s o) (fun i => pa + 4 * i) (memLane s o)).filter (fun e =>
      e.1 < pa + (heldG s o.b.toNat).toNat))
  | _ => none

/-- A variable result: it arrives in any later cycle, and once it is due too the state is `u` of the one before, the model's count of results put in flight
one higher (R134). -/
def ArrivesTo (i : Instr) (s : State) (due : Nat) (u : State → State) : Prop :=
  ∃ t, exec i s = .next t ∧ ∀ n, 1 ≤ n → ∃ v, exec (.variableResultArrival s.cur.core s.nextId) (after n t) = .next v ∧
    after (due - n) v = u { s with nextId := s.nextId + 1 }

/-- A variable result that changes the acting context by `f` and nothing else. -/
def ArrivesAs (i : Instr) (s : State) (due : Nat) (f : Ctx → Ctx) : Prop := ArrivesTo i s due (fun s => modMe s f)

/-- The stacks of the device, and its bridge, have trained, and none of them has failed (R395). -/
def Trained (s : State) : Prop :=
  s.ready.getLsbD 52 = true ∧ s.failed.getLsbD 52 = false
  ∧ ∀ n, s.conf.hbmStacks / 2 ^ n % 2 = 1 → s.ready.getLsbD n = true ∧ s.failed.getLsbD n = false

/-- No atomic on its way answers to the next result's number. -/
def NoStrayAtomic (s : State) : Prop := ∀ a ∈ s.atomics, a.flight ≠ s.nextId

/-- The opcode of an atomic (R211, R212). -/
def atomicOp : Instr → Option (Mod × MEM × Nat)
  | .aadd x o => some (x, o, 0) | .afadd x o => some (x, o, 1) | .amin x o => some (x, o, 2) | .amax x o => some (x, o, 3)
  | .aminu x o => some (x, o, 4) | .amaxu x o => some (x, o, 5) | .aand x o => some (x, o, 6) | .aor x o => some (x, o, 7)
  | .axor x o => some (x, o, 8) | .axchg x o => some (x, o, 9) | .acas x o => some (x, o, 10)
  | _ => none

/-- The value of R211: opcode, width in bits, memory value, operand, expected value. -/
def ruleValue (op w m x c : Nat) : Nat :=
  let sm := (BitVec.ofNat w m).toInt
  let sx := (BitVec.ofNat w x).toInt
  if op = 0 ∨ op = 11 then (m + x) % 2 ^ w
  else if op = 1 ∨ op = 12 then (fAdd 1 false 0 (valueOf fp32 m) (valueOf fp32 x)).1
  else if op = 2 then (if sm ≤ sx then m else x)
  else if op = 3 then (if sx ≤ sm then m else x)
  else if op = 4 then min m x
  else if op = 5 then max m x
  else if op = 6 then m &&& x
  else if op = 7 then m ||| x
  else if op = 8 then m ^^^ x
  else if op = 9 then x
  else if m = c then x else m

/-- No kernel in record or replay mode governs the acting context (R376). -/
def Unlogged (s : State) (core bank : Nat) : Prop :=
  recording s (ctxAt s core bank).part = false ∧ replaying s (ctxAt s core bank).part = false

/-- No core watches anything (R366). -/
def Unwatched (s : State) : Prop := ∀ e ∈ s.cores, e.2.watches = []

/-- The parts of an atomic that its instruction fixes at issue. -/
structure AtomicParts where
  op      : Nat
  pa      : Nat
  width   : Nat
  dest    : Nat
  operand : Word
  swap    : Word
  acq     : Bool
  scope   : Nat
  deriving DecidableEq

/-- Those parts of an atomic. -/
def atomicParts (a : Atomic) : AtomicParts := ⟨a.op, a.pa, a.width, a.dest, a.operand, a.swap, a.acq, a.scope⟩

/-- A boundary of the acting strand may take its place now: its earlier atomics are performed, this cycle is the last of its gclk, and no epoch is to
close first (R210, R320, R338). -/
def MayBound (s : State) : Prop := atomicsOf s s.cur.core s.cur.bank = [] ∧ gclkMoves s = true ∧ epochPending s = false

/-- What the boundary of an LA word leaves (R319): its place taken where it is `.acq` or `.rel`, and the strand's stores published where it is `.rel`. -/
def boundaryOf (s : State) (o : MEM) : State :=
  let u := if o.mod.getLsbD 3 || o.mod.getLsbD 4 then takePlace s (myPlace s) else s
  if o.mod.getLsbD 4 then publish u s.cur.core s.cur.bank (o.mod.toNat % 8) (myPlace s) else u

end Sys2Proof.Claims

/-- R206 to R208: a scratchpad load that R206 allows writes what it reads at its issue, due 5, 6 or r + 6 for row r; a scratchpad store that R206
allows stores its bytes from the next cycle on, row after row for `STSM`, and notes the first watch match of its bundle. Nothing else changes, and nothing at
all under a false guard. -/
def Obligations.ScratchLoadsAndStoresAct : Prop :=
  (∀ (s : State) (i : Instr) (x : Mod) (a : SpAccess) (due : Nat) (f : Ctx → Ctx), Quiet s → SpSettled s →
     scratchLoad s i = some (x, a, due, f) →
     (guardHeld s x = false → LandsAs i s due id) ∧ (guardHeld s x = true → SpAllowed s a → LandsAs i s due f))
  ∧ (∀ (s : State) (i : Instr) (x : Mod) (a : SpAccess) (n off : Nat) (rows : List (List (Nat × Byte))), Quiet s →
       scratchStore s i = some (x, a, n, off, rows) →
       (guardHeld s x = false → LandsAs i s n id)
       ∧ (guardHeld s x = true → SpAllowed s a → SettlesTo i s n (fun u =>
           noteHit (rows.foldl (fun u bs => landSp u s.cur.core s.cur.bank bs) u) true off (rows.flatten.map (fun e => e.1)))))

/-- R199, R209, R134, R359, R395: a global load that its handle allows takes its value at issue, arrives at any later time and is due 24; while the stack of its
home, or a bridge on the way, is in training it does not arrive, and one whose home has failed leaves its destination and defers 0x28 to its due cycle; under a
false guard it changes nothing. -/
def Obligations.GlobalLoadsArrive : Prop :=
  ∀ (s : State) (i : Instr) (x : Mod) (o : MEM) (len align perm : Nat) (f : Ctx → Ctx), Quiet s → NoStrayAtomic s →
    pageAccess s i = some (x, o, len, align, perm) →
    let pa := hBase (heldH s o.h.toNat) + offOf s x o
    globalLoad s pa i = some f →
    (guardHeld s x = false → LandsAs i s 24 id)
    ∧ (guardHeld s x = true → PageAllows (heldH s o.h.toNat) (offOf s x o) len align perm →
        (Trained s → ArrivesAs i s 24 f)
        ∧ (s.cur.slot = 8 → homeReached s (dieOf s.cur.core) pa = false →
            ∃ t, exec i s = .next t ∧ ∀ n, 1 ≤ n → Becomes (.variableResultArrival s.cur.core s.nextId) (after n t) (after n t))
        ∧ (s.cur.slot = 8 → homeReached s (dieOf s.cur.core) pa = true → homeFailed s (dieOf s.cur.core) pa = true → (me s).deferred = [] →
            ∃ t, exec i s = .next t ∧ ∀ n, 1 ≤ n → n ≤ 24 → ∃ v, exec (.variableResultArrival s.cur.core s.nextId) (after n t) = .next v ∧
              me (after (24 - n) v) = { me s with
                deferred := [{ cause := 0x28, tval := BitVec.ofNat 64 (3 * 2 ^ 60 + pa % 2 ^ 52), slot := 8, due := 24 - n, wp := 0 }] }))

/-- R199, R194, R209: a global store that its handle allows joins the strand's own unpublished stores, notes the first watch match of its bundle, and
changes nothing else; an empty `STGVM` of a valid handle and a store under a false guard change nothing. -/
def Obligations.GlobalStoresStayPrivate : Prop :=
  (∀ (s : State) (i : Instr) (x : Mod) (o : MEM) (len align perm : Nat) (bs : List (Nat × Byte)), Quiet s →
    pageAccess s i = some (x, o, len, align, perm) →
    globalStore s (hBase (heldH s o.h.toNat) + offOf s x o) i = some bs →
    (guardHeld s x = false → LandsAs i s 1 id)
    ∧ (guardHeld s x = true → PageAllows (heldH s o.h.toNat) (offOf s x o) len align perm → SettlesTo i s 1 (fun u =>
        noteHit (modMe u (fun c => { c with own := c.own ++ [{ index := c.index, bytes := bs }] }))
          false (hVa (heldH s o.h.toNat) + offOf s x o) (bs.map (fun e => e.1)))))
  ∧ ∀ (s : State) (x : Mod) (o : MEM), Quiet s → guardHeld s x = true → hState (heldH s o.h.toNat) = 1 → heldG s o.b.toNat = 0 →
    LandsAs (.stgvm x o) s 1 id

/-- R199, R201, R205, R206: an LS access that fails a check of R206, and an LG or LA access that fails a check of R199, trap under a true guard with the cause
and `tval` of the first check that fails, and with no effect; a `STSVM` of more than 256 bytes traps with 0x0C and reason 0x07. That `tval` holds the offset of
the lane or byte that fails, where an access has several, is the model's choice (log entry 56). -/
def Obligations.AccessRefusalsTrap : Prop :=
  ((∀ (s : State) (i : Instr) (x : Mod) (a : SpAccess) (cause tval : Nat), Settled s → guardHeld s x = true →
     ((∃ due f, scratchLoad s i = some (x, a, due, f)) ∨ ∃ n off rows, scratchStore s i = some (x, a, n, off, rows)) →
     spRefusal s a = some (cause, tval) → TrapsAt i s cause (BitVec.ofNat 64 tval))
   ∧ ∀ (s : State) (x : Mod) (o : MEM), Settled s → guardHeld s x = true → 256 < (heldG s o.b.toNat).toNat →
     TrapsAt (.stsvm x o) s 0x0C (BitVec.ofNat 64 (offOf s x o % 2 ^ 32 + 7 * 2 ^ 57)))
  ∧ (∀ (s : State) (i : Instr) (x : Mod) (o : MEM) (len align perm cause : Nat) (tval : Word), Settled s →
       pageAccess s i = some (x, o, len, align, perm) → guardHeld s x = true →
       pageRefusal (heldH s o.h.toNat) o.h.toNat (offOf s x o) len align perm = some (cause, tval) →
       cause = 0x08 ∨ cause = 0x09 ∨ cause = 0x0A ∨ cause = 0x0B ∨ cause = 0x0C → TrapsAt i s cause tval)

/-- R209, R202, R89: `PFG` always, `FLG` where its handle allows a load of one byte, and the empty bundle change nothing; `XINV` drops the core's cached
translations of its address under its guard, and nothing else; `XREL` empties its handle, due 1. -/
def Obligations.HintsAndReleases : Prop :=
  (∀ (s : State) (x : Mod) (o : MEM), Quiet s → LandsAs (.pfg x o) s 1 id)
  ∧ (∀ (s : State) (x : Mod) (o : MEM), Quiet s →
      (guardHeld s x = true → PageAllows (heldH s o.h.toNat) (offOf s x o) 1 1 0) → LandsAs (.flg x o) s 1 id)
  ∧ (∀ (s : State) (x : Mod) (o : SR), Quiet s → SettlesTo (.xinv x o) s 1 (fun u =>
      if guardHeld s x then dropCached u s.cur.core (me s).pasid (heldG s o.a.toNat) else u))
  ∧ (∀ (s : State) (x : Mod) (o : SR), Quiet s → LandsAs (.xrel x o) s 1 (when_ (guardHeld s x) (setH (o.d.toNat % 32) 0)))
  ∧ ∀ (s : State), exec .nop s = .next s

/-- R202, R203, R134: a translation uses the core's cache and writes its handle when it arrives, a page that is mapped and device-owned with the permissions
required giving a valid handle of that page, and everything else a faulted one; under a false guard it changes nothing. That a code page gives a valid handle
without permissions, and one faulted with 0x0C and reason 0x04 where a permission is required, is the model's reading of R10 and R199 (log entry 24). -/
def Obligations.TranslationsFormHandles : Prop :=
  (∀ (s : State) (x : Mod) (o : SR), Quiet s → NoStrayAtomic s →
    (guardHeld s x = false → LandsAs (.xlt x o) s 60 id)
    ∧ (guardHeld s x = true → ArrivesTo (.xlt x o) s 60 (fun u => modMe (useCache u s.cur.core (me s).pasid (heldG s o.a.toNat))
        (setH (o.d.toNat % 32) (translate s (me s).pasid (heldG s o.a.toNat) 0)))))
  ∧ (∀ (s : State) (x : Mod) (o : SI), Quiet s → NoStrayAtomic s →
    (guardHeld s x = false → LandsAs (.xltp x o) s 60 id)
    ∧ (guardHeld s x = true → (heldG s o.b.toNat).toNat / 32 % 8 = 0 → ArrivesTo (.xltp x o) s 60 (fun u =>
        modMe (useCache u s.cur.core (me s).pasid (heldG s o.a.toNat))
          (setH ((heldG s o.b.toNat).toNat % 32) (translate s (me s).pasid (heldG s o.a.toNat) (o.imm.toNat % 32))))))
  ∧ ∀ (s : State) (pasid need : Nat) (va : Word), need < 32 →
    let h := translate s pasid va need
    (findMap s pasid va = none → hVpage h = va.toNat / 2 ^ 16 % 2 ^ 41)
    ∧ (canonical va = false → hState h = 3 ∧ hCause h = 0x0C ∧ hReason h = 0x08)
    ∧ (canonical va → findMap s pasid va = none → codePage s pasid (va.toNat / 4096 * 4096) = none → hState h = 3 ∧ hCause h = 0x0A)
    ∧ (∀ c, canonical va → findMap s pasid va = none → codePage s pasid (va.toNat / 4096 * 4096) = some c →
        (need = 0 → hState h = 1 ∧ hPerms h = 0 ∧ hSealed h = false) ∧ (need ≠ 0 → hState h = 3 ∧ hCause h = 0x0C ∧ hReason h = 0x04))
    ∧ ∀ m, canonical va → findMap s pasid va = some m → m.pa % 2 ^ 16 = 0 → m.pa < 2 ^ 52 → m.perms < 32 → m.size < 3 →
        hVpage h = va.toNat / pageBytes m.size * pageBytes m.size / 2 ^ 16 % 2 ^ 41
        ∧ (m.host = true → hState h = 3 ∧ hCause h = 0x0B)
        ∧ (m.host = false → need &&& m.perms ≠ need → hState h = 3 ∧ hCause h = 0x0C ∧ hReason h = 0x04)
        ∧ (m.host = false → need &&& m.perms = need →
            hState h = 1 ∧ hBase h = m.pa ∧ hSize h = m.size ∧ hPerms h = m.perms % 16 ∧ hSealed h = decide (16 ≤ m.perms)
              ∧ hSeq h = s.revSeq % 2 ^ 24)

/-- R210, R211, R212, R319: an atomic that its handle allows sets out for its home slice with its operation, address, width, operand and ordering, one for
each lane that is on for `ARADD`; one that is a boundary does so when it may take its place, and a `.rel` publishes the strand's stores first; memory and the
registers otherwise stay as they are until it is performed; under a false guard it changes nothing. -/
def Obligations.AtomicsSetOut : Prop :=
  (∀ (s : State) (i : Instr) (x : Mod) (o : MEM) (op : Nat), Quiet s → Unlogged s s.cur.core s.cur.bank → atomicOp i = some (x, o, op) →
    let w := if o.mod.toNat / 32 % 4 = 3 then 64 else 32
    (guardHeld s x = false → LandsAs i s 48 id)
    ∧ (guardHeld s x = true → PageAllows (heldH s o.h.toNat) (offOf s x o) (w / 8) (w / 8) 2 →
        (o.mod.getLsbD 3 ∨ o.mod.getLsbD 4 → MayBound s) → Answers i s (fun t =>
        (∃ a, t.atomics = s.atomics ++ [a] ∧ a.core = s.cur.core ∧ a.bank = s.cur.bank ∧
          atomicParts a = ⟨op, hBase (heldH s o.h.toNat) + offOf s x o, w, o.t.toNat % 64, heldG s o.b.toNat, heldG s (o.t.toNat % 64),
            o.mod.getLsbD 3, o.mod.toNat % 8⟩)
        ∧ t.hist = (boundaryOf s o).hist ∧ me t = { me (boundaryOf s o) with flights := (me t).flights })))
  ∧ ∀ (s : State) (x : Mod) (o : MEM), Quiet s → Unlogged s s.cur.core s.cur.bank →
    (guardHeld s x = false → LandsAs (.aradd x o) s 1 id)
    ∧ (guardHeld s x = true → PageAllows (heldH s o.h.toNat) (offOf s x o) 256 4 2 →
        (o.mod.getLsbD 3 ∨ o.mod.getLsbD 4 → MayBound s) → Answers (.aradd x o) s (fun t =>
        (∃ l, t.atomics = s.atomics ++ l ∧ l.map atomicParts = ((List.range 64).filter (fun i => (memMaskHeld s o).getLsbD i)).map (fun i =>
          ⟨if o.mod.toNat / 32 % 4 = 1 then 12 else 11, hBase (heldH s o.h.toNat) + offOf s x o + 4 * i, 32, 0,
            (memLane s o i).setWidth 64, 0, o.mod.getLsbD 3, o.mod.toNat % 8⟩))
        ∧ t.hist = (boundaryOf s o).hist ∧ me t = { me (boundaryOf s o) with flights := (me t).flights }))

/-- R210, R211, R330, R395: an atomic whose turn has come is performed indivisibly: its bytes at the home slice take the value of R211, every other byte there
stays, the atomic is gone, and a result waiting for it holds the old value, zero-extended; one whose home is in training stays on its way, and one whose home
has failed is not performed and defers 0x28 (R359, R395). -/
def Obligations.AtomicsArePerformed : Prop :=
  (∀ (s : State) (a : Atomic), s.atomics.find? (fun b => b.id == a.id) = some a →
    (homeReached s (dieOf a.core) a.pa = false → Becomes (.atomicPerform a.id) s s)
    ∧ (mayPerform s a = true → homeFailed s (dieOf a.core) a.pa = true → a.bank < 3 → Answers (.atomicPerform a.id) s (fun t =>
        t.hist = s.hist ∧ t.atomics = s.atomics.filter (fun b => b.id != a.id)
        ∧ ∃ r ∈ (ctxAt t a.core a.bank).deferred, r.cause = 0x28 ∧ r.tval = BitVec.ofNat 64 (3 * 2 ^ 60 + a.pa % 2 ^ 52))))
  ∧ ∀ (s : State) (a : Atomic), s.atomics.find? (fun b => b.id == a.id) = some a → mayPerform s a = true → a.width = 32 ∨ a.width = 64 →
    homeFailed s (dieOf a.core) a.pa = false → a.bank < 3 → behindRefused s a = false → Unlogged s a.core a.bank → Unwatched s → (isReduction a && holdsReductions s (ctxAt s a.core a.bank).part) = false →
    let old := homeNat s a.pa (a.width / 8)
    Answers (.atomicPerform a.id) s (fun t =>
      homeNat t a.pa (a.width / 8) = ruleValue a.op a.width old (a.operand.toNat % 2 ^ a.width) (a.swap.toNat % 2 ^ a.width) % 2 ^ a.width
      ∧ (∀ b, b < a.pa ∨ a.pa + a.width / 8 ≤ b → homeByte t b = homeByte s b)
      ∧ t.atomics = s.atomics.filter (fun b => b.id != a.id)
      ∧ (a.dest ≠ 0 → ∀ f ∈ (ctxAt t a.core a.bank).flights, f.id = a.flight →
          (f.last, Write.g a.dest (BitVec.ofNat 64 old)) ∈ f.writes))

namespace Sys2Proof.Claims

/-! ### Transforms (R251 to R258) -/

/-- Lane `i` of an operand field of a TF word (R251). -/
def tfLane (s : State) (o : VV) (f : BitVec 10) (i : Nat) : Unit32 := heldLane s (matOp (me s) (if o.sub.getLsbD 0 then 1 else 0) f) i

/-- The destination of a TF word (R251). -/
def tfDest (s : State) (o : VV) : MOp := matOp (me s) (if o.sub.getLsbD 1 then 1 else 0) o.d

/-- The 64 lanes of operand a of a TF word. -/
def tfLanes (s : State) (o : VV) : List Unit32 := (List.range 64).map (tfLane s o o.a)

/-- Elements of `e` bytes laid over `n` lanes of the destination from lane `first` on, with their flags in group T. -/
def layElems (s : State) (x : Mod) (o : VV) (first n e : Nat) (r : Fill) (c : Ctx) : Ctx :=
  setFlags 2 (if nflOf x then 0 else r.fl.bits) (setLanes (tfDest s o) (spanMask first n)
    (fun i => laidLane r.vals e (i - first) (heldLane s (tfDest s o) i)) c)

/-- A transform without a guard (R252 to R256): word, due cycle, change, and the generator after its draws. -/
def transformChange (s : State) : Instr → Option (Mod × Nat × (Ctx → Ctx) × Nat)
  | .xpose x o =>
    let n := o.c.toNat % 64 + 1
    some (x, n + 7, fun c => (List.range n).foldl (fun c r =>
      setLanes { tfDest s o with dir := 1, idx := ((tfDest s o).idx + r) % 64 } (BitVec.allOnes 64)
        (heldLane s (advance (matOp (me s) (if o.sub.getLsbD 0 then 1 else 0) o.a) r)) c) c, rng)
  | .xcvt x o =>
    let code := o.c.toNat % 16
    let e := elemBytes code
    let r := fillElems (stoch x) rng 64 (laneOn (maskHeld s o)) (fun j => isFinite (val32 (tfLane s o o.a j)))
      (fun j u => narrowElem code (modeOf s x) (satOf x) u (tfLane s o o.a j))
    some (x, 3, layElems s x o (16 * e * (o.c.toNat / 16 % 4)) (16 * e) e r, r.rng)
  | .xwiden x o =>
    let code := o.c.toNat % 16
    let r := fun j => widenElem code (partElem (tfLanes s o) (elemBytes code) (o.c.toNat / 16 % 4) j)
    let fl := ((List.range 64).filter (laneOn (maskHeld s o))).foldl (fun f j => f.or (r j).2) Fl.none
    some (x, 3, fun c => setFlags 2 (if nflOf x then 0 else fl.bits) (setLanes (tfDest s o) (maskHeld s o) (fun j => (r j).1) c), rng)
  | .xexp x o =>
    let band := valueOf bf16 ((heldG s (o.c.toNat % 64)).toNat % 2 ^ 16)
    let b := (List.range 64).map (tfLane s o o.b)
    let v := blockVal (tfLanes s o) b (o.c.toNat / 64 % 8) band
    let f := if o.sub.getLsbD 2 then bf16 else fp32
    let r := fillElems (stoch x) rng 64 (fun _ => true) (fun j => isFinite (v j))
      (fun j u => nanInvalid (v j) (roundVal f (modeOf s x) (satOf x) u (v j)))
    some (x, 4, if o.sub.getLsbD 2 then layElems s x o (32 * (o.c.toNat / 512)) 32 2 r else layElems s x o 0 64 4 r, r.rng)
  | .xpack x o =>
    let code := o.c.toNat % 16
    let p := o.c.toNat / 16 % 8
    let sc := fun q => quantScale code (tfLanes s o) q
    let r := fillElems (stoch x) rng 64 (fun _ => true) (fun j => sc (j / 8) != 0xFF && isFinite (val32 (tfLane s o o.a j)))
      (fun j u => quantElem code (modeOf s x) u (sc (j / 8)) (val32 (tfLane s o o.a j)))
    let first := if code = 5 then 8 * p else 16 * p
    let n := if code = 5 then 8 else 16
    let scales := BitVec.ofNat 64 (natOfBytes ((List.range 8).map (fun q => BitVec.ofNat 8 (sc q))))
    some (x, 5, fun c => setFlags 2 (if nflOf x then 0 else r.fl.bits) (setG (o.b.toNat % 64) scales
      (setLanes (tfDest s o) (spanMask first n) (fun i => if code = 5 then fp4Lane r.vals (i - first)
        else laidLane r.vals 1 (i - first) (heldLane s (tfDest s o) i)) c)), r.rng)
  | _ => none
where
  /-- The generator before the instruction, and whether it draws. -/
  rng : Nat := (me s).srng.toNat
  stoch (x : Mod) : Bool := modeOf s x == 6 && guardHeld s x

/-! ### The matrix unit (R260 to R281) -/

/-- Tile `t` of the acting context. -/
def tileHeld (s : State) (t : BitVec 2) : Tile := tgetD (me s).tiles t.toNat Tile.reset

/-- A tile is replaced. -/
def setTile (t : Nat) (v : Tile) (c : Ctx) : Ctx := { c with tiles := tset c.tiles t v }

/-- The scratchpad of the core. -/
def spHeld (s : State) : Memory := (myCore s).sp

/-- The checks of an MX instruction in the order of R273 to R281, each none when it passes. -/
def matrixChecks (s : State) : Instr → Option (Mod × List (Option Bad))
  | .tcfg x o =>
    let m := o.imm.toNat % 256
    let n := o.imm.toNat / 256
    some (x, [badIf (m == 0 || n == 0 || m * n * elemBytes o.sub.toNat > 65536) (tileBad 2),
      badIf ((tileHeld s o.t).live && !o.discard) (tileBad 1)])
  | .tzero x o => some (x, [configured o])
  | .tswap x _ => some (x, [])
  | .mma x o => some (x, [configured o] ++ aSlotChecks s o ++ bSlotChecks s o 1
      ++ [badIf ((aOperand s o).sparse != 0 || (bOperand s o 0).sparse != 0) (tileBad 9)] ++ aHandChecks s o ++ bHandChecks s o 1
      ++ fitChecks (tileHeld s o.t) (aOperand s o) (bOperand s o 0).rows (bOperand s o 0).fmt (bOperand s o 0).slot.isNone)
  | .mmas x o =>
    let bs := (List.range (if o.bs == 1 then 2 else 1)).map (bOperand s o)
    some (x, [configured o] ++ aSlotChecks s o ++ bSlotChecks s o 2
      ++ [badIf ((aOperand s o).sparse != o.sub.toNat || bs.any (fun b => b.sparse != 0)) (tileBad 9),
          badIf (o.bs == 1 && (64 / o.sub.toNat == 4 || bs.any (fun b => b.slot == (aOperand s o).slot))) (tileBad 6)]
      ++ bHandChecks s o (64 / o.sub.toNat) ++ [badIf (bs.any (fun b => b.rows != (tileHeld s o.t).cols)) (tileBad 4)]
      ++ fitChecks (tileHeld s o.t) (aOperand s o) (bOperand s o 0).rows (bOperand s o 0).fmt (bOperand s o 0).slot.isNone
      ++ [badIf (bs.any (fun e => e.fmt != (bOperand s o 0).fmt && !pairFits (aOperand s o).fmt e.fmt (tileHeld s o.t).type)) (tileBad 5)])
  | .mmac x o => some (x, [configured o] ++ aSlotChecks s o ++ [badIf ((aOperand s o).sparse != 0) (tileBad 9)] ++ aHandChecks s o
      ++ descChecks s (descOff s o) .mmac ++ fitChecks (tileHeld s o.t) (aOperand s o) (descOf s o).N (descOf s o).fmt false)
  | .tld x o => some (x, wholeChecks s (tileHeld s o.t) (heldG s o.a.toNat) false)
  | .tst x o => some (x, wholeChecks s (tileHeld s o.t) (heldG s o.a.toNat) true)
  | .trowv x o => some (x, [configured o, rowCheck (tileHeld s o.t) o.sub.toNat (o.imm.toNat / 2048 % 4)])
  | .tvrow x o => some (x, [rowCheck (tileHeld s o.t) o.sub.toNat (o.imm.toNat / 2048 % 4)])
  | .agen x o => some (x, accordChecks s o .agen)
  | .aproj x o => some (x, accordChecks s o .aproj)
  | .aseek x o => some (x, accordChecks s o .aseek)
  | _ => none
where
  /-- The tile is configured (R260). -/
  configured (o : MXW) : Option Bad := badIf ((tileHeld s o.t).type == 0) (tileBad 3)

/-- Those of a list of checks that fail, in order. -/
def failures (l : List (Option Bad)) : List Bad := l.filterMap id

/-- The instructions of R275 and R278 that change only the context: the tile written, the cycle it is due, the change under a true guard. -/
def tileChange (s : State) : Instr → Option (Nat × (Ctx → Ctx))
  | .tcfg _ o => some (2, setTile o.t.toNat
      { rows := o.imm.toNat % 256, cols := o.imm.toNat / 256, type := o.sub.toNat, live := false, bytes := [] })
  | .tzero _ o => some (2, setTile o.t.toNat { tileHeld s o.t with live := false, bytes := [] })
  | .tswap _ o =>
    let u : BitVec 2 := BitVec.ofNat 2 o.b.toNat
    if o.t = u then some (1, id) else some (2, fun c => setTile u.toNat (tileHeld s o.t) (setTile o.t.toNat (tileHeld s u) c))
  | .trowv _ o =>
    let t := tileHeld s o.t
    let e := elemBytes t.type
    let h := o.imm.toNat / 2048 % 4
    some (3, setLanes (rowOperand s o) (rowMask t h) (fun l =>
      elemLane t.type (peekNat t.bytes ((o.sub.toNat * t.cols + 64 * h + l) * e) e)))
  | .tvrow _ o =>
    let t := tileHeld s o.t
    let e := elemBytes t.type
    let h := o.imm.toNat / 2048 % 4
    let on := (List.range 64).filter (laneOn (rowMask t h))
    let v := fun l => laneElem t.type (heldLane s (rowOperand s o) l)
    some (3, fun c => setFlags 3 (on.foldl (fun (f : Fl) l => f.or (v l).2) Fl.none).bits (setTile o.t.toNat
      { t with live := true, bytes := on.foldl (fun m l => pokeNat m ((o.sub.toNat * t.cols + 64 * h + l) * e) e (v l).1) t.bytes } c))
  | .tld _ o =>
    let t := tileHeld s o.t
    let w := (tileHandle (heldG s o.a.toNat)).off
    some (max 1 ((tileSize t + 1023) / 1024) + 4, setTile o.t.toNat
      { t with live := true, bytes := (List.range (tileSize t)).foldl (fun m i => poke m i (peek (spHeld s) (w + i))) t.bytes })
  | _ => none

/-- Operand rows of a multiply that come from scratchpad, `n` of them. -/
def rowsOf (s : State) (a : Operand) (n : Nat) : List Row :=
  match a.slot with
  | some _ => a.staged
  | none => (List.range n).map (fun r => { bytes := peeks (spHeld s) (a.hand.off + r * tilePitch a.hand) 128, scales := [], bands := [] })

/-- A multiply of R276: tile, the job with its operands as they stand, the fetch slots it reads, `.last`, and the flags of a descriptor's weights. -/
def multiplyJob (s : State) : Instr → Option (BitVec 2 × ArrayJob × List Nat × Bool × Fl)
  | .mma _ o =>
    let c := tileHeld s o.t
    let a := aOperand s o
    let b := bOperand s o 0
    some (o.t, { base o with sparse := 0, aFmt := a.fmt, bFmt := b.fmt, steps := 1, b := rowsOf s b c.cols,
                             cells := (List.range 4).map (fun q => o.cellop.toNat / 4 ^ q % 4) }, slotsRead a [b], o.last, Fl.none)
  | .mmas _ o =>
    let c := tileHeld s o.t
    let bs := (List.range (if o.bs == 1 then 2 else 1)).map (bOperand s o)
    let steps := 64 / o.sub.toNat
    some (o.t, { base o with sparse := o.sub.toNat, bFmt := (bOperand s o 0).fmt, steps := steps,
                             b := bs.flatMap (fun b => rowsOf s b (steps * c.cols)) }, slotsRead (aOperand s o) bs, o.last, Fl.none)
  | .mmac _ o =>
    let w := weightRows (accordOf (peeks (spHeld s) (heldG s o.b.toNat).toNat (64 + 2 * 16 * 128)))
    some (o.t, { base o with sparse := 0, bFmt := (descOf s o).fmt, steps := 1, b := w.1 }, slotsRead (aOperand s o) [], o.last, w.2)
  | _ => none
where
  /-- What the three share: the tile's shape and type, and operand A. -/
  base (o : MXW) : ArrayJob :=
    let c := tileHeld s o.t
    let a := aOperand s o
    { tile := o.t.toNat, rows := c.rows, cols := c.cols, type := c.type, steps := 1, sparse := 0, aFmt := a.fmt, bFmt := 0,
      cells := [0, 0, 0, 0], aFrom := none, bFrom := none, desc := none, a := rowsOf s a c.rows, b := [] }

/-- The change a multiply makes: its tile accumulates (R250, R269), the flags go to group M, and `.last` empties the fetch slots read. -/
def multiplied (t : BitVec 2) (old : Tile) (j : ArrayJob) (slots : List Nat) (last : Bool) (fl : Fl) (c : Ctx) : Ctx :=
  let r := multiply j old.bytes
  let c := setFlags 3 r.2.bits (setFlags 3 fl.bits (setTile t.toNat { old with live := true, bytes := r.1 } c))
  if last then { c with fslots := slots.foldl (fun m n => tset m n FSlot.reset) c.fslots } else c

/-- The accord instructions (R279 to R281): word, which one, count, last cycle, last cycle when it runs under a false guard, and the ranges it writes, the first
of which a watch match reports. -/
def accordForm (s : State) : Instr → Option (Mod × MXW × AccordKind × Nat × Nat × Nat × List (Nat × Nat))
  | .agen x o => some (x, o, .gen, 0, 4 + ((descOf s o).N - 1) / 8, 1,
      rowRanges (tileHandle (heldG s o.a.toNat)).off (tilePitch (tileHandle (heldG s o.a.toNat))) (descOf s o).N)
  | .aproj x o => some (x, o, .proj, 0, 76, 76, [((heldG s o.b.toNat).toNat + 64, accordBytes (descOf s o) - 64)])
  | .aseek x o => some (x, o, .seek, o.imm.toNat + 1, 64 * (o.imm.toNat + 1) + 12, 64 * (o.imm.toNat + 1) + 12,
      [((heldG s o.b.toNat).toNat, 8), ((heldG s o.b.toNat).toNat + 16, 4),
       ((heldG s o.b.toNat).toNat + 64, accordBytes (descOf s o) - 64)])
  | _ => none

/-- What a `TFET` fixes at its issue (R249, R264, R335): handle, offset and shape, the partition, the windows in force on its die, and the refreshes of its
strand. -/
def fetchJob (s : State) (h : Word128) (off : Nat) (shape : Word) : FetchJob :=
  { handle := h, off := off, shape := shape, part := (me s).part, seen := (me s).seen,
    wins := (List.range 8).map (fun w => tgetD s.winForce (8 * dieOf s.cur.core + w) Window.reset) }

end Sys2Proof.Claims

/-- R251 to R258, R213, R246, R247: a transform writes its lanes and, for `XPACK`, its scales when it is due, raises its flags in group T unless nfl is set,
and moves the generator on by its draws; `XDCFG` points the decoder at an aligned range that R206 allows; `XDEC` delivers the next block of a stream whose
bytes are settled into all 64 lanes, due 4, and moves past it, and with no stream, a block past the end, a malformed header or a ratio above the bound
traps with 0x19 or 0x18. All under the guard, and nothing else changes. -/
def Obligations.TransformsCompute : Prop :=
  (∀ (s : State) (i : Instr) (x : Mod) (due : Nat) (f : Ctx → Ctx) (rng : Nat), Quiet s → transformChange s i = some (x, due, f, rng) →
     LandsAs i s due (when_ (guardHeld s x) (fun c =>
       if modeOf s x = 6 ∧ rng ≠ (me s).srng.toNat then { f c with srng := BitVec.ofNat 64 rng } else f c)))
  ∧ ((∀ (s : State) (x : Mod) (o : VV), Quiet s →
       let off := (heldG s (o.a.toNat % 64)).toNat
       let len := (heldG s (o.b.toNat % 64)).toNat
       (guardHeld s x = false → LandsAs (.xdcfg x o) s 1 id)
       ∧ (guardHeld s x = true → off % 8 = 0 → len % 8 = 0 → SpAllowed s ⟨[(off, len)], false, 1⟩ →
           let got := peeks (spHeld s) off (min 264 len)
           let d : DecStream := { off := off, len := len, ratio := o.c.toNat, next := 0, since := 0, first := true, got := got }
           LandsAs (.xdcfg x o) s 1 (fun c => { c with dec := some d })))
     ∧ ∀ (s : State) (x : Mod) (o : VV), Settled s → SpSettled s →
       (guardHeld s x = false → LandsAs (.xdec x o) s 4 id)
       ∧ (guardHeld s x = true → (me s).dec = none → TrapsAt (.xdec x o) s 0x19 (BitVec.ofNat 64 (2 * 2 ^ 57)))
       ∧ ∀ d, guardHeld s x = true → (me s).dec = some d →
           (bit (me s).icfg.toNat 0 = true → (d.ratio + 7) / 8 + (if d.first then 1 else 0) ≤ d.since) →
           d.got = peeks (spHeld s) (d.off + d.next) (min 264 (d.len - d.next)) →
           let head := natOfBytes (d.got.take 8)
           let w := (hpkHead head).w
           let tval := fun reason => BitVec.ofNat 64 ((d.off + d.next) % 2 ^ 32 + reason * 2 ^ 57)
           (d.len < d.next + 8 → TrapsAt (.xdec x o) s 0x19 (tval 2))
           ∧ (d.next + 8 ≤ d.len → hpkOk head = false → TrapsAt (.xdec x o) s 0x19 (tval 1))
           ∧ (d.next + 8 ≤ d.len → hpkOk head = true → d.ratio < 1 + w → TrapsAt (.xdec x o) s 0x18 (tval 0))
           ∧ (d.next + 8 ≤ d.len → hpkOk head = true → 1 + w ≤ d.ratio → d.len < d.next + 8 + 8 * w → TrapsAt (.xdec x o) s 0x19 (tval 2))
           ∧ (d.next + 8 + 8 * w ≤ d.len → hpkOk head = true → 1 + w ≤ d.ratio →
               let words := hpkWords (hpkHead head) (natOfBytes ((d.got.drop 8).take (8 * w)))
               let next := d.next + 8 + 8 * w
               let got := peeks (spHeld s) (d.off + next) (min 264 (d.len - next))
               LandsAs (.xdec x o) s 4 (fun c =>
                 setLanes (tfDest s o) (BitVec.allOnes 64) (fun i => BitVec.ofNat 32 ((words[i]?).getD 0))
                   { c with dec := some { d with next := next, since := 0, first := false, got := got } })))

/-- R260, R275, R277, R278: `TCFG`, `TZERO`, `TSWAP`, `TROWV`, `TVROW` and `TLD` whose checks pass change their tile, or the lanes they write, when due and
under their guard; a `TST` stores the tile's bytes, 1,024 a cycle from the next cycle on, clears live under `.discard` and notes the first watch match of
its bundle. Nothing else changes. -/
def Obligations.TilesConfigureMoveAndStore : Prop :=
  (∀ (s : State) (i : Instr) (x : Mod) (l : List (Option Bad)) (due : Nat) (f : Ctx → Ctx), Quiet s → SpSettled s →
     matrixChecks s i = some (x, l) → tileChange s i = some (due, f) →
     (guardHeld s x = false → LandsAs i s due id) ∧ (guardHeld s x = true → failures l = [] → LandsAs i s due f))
  ∧ (∀ (s : State) (x : Mod) (o : MXW) (l : List (Option Bad)), Quiet s → matrixChecks s (.tst x o) = some (x, l) →
       let t := tileHeld s o.t
       let n := tileSize t
       let occ := max 1 ((n + 1023) / 1024)
       let off := (tileHandle (heldG s o.a.toNat)).off
       (guardHeld s x = false → LandsAs (.tst x o) s occ id)
       ∧ (guardHeld s x = true → failures l = [] → SettlesTo (.tst x o) s occ (fun u =>
           let u := if o.discard then modMe u (setTile o.t.toNat { t with live := false }) else u
           noteHit ((List.range occ).foldl (fun u r => landSp u s.cur.core s.cur.bank
               ((List.range (min 1024 (n - 1024 * r))).map (fun j => (off + 1024 * r + j, peek t.bytes (1024 * r + j))))) u)
             true off ((List.range n).map (fun j => off + j)))))

/-- R276, R262, R267, R250: a multiply whose checks pass accumulates the products of its operands, as they stand, into its tile, due its occupancy and 12
cycles more, raises the flags in group M, marks the tile live, and with `.last` empties the fetch slots it reads; under a false guard it changes nothing. -/
def Obligations.MultipliesAccumulate : Prop :=
  ∀ (s : State) (i : Instr) (x : Mod) (l : List (Option Bad)) (t : BitVec 2) (j : ArrayJob) (slots : List Nat) (last : Bool) (fl : Fl),
    Quiet s → SpSettled s → (∀ n, (tgetD (me s).fslots n FSlot.reset).state ≠ .fetching) →
    matrixChecks s i = some (x, l) → multiplyJob s i = some (t, j, slots, last, fl) →
    let due := max 1 ((j.rows * j.cols + 255) / 256) + 12
    (guardHeld s x = false → LandsAs i s due id)
    ∧ (guardHeld s x = true → failures l = [] → LandsAs i s due (multiplied t (tileHeld s t) j slots last fl))

/-- R264, R265, R266: on a device that has trained, a `TFET` whose handle and shape pass their checks fills its slot with the tile it stages, at its arrival, or empties the slot and
defers the cause with row and reason to its due cycle; `TREL` empties its slot; under a false guard nothing changes. -/
def Obligations.TileFetchesArrive : Prop :=
  (∀ (s : State) (x : Mod) (o : MXW), Quiet s → NoStrayAtomic s → Trained s →
    let n := o.t.toNat
    let h := heldH s (o.imm.toNat % 32)
    let off := (heldG s o.a.toNat).toNat
    let shape := heldG s o.b.toNat
    (guardHeld s x = false → LandsAs (.tfet x o) s 48 id)
    ∧ (guardHeld s x = true → failures (fetchChecks h (o.imm.toNat % 32) off shape) = [] →
        (∀ f, stageTile s s.cur.core s.cur.bank (fetchJob s h off shape) = .ok f →
          ArrivesAs (.tfet x o) s 48 (fun c => { c with fslots := tset c.fslots n f }))
        ∧ ∀ e, stageTile s s.cur.core s.cur.bank (fetchJob s h off shape) = .error e → (me s).deferred = [] →
          ∃ t, exec (.tfet x o) s = .next t ∧ ∀ k, 1 ≤ k → ∃ v,
            exec (.variableResultArrival s.cur.core s.nextId) (after k t) = .next v ∧
            me (after (48 - k) v) = { me s with
              fslots := tset (me s).fslots n FSlot.reset,
              deferred := [{ cause := e.1, tval := BitVec.ofNat 64 (n + 256 * e.2.1 + 65536 * e.2.2), slot := s.cur.slot,
                             due := 48 - k, wp := 0 }] }))
  ∧ ∀ (s : State) (x : Mod) (o : MXW), Quiet s →
    LandsAs (.trel x o) s 1 (when_ (guardHeld s x) (fun c => { c with fslots := tset c.fslots o.t.toNat FSlot.reset }))

/-- R279 to R281: an accord instruction whose checks pass writes what it generates, projects or finds from its operands as they stand, notes the first
watch match of its bundle, and changes nothing else; under a false guard it changes nothing. -/
def Obligations.AccordInstructionsWrite : Prop :=
  ∀ (s : State) (i : Instr) (x : Mod) (o : MXW) (l : List (Option Bad)) (kind : AccordKind) (count last idle : Nat) (ws : List (Nat × Nat)),
    Quiet s → SpSettled s → matrixChecks s i = some (x, l) → accordForm s i = some (x, o, kind, count, last, idle, ws) →
    let h := tileHandle (heldG s o.a.toNat)
    (guardHeld s x = false → LandsAs i s idle id)
    ∧ (guardHeld s x = true → failures l = [] → SettlesTo i s last (fun u =>
        noteHit ((accordWrites (spHeld s) kind (heldG s o.b.toNat).toNat h.off (tilePitch h) count).foldl
            (fun u w => landWrite u s.cur.core s.cur.bank w.2) u)
          true ((ws.head?).getD (0, 0)).1 (ws.flatMap (fun r => (List.range r.2).map (fun k => r.1 + k)))))

namespace Sys2Proof.Claims

/-! ### Engines, tags, semaphores, segments (R287 to R317) -/

/-- The bundle blocks: nothing but its outcome changes (R288). -/
def Blocks (i : Instr) (s : State) : Prop := exec i s = .next { s with cur := { s.cur with out := .blocked } }

/-- A command-issuing instruction (R293 to R297, R314): guard, tag, the handle its page faults name, its checks in order, the kind of its command, the
status it already has, and what its acceptance changes beside. -/
structure CommandForm where
  x      : Mod
  tag    : Nat
  handle : Nat
  checks : List (Option Bad)
  kind   : CmdKind
  status : Nat
  orders : Bool × Bool × Nat
  port   : State → State

/-- The halves of a near word: offset and length (R293, R297). -/
def lowHalf (w : Word) : Nat := w.toNat % 2 ^ 32
def highHalf (w : Word) : Nat := w.toNat / 2 ^ 32

/-- The forms of the five. -/
def commandForm (s : State) : Instr → Option CommandForm
  | .cpy x o =>
    let dir := o.sub.toNat % 4
    let far := heldG s o.a.toNat
    let near := heldG s o.b.toNat
    let h := heldH s (o.d.toNat % 32)
    let n := highHalf near
    let tag := o.tag.toNat
    let peer := dir == 2 && far.getLsbD 48
    let pre := packChecks s o n (dir != 2) ++ [badIf (tagBusy s tag) (cmdBad tag 1), syncBad s tag o.signal peer (heldG s o.c.toNat)]
    let page := fun len perm => pageChecks h (o.d.toNat % 32) far.toNat len perm o.sealed
    let sp := fun store => [spCheck s s.cur.core [(lowHalf near, n)] store 1]
    some { x := x, tag := tag, handle := if dir ≤ 1 then o.d.toNat % 32 else 0,
           checks := pre ++ (if dir = 0 then page (if o.cmp || o.sealed then min n 1 else n) 0 ++ sp true
             else if dir = 1 then page n 1 ++ sp false else farChecks s tag far (some n) ++ sp false),
           kind := .cpy dir (lowHalf near) n (hBase h) (pageBytes (hSize h)) (if dir = 2 then lowHalf far else far.toNat)
             (bits far.toNat 32 7) (if peer then bits far.toNat 39 9 else 512) o.cmp o.sealed (o.sub.toNat / 8 % 8),
           status := 0, orders := (o.acq, o.rel, o.scope.toNat), port := id }
  | .cpyt x o =>
    let dir := o.sub.toNat % 4
    let far := heldG s o.a.toNat
    let near := heldG s o.b.toNat
    let h := heldH s (o.d.toNat % 32)
    let tag := o.tag.toNat
    let peer := dir == 2 && far.getLsbD 48
    some { x := x, tag := tag, handle := o.d.toNat % 32,
           checks := [badIf (o.cmp || o.sealed) (cmdBad tag 3), badIf (tagBusy s tag) (cmdBad tag 1),
               syncBad s tag o.signal peer (heldG s o.c.toNat)]
             ++ (if dir = 2 then farChecks s tag far none else [checkState h (o.d.toNat % 32) 0, namesCode h far.toNat]),
           kind := .cpyt dir (lowHalf near) (highHalf near) (hBase h) (pageBytes (hSize h))
             (if dir = 2 then BitVec.ofNat 64 (lowHalf far) else far) (bits far.toNat 32 7) (if peer then bits far.toNat 39 9 else 512) o.nofill
             (dir != 2 && (hSealed h || !bit (hPerms h) (if dir == 0 then 0 else 1))),
           status := 0, orders := (o.acq, o.rel, o.scope.toNat), port := id }
  | .cfill x o =>
    let near := heldG s o.b.toNat
    let h := heldH s (o.d.toNat % 32)
    let n := highHalf near
    let tag := o.tag.toNat
    let global := o.sub.getLsbD 0
    some { x := x, tag := tag, handle := o.d.toNat % 32,
           checks := [badIf (o.cmp || o.sealed) (cmdBad tag 3), badIf (tagBusy s tag) (cmdBad tag 1),
               syncBad s tag o.signal false (heldG s o.c.toNat)]
             ++ (if global then pageChecks h (o.d.toNat % 32) (lowHalf near) n 1 false
                 else [spCheck s s.cur.core [(lowHalf near, n)] true 1]),
           kind := .cfill global (if global then hBase h + lowHalf near else lowHalf near) n (heldG s o.a.toNat),
           status := 0, orders := (o.acq, o.rel, o.scope.toNat), port := id }
  | .lsend x o =>
    let buf := (heldG s o.a.toNat).toNat
    let len := (heldG s o.b.toNat).toNat
    let t := (heldG s o.c.toNat).toNat
    let busy := (portAt s o.port.toNat).sends.any (fun w => windowsMeet t (windowEnd t len) w.1 w.2)
    some { x := x, tag := o.sub.toNat % 64, handle := 0, checks := linkChecks s o buf len t false,
           kind := .lsend o.port.toNat (o.sub.toNat / 64 % 256) buf len t, status := if busy then 0x0A else 0, orders := (false, false, 0),
           port := fun u => if busy then u else addSend u o.port.toNat t (windowEnd t len) }
  | .lrecv x o =>
    let buf := (heldG s o.a.toNat).toNat
    let len := (heldG s o.b.toNat).toNat
    let t := (heldG s o.c.toNat).toNat
    let busy := (portAt s o.port.toNat).recvs.any (fun w => windowsMeet t (windowEnd t len) w.2.1 w.2.2)
    some { x := x, tag := o.sub.toNat % 64, handle := 0, checks := linkChecks s o buf len t true,
           kind := .lrecv o.port.toNat (o.sub.toNat / 64 % 256) buf len t, status := if busy then 0x0A else 0, orders := (false, false, 0),
           port := fun u => if busy then u else addRecv u o.port.toNat (o.sub.toNat / 64 % 256) t (windowEnd t len) }
  | _ => none

/-- The wait and the signal of a command by its sync word (R290). -/
def syncOf (s : State) : Instr → Option (ENW × Bool)
  | .cpy _ o | .cpyt _ o => some (o, o.sub.toNat % 4 == 2 && (heldG s o.a.toNat).getLsbD 48)
  | .cfill _ o => some (o, false)
  | _ => none

/-- The bits of `ctb` that a tag instruction's mask picks. -/
def tagsPicked (s : State) (o : ENW) : Word := (myCore s).ctb &&& heldG s o.a.toNat

/-- The semaphore that a word names, and the low 32 bits of g[a]. -/
def semHeld (s : State) (o : ENW) : Nat := (tgetD (myCore s).sems (o.sub.toNat % 256) 0).toNat
def semValue (s : State) (o : ENW) : Nat := (heldG s o.a.toNat).toNat % 2 ^ 32

/-- A wait that an instruction makes without ordering effect: guard and condition (R302, R303, R312, R314). -/
def waitOf (s : State) : Instr → Option (Mod × Bool)
  | .ctwany x o => if heldG s o.a.toNat = 0 then none else some (x, tagsPicked s o != 0)
  | .ctwall x o => some (x, tagsPicked s o == heldG s o.a.toNat)
  | .semwait x o => if o.acq then none else some (x, decide (semValue s o ≤ semHeld s o))
  | .efence x _ => some (x, (myCore s).cmds.all (fun c => c.bank != s.cur.bank)
      && s.signals.all (fun g => !(g.core == s.cur.core && g.bank == s.cur.bank)))
  | .lwait x o => some (x, decide ((heldG s o.a.toNat).toNat ≤ s.gclk))
  | _ => none

/-- A result that record mode logs (R317): guard, destination, due cycle, value. -/
def resultOf (s : State) : Instr → Option (Mod × Nat × Nat × Word)
  | .ctffr x o => some (x, o.d.toNat, 2, BitVec.ofNat 64 (((List.range 64).find? (fun i => (tagsPicked s o).getLsbD i)).getD 64))
  | .semrd x o => some (x, o.d.toNat, 2, BitVec.ofNat 64 (semHeld s o))
  | .squery x o => some (x, o.d.toNat, 4, queryWord s (heldG s o.a.toNat).toNat)
  | .lclk x o => some (x, o.d.toNat, 1, BitVec.ofNat 64 s.gclk)
  | _ => none

/-- The acting strand has no atomic on its way, and after the epochs that close now another is still to close before a boundary (R338). -/
def EpochFirst (s : State) : Prop := atomicsOf s s.cur.core s.cur.bank = [] ∧ epochPending (closeEpochs s) = true

/-- Every context of a core has its event latch set (R365). -/
def latched (c : Core) : Core :=
  { c with b0 := { c.b0 with latch := true }, b1 := { c.b1 with latch := true }, sec := { c.sec with latch := true } }

/-- A semaphore of the acting core takes a value, and the event latches are set (R303, R365). -/
def setSem (n v : Nat) (u : State) : State := modMyCore u (fun c => latched { c with sems := tset c.sems n (BitVec.ofNat 32 v) })

end Sys2Proof.Claims

/-- R287, R298, R290, R314: a command whose checks pass is accepted: it joins its core's commands, not started, with its tag, kind, ordering, wait and
signal; its tag's bit is cleared, its status zeroed, and a link transfer outside every other window takes its own; nothing else changes. Under a false guard
nothing changes. -/
def Obligations.CommandsAreAccepted : Prop :=
  ∀ (s : State) (i : Instr) (F : CommandForm), Quiet s → commandForm s i = some F →
    (guardHeld s F.x = false → LandsAs i s 1 id)
    ∧ (guardHeld s F.x = true → failures F.checks = [] → ∃ c : Cmd,
        (c.id = s.nextId ∧ c.bank = s.cur.bank ∧ c.tag = F.tag ∧ c.kind = F.kind ∧ c.started = false ∧ c.status = F.status
          ∧ c.moved = 0 ∧ c.part = (me s).part ∧ c.pasid = (me s).pasid ∧ (c.acq, c.rel, c.scope) = F.orders)
        ∧ (∀ o peer, syncOf s i = some (o, peer) → c.wait = syncWait (heldG s o.c.toNat) o.wait ∧
            c.signal = syncSignal s (heldG s o.c.toNat) o.signal peer)
        ∧ SettlesTo i s 1 (fun u => F.port (modMyCore { u with nextId := u.nextId + 1 } (fun k =>
            { k with cmds := k.cmds ++ [c], ctb := k.ctb &&& ~~~((1 : Word) <<< F.tag), tgst := tset k.tgst F.tag 0 }))))

/-- R199, R205, R206, R273 to R281, R300: an MX instruction, and a command of the EN or LK slot, whose guard is true traps with the cause and `tval` of the
first of its checks that fails, and with no effect. Which of several failing checks comes first is the order of the model (log entry 30). -/
def Obligations.MatrixAndCommandRefusalsTrap : Prop :=
  (∀ (s : State) (i : Instr) (x : Mod) (l : List (Option Bad)) (b : Bad) (r : List Bad), Settled s → matrixChecks s i = some (x, l) →
     guardHeld s x = true → failures l = b :: r → TrapsAt i s b.cause b.tval)
  ∧ (∀ (s : State) (i : Instr) (F : CommandForm) (b : Bad) (r : List Bad), Settled s → commandForm s i = some F → guardHeld s F.x = true →
       failures F.checks = b :: r →
       b.cause = 0x08 ∨ b.cause = 0x09 ∨ b.cause = 0x0A ∨ b.cause = 0x0B ∨ b.cause = 0x0C ∨ b.cause = 0x0D ∨ b.cause = 0x1D →
       TrapsAt i s b.cause b.tval)

/-- R288, R302, R303, R312, R314, R330: a wait whose condition holds, or whose guard is false, goes on and changes nothing; otherwise it blocks its bundle; a
`CTWANY` of no tag traps with 0x1D and reason 0x0A; a `SEMWAIT` with `.acq` whose semaphore is there acquires at its scope when its boundary may take its place,
and blocks while its gclk goes on, or while an epoch that does not close with it comes first (log entry 54). -/
def Obligations.WaitsGoOnOrBlock : Prop :=
  (∀ (s : State) (i : Instr) (x : Mod) (c : Bool), Quiet s → waitOf s i = some (x, c) →
    (guardHeld s x = false ∨ c = true → LandsAs i s 1 id) ∧ (guardHeld s x = true → c = false → Blocks i s))
  ∧ (∀ (s : State) (x : Mod) (o : ENW), Settled s → guardHeld s x = true → heldG s o.a.toNat = 0 →
      TrapsAt (.ctwany x o) s 0x1D (BitVec.ofNat 64 (256 * 0x0A)))
  ∧ ∀ (s : State) (x : Mod) (o : ENW), Settled s → Unlogged s s.cur.core s.cur.bank → o.acq = true →
    (guardHeld s x = false → LandsAs (.semwait x o) s 1 id)
    ∧ (guardHeld s x = true → semHeld s o < semValue s o → Blocks (.semwait x o) s)
    ∧ (guardHeld s x = true → semValue s o ≤ semHeld s o →
        (MayBound s → SettlesTo (.semwait x o) s 1 (fun u =>
          refresh (takePlace u (myPlace s)) s.cur.core s.cur.bank o.scope.toNat (myPlace s)))
        ∧ (gclkMoves s = false ∨ EpochFirst s → Blocks (.semwait x o) s))

/-- R302, R303, R309, R314, R317: outside record and replay, `CTFFR`, `SEMRD`, `SQUERY` and `LCLK` write the live value to g[d] when it is due, under their
guard, and change nothing else. -/
def Obligations.ResultsReadLiveValues : Prop :=
  ∀ (s : State) (i : Instr) (x : Mod) (d due : Nat) (v : Word), Quiet s → Unlogged s s.cur.core s.cur.bank → resultOf s i = some (x, d, due, v) →
    LandsAs i s due (when_ (guardHeld s x) (setG d v))

/-- R302, R303, R304, R327: `CTCLR` clears the tags of its mask, `SEMSET` and a `SEMSIG` to its own core, by either form, change the semaphore and set the event latches, a
`SEMSIG` to another core of the partition sets out, either with `.rel` after a release at its scope, when that boundary may take its place; an addition past 2^32 - 1 traps with 0x1C, and a target outside
the partition with 0x1D and reason 0x0B; under a false guard nothing changes. -/
def Obligations.SignalsAndTagClears : Prop :=
  (∀ (s : State) (x : Mod) (o : ENW), Quiet s →
    (guardHeld s x = false → LandsAs (.ctclr x o) s 1 id ∧ LandsAs (.semset x o) s 1 id ∧ LandsAs (.semsig x o) s 1 id)
    ∧ (guardHeld s x = true →
        SettlesTo (.ctclr x o) s 1 (fun u => modMyCore u (fun c => { c with ctb := c.ctb &&& ~~~heldG s o.a.toNat }))
        ∧ SettlesTo (.semset x o) s 1 (setSem (o.sub.toNat % 256) (semValue s o))))
  ∧ ∀ (s : State) (x : Mod) (o : ENW), Settled s → Unlogged s s.cur.core s.cur.bank → guardHeld s x = true →
    let released := fun u => if o.rel then publish (takePlace u (myPlace s)) s.cur.core s.cur.bank o.scope.toNat (myPlace s) else u
    let n := o.sub.toNat % 256
    let core := (heldG s o.b.toNat).toNat % 128
    let here := o.sub.getLsbD 8 = false ∨ (core = s.cur.core ∧ core ∈ coresOf s (me s).part)
    (here → semHeld s o + semValue s o < 2 ^ 32 → (o.rel = true → MayBound s) →
      SettlesTo (.semsig x o) s 1 (fun u => setSem n (semHeld s o + semValue s o) (released u)))
    ∧ (here → 2 ^ 32 ≤ semHeld s o + semValue s o →
        TrapsAt (.semsig x o) s 0x1C (BitVec.ofNat 64 (n + 256 * (s.cur.core % 128))))
    ∧ (o.sub.getLsbD 8 = true → core ∉ coresOf s (me s).part → TrapsAt (.semsig x o) s 0x1D (BitVec.ofNat 64 (256 * 0x0B)))
    ∧ (o.sub.getLsbD 8 = true → core ∈ coresOf s (me s).part → core ≠ s.cur.core → (o.rel = true → MayBound s) → SettlesTo (.semsig x o) s 1 (fun u =>
        let u := released u
        { u with nextId := u.nextId + 1, signals := u.signals ++
            [{ id := s.nextId, core := s.cur.core, bank := s.cur.bank, target := core, sem := n, inc := semValue s o }] }))

/-- R306, R59, R310: `SATT` of a copy that can be attached writes its handle, due 4, and takes the attachment, a missing one traps with 0x10 for the leaf and a
write attachment of a frozen one with 0x11 and reason 9; `SDET` of an attachment with no copy command pending into it releases it, with one pending it
blocks, and without the attachment it traps with 0x11 and reason 5; under a false guard nothing changes. Which attachment a name picks, where the strand holds
two of one name, is the model's choice (log entry 55). -/
def Obligations.SegmentsAttachAndDetach : Prop :=
  (∀ (s : State) (x : Mod) (o : ENW), Settled s →
    let name := (heldG s o.a.toNat).toNat
    let write := o.sub.getLsbD 0
    (guardHeld s x = false → LandsAs (.satt x o) s 4 id)
    ∧ (guardHeld s x = true → (∀ d, dirOf s s.cur.core (me s).part name = some d → copyHit d = false) →
        TrapsAt (.satt x o) s 0x10 (BitVec.ofNat 64 name))
    ∧ ∀ d, guardHeld s x = true → dirOf s s.cur.core (me s).part name = some d → copyHit d = true →
        (write = true → d.state = .frozen → TrapsAt (.satt x o) s 0x11 9)
        ∧ (write = false ∨ d.state ≠ .frozen → SettlesTo (.satt x o) s 4 (fun u => modMe (attachTo u d write) (setG o.d.toNat
            (BitVec.ofNat 64 (d.off % 2 ^ 32 + 2 ^ 32 * (d.size / 4096 % 4096) + (if write then 2 ^ 44 else 0) + 2 ^ 48 * (d.version % 2 ^ 16)))))))
  ∧ ∀ (s : State) (x : Mod) (o : ENW), Settled s →
    let name := (heldG s o.a.toNat).toNat
    (guardHeld s x = false → LandsAs (.sdet x o) s 1 id)
    ∧ (guardHeld s x = true → (∀ a ∈ (me s).atts, a.name ≠ name) → TrapsAt (.sdet x o) s 0x11 5)
    ∧ ∀ a d, guardHeld s x = true → myCopy s name = some (a, d) →
        (copyPending s d = true → Blocks (.sdet x o) s)
        ∧ (copyPending s d = false → SettlesTo (.sdet x o) s 1 (fun u =>
            modMe (releaseAttach u s.cur.core a) (fun c => { c with atts := dropAtt a c.atts })))

/-- R307, R308, R402: `SCREATE`, `SFREEZE` and `SDROP` block their bundle with their request until it is answered; refused, they trap with 0x11 and the
reason; answered with none, they create the segment with its copy attached, write it back and freeze it, or remove it; under a false guard nothing changes. Which
attachment a name picks for `SFREEZE`, where the strand holds two of one name, is the model's choice (log entry 55). -/
def Obligations.SegmentRequestsWaitForTheirAnswer : Prop :=
  ∀ (s : State) (x : Mod) (o : ENW), Settled s →
    let name := (heldG s o.a.toNat).toNat
    let size := (heldG s o.b.toNat).toNat
    let image := (heldG s o.c.toNat).toNat
    let unasked := fun u => modMe u (fun c => { c with ask := .none })
    let waits := fun (i : Instr) (r : Request) => exec i s = .next (modMe { s with cur := { s.cur with out := .blocked } } (fun c => { c with ask := .waiting r }))
    (guardHeld s x = false → LandsAs (.screate x o) s 4 id ∧ LandsAs (.sfreeze x o) s 1 id ∧ LandsAs (.sdrop x o) s 1 id)
    ∧ (guardHeld s x = true → createBad s name size image = true → TrapsAt (.screate x o) s 0x11 0x0B)
    ∧ (guardHeld s x = true → freezeOk s name = false → TrapsAt (.sfreeze x o) s 0x11 6)
    ∧ (guardHeld s x = true → (me s).ask = .none →
        (createBad s name size image = false → waits (.screate x o) (.create name size))
        ∧ (freezeOk s name = true → waits (.sfreeze x o) (.freeze name)) ∧ waits (.sdrop x o) (.drop name))
    ∧ (∀ off d, guardHeld s x = true → createBad s name size image = false → (me s).ask = .answered (.create name size) 0 →
        let v := unasked { s with nextId := s.nextId + 1 }
        judgeCreate v (me s).part name = none → spaceFor v s.cur.core size = some off →
        let w := createAt v name size image (o.sub.toNat % 4) off (o.sub.getLsbD 2)
        dirOf w s.cur.core (me s).part name = some d →
        SettlesTo (.screate x o) s 4 (fun _ => modMe (attachTo w d true) (setG o.d.toNat (segHandle d true))))
    ∧ (∀ a d, guardHeld s x = true → freezeOk s name = true → (me s).ask = .answered (.freeze name) 0 →
        myCopy s name = some (a, d) → SettlesTo (.sfreeze x o) s 1 (fun u => freezeNow (unasked u) d))
    ∧ (∀ g, guardHeld s x = true → (me s).ask = .answered (.drop name) 0 → judgeDrop s (me s).part name = .ok g →
        SettlesTo (.sdrop x o) s 1 (fun u => removeSegment (unasked u) g))
    ∧ ∀ reason, guardHeld s x = true → reason ≠ 0 → (me s).ask = .answered (.drop name) reason →
        TrapsAt (.sdrop x o) s 0x11 (BitVec.ofNat 64 reason)

/-- R311, R319, R320, R322, R249: outside record and replay, a `PHASE` whose boundary may take its place publishes the strand's stores and refreshes at its
scope, at that place, and at die scope or wider brings its format windows into force; one whose gclk goes on, or before which an epoch comes that does not
close with it (log entry 54), blocks, and so does one with a store that has a bridge in training to cross (R395); under a false guard nothing changes. -/
def Obligations.PhasePublishesAndRefreshes : Prop :=
  ∀ (s : State) (x : Mod) (o : ENW), Settled s → Unlogged s s.cur.core s.cur.bank →
    (guardHeld s x = false → LandsAs (.phase x o) s 1 id)
    ∧ (guardHeld s x = true → gclkMoves s = false ∨ EpochFirst s → Blocks (.phase x o) s)
    ∧ (guardHeld s x = true → s.ready.getLsbD 52 = false → s.failed.getLsbD 52 = false →
        (∃ w ∈ (me s).own, ∃ b ∈ w.bytes, b.1 / 2 ^ 36 / 6 ≠ s.cur.core / 48 ∧ s.conf.hbmStacks / 2 ^ (b.1 / 2 ^ 36) % 2 = 1) → Blocks (.phase x o) s)
    ∧ (guardHeld s x = true → MayBound s → Trained s → SettlesTo (.phase x o) s 1 (fun u =>
        let u := publish (takePlace u (myPlace s)) s.cur.core s.cur.bank o.scope.toNat (myPlace s)
        let u := refresh u s.cur.core s.cur.bank o.scope.toNat (myPlace s)
        if 2 ≤ o.scope.toNat then applyWindows u s.cur.core s.cur.bank else u))

namespace Sys2Proof.Claims

/-! ### Traps and the system instructions (R346 to R368, R384) -/

/-- The value that a CSR write leaves: the operand, or the register with bits set or cleared (R362). -/
def csrNew (s : State) : Instr → Option (Mod × SI × Word)
  | .csrw x o => some (x, o, heldG s o.a.toNat)
  | .csrs x o => some (x, o, csrValue s s.cur.core s.cur.bank (o.imm.toNat % 4096) ||| heldG s o.a.toNat)
  | .csrc x o => some (x, o, csrValue s s.cur.core s.cur.bank (o.imm.toNat % 4096) &&& ~~~heldG s o.a.toNat)
  | _ => none

/-- A context as R351 and R352 leave it at the entry of its handler: the trap state, the sequencer set aside, and the sequencer at the handler. -/
def handlerEntered (c : Ctx) (secondary : Bool) (cause slot : Nat) (tval : Word) (d : Delivery) (page home off : Nat) (dst : Nat × Nat × Nat) : Ctx :=
  { c with
    life := .ready, ask := .none, stall := (0, 0)
    tcause := BitVec.ofNat 64 (cause + 2 ^ 8 * slot + (if d = .imprecise then 2 ^ 13 else 0) + (if d = .deferred then 2 ^ 14 else 0))
    tval := tval, epc := BitVec.ofNat 64 (page + off), ehome := BitVec.ofNat 64 home
    tstat := BitVec.ofNat 64 (1 + 2 * ((c.seq.pend.map (fun p => p.delays)).getD 0 % 4) + 2 ^ 4 * (c.seq.loops.length % 8)
      + (if secondary then 2 ^ 7 else 0) + (if c.tstat.getLsbD 8 then 2 ^ 8 else 0))
    tpbt := (c.seq.pend.map (fun p => p.target)).getD 0
    aside := some { pend := c.seq.pend, loops := c.seq.loops, measured := c.measured, skipWatch := c.skipWatch, skipBreak := c.skipBreak
                    ticked := c.ticked, traces := c.traces }
    measured := false, skipWatch := false, skipBreak := false, ticked := false, traces := []
    seq := { page := dst.1, off := dst.2.1, home := dst.2.2, pend := none, loops := [], entering := false, crossing := dst.1 != page } }

/-- The instructions of the SY slot that only change the acting context or its core when they run (R365, R367, R368). -/
def systemChange (s : State) : Instr → Option (Mod × Nat × (State → State))
  | .logctlHw x o => some (x, 2, fun u => modMe u (setG o.d.toNat (highWater s o)))
  | .logctlFlush x o => some (x, 1, fun u => modMe u (setG o.d.toNat (highWater s o)))
  | .logctlDrift x o => some (x, 1, fun u => modMe u (fun c => { c with drift := (heldG s o.a.toNat).toNat % 2 ^ 32 }))
  | .logctlMark x o =>
    let l := o.imm.toNat % 256
    some (x, 1, fun u => record u s.cur.core s.cur.bank l [stampWord 8 s.cur.bank 0 (me s).scyc, heldG s o.a.toNat])
  | .dstop x _ => some (x, 1, fun u =>
      if (partAt s (me s).part).stctl.getLsbD 0 then
        let u := modMyCore u (fun c => { c with frozen := true })
        modPart u (me s).part (fun p => if p.halt = .none then { p with halt := .stopping s.gclk s.cur.core s.cur.bank 2 } else p)
      else u)
  | _ => none

end Sys2Proof.Claims

/-- R351 to R354: a trap that a handler serves, taken with nothing in flight and no handler running, leaves in its context the trap state (cause, slot and
delivery, `tval`, the place of the bundle, the pending branch, loop depth and stream), sets the sequencer aside, and goes on at the handler, and nothing
else changes. Without a handler it ends the kernel with reason 1, and while the handler runs with reason 2: the context is discarded with its trap state,
and the partition's first report names reason, slot and cause, `tval` and the bundle's address. -/
def Obligations.TrapsEnterHandlerOrEndKernel : Prop :=
  (∀ (s : State) (core bank cause slot : Nat) (tval : Word) (d : Delivery) (page home off : Nat) (dst : Nat × Nat × Nat), bank < 3 →
     cause < 256 → slot < 32 → cause ≠ 0x04 → cause ≠ 0x05 → cause ≠ 0x23 → (ctxAt s core bank).flights = [] → atomicsOf s core bank = [] →
     inhibited (ctxAt s core bank) = false → handlerPlace s (ctxAt s core bank) = some dst →
     trapAt s core bank cause slot tval d none page home off =
       modCtx s core bank (fun c => handlerEntered c (bank == 2) cause slot tval d page home off dst))
  ∧ (∀ (s : State) (core bank cause slot : Nat) (tval : Word) (d : Delivery) (page home off : Nat), bank < 3 → cause < 256 → slot < 32 →
       cause ≠ 0x04 → cause ≠ 0x05 → cause ≠ 0x23 → (ctxAt s core bank).flights = [] → atomicsOf s core bank = [] →
       inhibited (ctxAt s core bank) = true ∨ handlerPlace s (ctxAt s core bank) = none →
       let x := ctxAt s core bank
       let t := trapAt s core bank cause slot tval d none page home off
       (ctxAt t core bank).life = .discarded ∧ (ctxAt t core bank).tval = tval ∧ (ctxAt t core bank).epc = BitVec.ofNat 64 (page + off)
       ∧ ∀ k, (partAt s x.part).kernel = some k → k.report = none →
           let r := reportBytes (if inhibited x then 2 else 1) (x.ordinal % 2 ^ 32) bank core slot cause tval (BitVec.ofNat 64 (page + off))
           (partAt t x.part).kernel = some { k with report := some r })

/-- R363, R364, R351: a `TRAP` whose guard is true takes cause 0x30 with its immediate as `tval` after its bundle, with the place that would issue next in
`epc`; an `RFE` in a neutral handler takes back the sequencer set aside, clears inh and lost, and resumes at `epc`; out of a handler or in a Gelxis page it
traps with 0x03; under a false guard neither does anything. -/
def Obligations.TrapAndReturn : Prop :=
  (∀ (s : State) (x : Mod) (o : SI), Settled s →
    (guardHeld s x = false → LandsAs (.trap x o) s 1 id)
    ∧ (guardHeld s x = true → ∀ dst, inhibited (me s) = false → handlerPlace s (me s) = some dst → s.cur.slot < 32 →
        exec (.trap x o) s = .next (modMe s (fun c => handlerEntered c (s.cur.bank == 2) 0x30 s.cur.slot (BitVec.ofNat 64 (o.imm.toNat % 2 ^ 16))
          .after (me s).seq.page (me s).seq.home (me s).seq.off dst))))
  ∧ ∀ (s : State) (x : Mod) (o : SR), Settled s →
    (guardHeld s x = false → LandsAs (.rfe x o) s 1 id)
    ∧ (guardHeld s x = true → s.cur.gelxis = true ∨ (me s).tstat.getLsbD 0 = false → TrapsAt (.rfe x o) s 0x03 0)
    ∧ ∀ a, guardHeld s x = true → s.cur.gelxis = false → (me s).tstat.getLsbD 0 = true → (me s).aside = some a →
        SettlesTo (.rfe x o) s 1 (fun u =>
          let u := modMe u (fun c => { c with
            aside := none, tstat := c.tstat &&& ~~~0x101, measured := a.measured, skipWatch := a.skipWatch, skipBreak := a.skipBreak
            ticked := a.ticked, traces := c.traces ++ a.traces
            seq := { page := c.epc.toNat / 4096 * 4096, off := c.epc.toNat % 4096, home := c.ehome.toNat, pend := a.pend, loops := a.loops,
                     entering := false, crossing := c.epc.toNat / 4096 * 4096 != s.cur.page } })
          { u with cur := { u.cur with moved := true } })

/-- R131, R142, R245, R246, R247, R248, R249, R301, R351, R361, R362, R378, R384: `CSRR` of a register that exists writes it to g[d], due 2; `CSRW`, `CSRS` and `CSRC`
that pass their checks write their value at the next cycle; a register that does not exist, or is a primary's named from the secondary stream, traps with 0x01,
and one that may not be written with 0x0C and reason 0x0A; under a false guard nothing changes. What lands in a register: `fmode` only a defined mode, `srng`
1 for 0, a key's quarter, a window with its writer as owner unless another partition holds it, a log's registers, and the defined bits of the others, the stop
registers of R384 among them. A write to a window that another partition holds leaves the windows, and what is to come into force of them, as they are, where
nothing of the writer is on its way and its trap finds a handler or it has no window write waiting. That the low bits of an address written to a log register
are dropped is the model's choice (log entry 26). -/
def Obligations.SpecialRegistersReadAndWrite : Prop :=
  (∀ (s : State) (x : Mod) (o : SI), Settled s →
    let n := o.imm.toNat % 4096
    (guardHeld s x = false → LandsAs (.csrr x o) s 2 id)
    ∧ (guardHeld s x = true → csrExists n = true → ¬ (s.cur.bank = 2 ∧ primaryCsr n = true) →
        LandsAs (.csrr x o) s 2 (setG o.d.toNat (csrValue s s.cur.core s.cur.bank n)))
    ∧ (guardHeld s x = true → csrExists n = false ∨ (s.cur.bank = 2 ∧ primaryCsr n = true) →
        TrapsAt (.csrr x o) s 0x01 (BitVec.ofNat 64 n)))
  ∧ (∀ (s : State) (i : Instr) (x : Mod) (o : SI) (v : Word), Settled s → csrNew s i = some (x, o, v) →
    let n := o.imm.toNat % 4096
    (guardHeld s x = false → LandsAs i s 1 id)
    ∧ (guardHeld s x = true → failures (csrWriteChecks s n v) = [] → SettlesTo i s 1 (fun u => writeCsr u s.cur.core s.cur.bank n v))
    ∧ (guardHeld s x = true → csrExists n = false → TrapsAt i s 0x01 (BitVec.ofNat 64 n))
    ∧ (guardHeld s x = true → csrExists n = true → ¬ (s.cur.bank = 2 ∧ primaryCsr n = true) → csrWritable n = false →
        TrapsAt i s 0x0C (BitVec.ofNat 64 (n + 10 * 2 ^ 57))))
  ∧ ∀ (s : State) (c : CtxId) (v : Word), c.core < 96 → c.bank < 2 →
    let part := (ctxAt s c.core c.bank).part
    let on := modCtx s c.core c.bank
    (v.toNat % 8 < 6 → Becomes (.fmodeWrite c v) s (on (fun x => { x with fmode := BitVec.ofNat 64 (v.toNat % 8) })))
    ∧ (v.toNat % 8 = 6 → Becomes (.fmodeWrite c v) s (if s.conf.features / 2 ^ 5 % 2 = 1 then on (fun x => { x with fmode := 6 }) else s))
    ∧ (v.toNat % 8 = 7 → Becomes (.fmodeWrite c v) s s)
    ∧ Becomes (.srngWrite c v) s (on (fun x => { x with srng := if v = 0 then 1 else v }))
    ∧ (∀ slot q, slot < 8 → q < 4 → Answers (.skeyWrite c (0x030 + 4 * slot + q) v) s (fun t =>
        let k0 := tgetD (partAt s part).keys slot KeySlot.reset
        let k := tgetD (partAt t part).keys slot KeySlot.reset
        (∀ r, r < 4 → k.key.toNat / 2 ^ (64 * r) % 2 ^ 64 = if r = q then v.toNat else k0.key.toNat / 2 ^ (64 * r) % 2 ^ 64)
        ∧ k.usable = (if q = 3 then true else k0.usable) ∧ k.counter = (if q = 3 then 0 else k0.counter)
        ∧ ∀ m, m ≠ slot → tgetD (partAt t part).keys m KeySlot.reset = tgetD (partAt s part).keys m KeySlot.reset))
    ∧ (∀ w f, w < 8 → f < 4 →
        let n := 0x100 + 4 * w + f
        let base := (windowAt s (dieOf c.core) w).base.toNat
        let held := base / 2 ^ 11 % 2 = 1 ∧ base / 2 ^ 4 % 32 ≠ part
        let served := inhibited (ctxAt s c.core c.bank) = false ∧ (handlerPlace s (ctxAt s c.core c.bank)).isSome
        let idle := (ctxAt s c.core c.bank).flights = [] ∧ atomicsOf s c.core c.bank = []
        (held → idle → served ∨ (∀ e ∈ s.winPend, ¬ (e.1 = c.core ∧ e.2.1 = c.bank)) → Answers (.formatWindowWrite c n v) s (fun t => t.windows = s.windows ∧ t.winPend = s.winPend))
        ∧ (¬ held → Answers (.formatWindowWrite c n v) s (fun t =>
            csrValue t c.core c.bank n = (match f with
              | 0 => (v &&& 0x000FFFFFFFFFF80F) ||| BitVec.ofNat 64 (16 * part)
              | 1 => v &&& 0x000FFFFFFFFFF000
              | _ => v &&& 0x000FFFFFFFFFFFFF)
            ∧ t.winForce = s.winForce ∧ ∀ m, m / 4 ≠ n / 4 → csrValue t c.core c.bank m = csrValue s c.core c.bank m)))
    ∧ (∀ l f, l < 6 → f < 6 → ¬ (l = 4 ∧ f = 2) → Answers (.logCsrWrite c (0x140 + 8 * l + f) v) s (fun t =>
        csrValue t c.core c.bank (0x140 + 8 * l + f) = (if f = 2 ∨ f = 5 then v &&& ~~~(7 : Word) else v &&& ~~~(0xFFF : Word))
        ∧ (f = 0 → l ≠ 4 → csrValue t c.core c.bank (0x142 + 8 * l) = v &&& ~~~(0xFFF : Word))
        ∧ (f = 3 → csrValue t c.core c.bank (0x145 + 8 * l) = v &&& ~~~(0xFFF : Word))))
    ∧ ∀ n m, (n, m) ∈ ([(0x003, BitVec.allOnes 64), (0x006, BitVec.allOnes 64), (0x010, 0x1F1F1F1F), (0x013, 1), (0x014, 15), (0x015, 63), (0x016, 63), (0x180, 1),
        (0x181, 0xFFFFFFFFFFFFF000), (0x182, 0x8000FFFFFFFFFFFF), (0x183, 0xFFFFFFFFFFFFFFFD)] : List (Nat × Word)) →
      Answers (.csrWrite c n v) s (fun t => csrValue t c.core c.bank n = v &&& m
        ∧ ∀ n', n' ≠ n → csrValue t c.core c.bank n' = csrValue s c.core c.bank n')

/-- R366: a scratchpad `WPSET` in the window whose number no slice holds installs its watch and writes 2 to g[d]; a global one asks its slice, and when
answered installs its watch with a part at the slice that has room, g[d] being 0, or without, g[d] being 1; `WPCLR` removes the watch; under a false guard
nothing changes. -/
def Obligations.WatchesInstallAndClear : Prop :=
  ∀ (s : State) (x : Mod) (o : SI), Quiet s →
    let mask := o.imm.toNat % 2 ^ 16
    let w := o.imm.toNat / 2 ^ 16 % 4
    let off := (heldG s o.b.toNat).toNat
    let h := heldH s (o.a.toNat % 32)
    let mine := fun (e : SliceWatch) => e.core == s.cur.core && e.w == w
    let cleared := fun u => { modMyCore u (fun c => { c with watches := tdel c.watches w }) with
      sliceWatches := u.sliceWatches.filter (fun e => !mine e) }
    let free := ∀ e ∈ s.sliceWatches, ¬ mine e
    (guardHeld s x = false → LandsAs (.wpset x o) s 1 id ∧ LandsAs (.wpclr x o) s 1 id)
    ∧ (guardHeld s x = true → free → SettlesTo (.wpclr x o) s 1 cleared)
    ∧ (guardHeld s x = true → free → mask = 0 → SettlesTo (.wpset x o) s 1 (fun u => modMe (cleared u) (setG o.d.toNat 0)))
    ∧ (guardHeld s x = true → free → mask ≠ 0 → o.imm.getLsbD 18 = true → off % 16 = 0 → off + 16 ≤ windowOf s s.cur.core →
        let e : Watch := { sp := true, at_ := off, va := 0, mask := mask, slice := false, bank := s.cur.bank }
        SettlesTo (.wpset x o) s 1 (fun u => modMe (modMyCore (cleared u) (fun c => { c with watches := tset c.watches w e })) (setG o.d.toNat 2)))
    ∧ (guardHeld s x = true → mask ≠ 0 → o.imm.getLsbD 18 = false → hState h = 1 → off % 16 = 0 → off + 16 ≤ pageBytes (hSize h) →
        ((me s).ask = .none → exec (.wpset x o) s =
          .next (modMe { s with cur := { s.cur with out := .blocked } } (fun c => { c with ask := .waiting (.watch w) })))
        ∧ ((me s).ask = .answered (.watch w) 0 →
            let n := sliceNo (hBase h + off)
            let full := decide (8 ≤ ((s.sliceWatches.filter (fun e => !mine e)).filter (fun e => e.slice == n)).length)
            let e : Watch := { sp := false, at_ := hBase h + off, va := BitVec.ofNat 64 (hVa h + off), mask := mask, slice := !full, bank := s.cur.bank }
            SettlesTo (.wpset x o) s 1 (fun u =>
              let u := modMyCore (cleared (modMe u (fun c => { c with ask := .none }))) (fun c => { c with watches := tset c.watches w e })
              modMe (if full then u else { u with sliceWatches := u.sliceWatches ++ [{ slice := n, core := s.cur.core, w := w }] })
                (setG o.d.toNat (if full then 1 else 0)))))

/-- R365, R367, R368, R384, R354, R128: `IDLE` with the event latch set clears it, and blocks with it clear; `LOGCTL` reads a high-water, writes a mark
outside replay, or sets the drift word; `DSTOP` stops its partition where stops are enabled; a `HALT` with nothing in flight ends its kernel with reason 3; an
`SSTART` of the primary stream whose pointer names an entry starts an empty secondary there and writes 0, or writes 1 when it is busy, and traps with 0x03 on
the secondary stream. Under a false guard nothing changes. -/
def Obligations.SystemInstructionsAct : Prop :=
  ((∀ (s : State) (x : Mod) (o : SR), Quiet s →
     (guardHeld s x = false ∨ (me s).latch = true → LandsAs (.idle x o) s 1 (when_ (guardHeld s x) (fun c => { c with latch := false })))
     ∧ (guardHeld s x = true → (me s).latch = false → Blocks (.idle x o) s))
   ∧ ∀ (s : State) (i : Instr) (x : Mod) (n : Nat) (f : State → State), Quiet s → replaying s (me s).part = false →
     systemChange s i = some (x, n, f) →
     (guardHeld s x = false → LandsAs i s n id) ∧ (guardHeld s x = true → SettlesTo i s n f))
  ∧ ((∀ (s : State) (x : Mod) (o : SR), Settled s →
        (guardHeld s x = false → LandsAs (.halt x o) s 1 id)
        ∧ (guardHeld s x = true → Answers (.halt x o) s (fun t => (me t).life = .discarded
            ∧ (me t).g = (me s).g ∧ (me t).atts = []
            ∧ ∀ k, (partAt s (me s).part).kernel = some k → k.report = none →
                let r := reportBytes 3 ((me s).ordinal % 2 ^ 32) s.cur.bank s.cur.core 14 0 (heldG s o.a.toNat) (BitVec.ofNat 64 (s.cur.page + s.cur.off))
                (partAt t (me s).part).kernel = some { k with report := some r })))
     ∧ (∀ (s : State) (x : Mod) (o : SR), Settled s →
          let ptr := heldG s o.a.toNat
          (guardHeld s x = false → LandsAs (.sstart x o) s 2 id)
          ∧ (guardHeld s x = true → s.cur.bank = 2 → TrapsAt (.sstart x o) s 0x03 0)
          ∧ (∀ p, guardHeld s x = true → s.cur.bank ≠ 2 → checkPointer s (me s).pasid ptr [0] = .ok p → (myCore s).sec.life ≠ .empty →
              LandsAs (.sstart x o) s 2 (setG o.d.toNat 1))
          ∧ ∀ p, guardHeld s x = true → s.cur.bank ≠ 2 → checkPointer s (me s).pasid ptr [0] = .ok p → (myCore s).sec.life = .empty →
              SettlesTo (.sstart x o) s 2 (fun u => modMyCore (modMe { u with nextId := u.nextId + 1 } (setG o.d.toNat 0)) (fun c => { c with
                secHold := 4
                sec := { Ctx.reset with
                  latch := c.sec.latch, wpinfo := c.sec.wpinfo
                  life := .ready, part := (me s).part, pasid := (me s).pasid, kernel := (me s).kernel, ordinal := (me s).ordinal, epoch := (me s).epoch
                  strand := u.nextId, index := (me s).index
                  seq := { page := p.toNat / 4096 * 4096, off := p.toNat % 4096, home := p.toNat / 4096 * 4096, pend := none, loops := []
                           entering := true, crossing := false }
                  g := [(1, heldG s o.b.toNat), (62, 0xFF00000000000040)] } }))))
namespace Sys2Proof.Claims

/-! ### The device around the work (R42, R65, R387, R391 to R399) -/

/-- A device that has kept nothing but its flash, and the schedule and the counters of the model (R391, R395). -/
def OnlyFlash (s : State) (on : Bool) (flash : Flash) : State :=
  { State.reset with powered := on, flash := flash, first := s.first, agenda := s.agenda, free := s.free, nextId := s.nextId }

/-- A reply of the management service (R394). -/
def managementReply (s : State) (source status : Nat) (data : List Byte) : State :=
  { s with mbox := { s.mbox with replies := s.mbox.replies ++ [{ dest := source, seq := 0, status := status, data := data }] } }

/-- The management service answers: the boot ROM or the firmware runs, and a fabric port has trained (R394, R395). -/
def Managed (s : State) : Prop := s.powered = true ∧ s.boot ≠ .off ∧ ∃ n, 36 ≤ n ∧ n < 52 ∧ s.ready.getLsbD n = true

/-- A function that has yet to train (R395): its bit is clear in both words, and a stack is enabled. A fabric port may train before the firmware runs
(log entry 15). -/
def Untrained (s : State) (fn : Nat) : Prop :=
  s.powered = true ∧ (s.boot = .running ∨ (36 ≤ fn ∧ fn < 52 ∧ s.boot ≠ .off)) ∧ fn < 53 ∧ s.ready.getLsbD fn = false ∧ s.failed.getLsbD fn = false
    ∧ (fn < 12 → s.conf.hbmStacks / 2 ^ fn % 2 = 1)

/-- Bring-up has begun and is about to start a firmware stage. -/
def AtStage (s : State) (n : Nat) : Prop := s.powered = true ∧ s.boot = .starting n

/-- The entry of the measurement log for a stage (R397). -/
def stageEntry (n : Nat) (failed : Bool) (bs : List Byte) : Measure :=
  { stage := n, failed := failed, length := bs.length, hash := BitVec.ofNat 512 (natOfBytes (sha512 bs)) }

/-- At a step of the clock the module would draw more than the lesser of the record's limit and the last request (R398). -/
def TooMuch (s : State) (step : Nat) : Prop :=
  s.conf.host ≠ none ∧ (s.conf.power < Config.modulePower s.free step ∨ ∃ limit, s.powerReq = some limit ∧ limit < Config.modulePower s.free step)

/-- The words of R395. -/
def twoWords (s : State) : List Byte := bytesOf 8 s.ready.toNat ++ bytesOf 8 s.failed.toNat

/-- What an attestation signs (R397). -/
def attested (s : State) (nonce : BitVec 256) : List Byte :=
  bytesOf 32 nonce.toNat ++ twoWords s ++ bytesOf 8 s.measure.length
    ++ s.measure.flatMap (fun m => bytesOf 4 m.stage ++ bytesOf 4 (if m.failed then 1 else 0) ++ bytesOf 8 m.length ++ bytesOf 64 m.hash.toNat)
    ++ bytesOf 32 (edPublic identitySeed).toNat

/-- The copy of the record that bring-up uses (R392). -/
def UsesRecord (f : Flash) (r : List Byte) : Prop :=
  (r = f.recA ∧ recordValid f.recA = true ∧ (recordValid f.recB = true → recordSeq f.recB ≤ recordSeq f.recA))
  ∨ (r = f.recB ∧ recordValid f.recB = true ∧ (recordValid f.recA = true → recordSeq f.recA < recordSeq f.recB))

/-- A record counts as newer than another: it is valid, and the other invalid or of lower sequence (R393). -/
def Newer (a b : List Byte) : Prop := recordValid a = true ∧ (recordValid b = true → recordSeq b < recordSeq a)

/-- The permits that a message returns. -/
def permitsIn (m : LinkMsg) : Nat := ((m.bytes.head?).map (fun b => b.toNat)).getD 0

/-- A direction's sender once the other end has consumed message `m` of the other direction: it has the permits that `m` returned, sends what it may of
the messages that wait, in order and a permit each, and returns the permit of `m` in the first of them or in a permit-only message (R42; that a permit-only
message costs no permit is the model's reading, log entry 46). -/
def senderAfter (m : LinkMsg) (w : LinkWay) : LinkWay :=
  let permits := w.permits + permitsIn m
  let k := min permits w.waiting.length
  let n := if m.only then 0 else 1
  { permits := permits - k, waiting := w.waiting.drop k
    sent := w.sent ++ (match w.waiting.take k with
      | [] => if m.only then [] else [permitMsg n]
      | b :: r => linkMsg n b :: r.map (linkMsg 0)) }

/-- Partitions with cores in a cluster. -/
def inCluster (s : State) (leaf : Nat) : List Nat :=
  (s.conf.parts.filter (fun e => e.2.cores.any (fun c => leafOf c == leaf))).map (fun e => e.1)

end Sys2Proof.Claims

/-- R65, R314, R387, R391 to R399: a loss of supply leaves the flash alone, a thermal shutdown the flash with the counters, a power-on begins bring-up from the
valid record of higher sequence and measures and starts a firmware stage at a time, and without a record, or with an image that fails or is absent, only the
management service runs; training, clock steps within the limit on power, resynchronisations, readiness, attestation, records, power limits, management
requests of no known opcode and the command links act as their rules say. The model's choices and readings in it: the hour of the counter flush (log entry 17);
the stage at a time, the ports that train first, the eight bytes of the entry count and the sequence number 0 of these replies (15); that an absent image stops
bring-up and which copy runs (18, 44); what is left after a loss of power beside the flash (38); that a thermal shutdown counts its partitions, and the link
error kept in `sched.checks` (34). -/
def Obligations.DeviceComesUpAndServes : Prop :=
  ((∀ s : State, Becomes .lossOfSupply s (OnlyFlash s false s.flash))
   ∧ (∀ (s : State) (die : Nat), die < 2 → s.powered = true →
       Becomes (.thermalShutdown die) s (OnlyFlash s false { s.flash with counters := (bump s 0x1C5 s.conf.parts.length).counters }))
   ∧ (∀ s : State, s.powered = true → (let u := bump s 0x1CA 1
       Becomes .lifetimeCounterFlush s { u with flash := { u.flash with counters := u.counters } }))
   ∧ (∀ s : State, (∀ n, ¬ AtStage s n) → recordValid s.flash.recA = false → recordValid s.flash.recB = false →
       Becomes .powerOn s { OnlyFlash s true s.flash with counters := s.flash.counters, boot := .managementOnly })
   ∧ (∀ (s : State) (r : List Byte), (∀ n, ¬ AtStage s n) → UsesRecord s.flash r → Becomes .powerOn s
       { OnlyFlash s true s.flash with
         counters := s.flash.counters, conf := confOf r, measure := [stageEntry 0 false r], boot := .starting 1 })
   ∧ ∀ (s : State) (n : Nat), AtStage s n →
     ((∀ f, f ∈ s.flash.fwA ∨ f ∈ s.flash.fwB → f.stage ≠ n) → Becomes .powerOn s { s with boot := .managementOnly })
     ∧ ((∃ f, (f ∈ s.flash.fwA ∨ f ∈ s.flash.fwB) ∧ f.stage = n) → ∃ f, (f ∈ s.flash.fwA ∨ f ∈ s.flash.fwB) ∧ f.stage = n ∧
         (let u := { s with measure := s.measure ++ [stageEntry n (!f.valid) f.bytes] }
          Becomes .powerOn s (if f.valid = false then { u with boot := .managementOnly }
            else if n < 3 then { u with boot := .starting (n + 1) } else { u with boot := .running, ready := s.ready ||| 2 ^ 53 }))))
  ∧ ((∀ (s : State) (fn : Nat), Untrained s fn →
       Becomes (.functionTrained fn false) s { s with failed := s.failed ||| BitVec.ofNat 64 (2 ^ fn) }
       ∧ (¬ (36 ≤ fn ∧ fn < 52) → Becomes (.functionTrained fn true) s { s with ready := s.ready ||| BitVec.ofNat 64 (2 ^ fn) })
       ∧ (36 ≤ fn → fn < 52 → ∃ d : Word, d ≠ BitVec.allOnes 64 ∧ Becomes (.functionTrained fn true) s
           { s with
             ready := s.ready ||| BitVec.ofNat 64 (2 ^ fn)
             ports := tset s.ports (fn - 36) { tgetD s.ports (fn - 36) Port.reset with delay := d } }))
     ∧ (∀ (s : State) (fn : Nat) (ok : Bool), s.ready.getLsbD fn = true ∨ s.failed.getLsbD fn = true → Becomes (.functionTrained fn ok) s s)
     ∧ (∀ s : State, s.clockStep ≤ 20 →
         (¬ TooMuch s (s.clockStep - 1) → Becomes (.powerClockStep true) s { s with clockStep := s.clockStep - 1 })
         ∧ (TooMuch s (s.clockStep - 1) → Becomes (.powerClockStep true) s s)
         ∧ (s.powered = true → s.clockStep < 20 → TooMuch s s.clockStep → Event.powerClockStep false ∈ dueEvents s)
         ∧ Becomes (.powerClockStep false) s { s with clockStep := if s.clockStep = 20 then 20 else s.clockStep + 1 }
         ∧ ∀ die, die < 2 → Becomes (.thermalStepDown die) s { s with clockStep := if s.clockStep = 20 then 20 else s.clockStep + 1 })
     ∧ (∀ (s : State) (n : Nat),
         (0 < n → Becomes (.clockResync n) s { s with gclk := s.gclk + n, gclkWas := s.gclk + n - 1, gclkHold := 0, holdNow := 0 })
         ∧ Becomes (.clockResync (-n)) s { s with gclkHold := n })
     ∧ (∀ (s : State) (source : Nat), Managed s →
         Becomes (.readiness source) s (managementReply s source 0x00 (twoWords s))
         ∧ (∀ nonce, Becomes (.attest source nonce) s
             (managementReply s source 0x00 (attested s nonce ++ bytesOf 64 (edSign identitySeed (attested s nonce)).toNat)))
         ∧ (∀ r, recordValid r = false → Becomes (.recordPut source r) s (managementReply s source 0x02 []))
         ∧ (∀ r, recordValid r = true → ∃ f : Flash,
             Becomes (.recordPut source r) s (managementReply { s with flash := f } source 0x00 [])
             ∧ f.fwA = s.flash.fwA ∧ f.fwB = s.flash.fwB ∧ f.counters = s.flash.counters
             ∧ ((f.recA = r ∧ f.recB = s.flash.recB ∧ ¬ Newer s.flash.recA s.flash.recB)
               ∨ (f.recB = r ∧ f.recA = s.flash.recA ∧ ¬ Newer s.flash.recB s.flash.recA)))
         ∧ (∀ limit, (some source ≠ s.conf.host → Becomes (.powerLimit source limit) s (managementReply s source 0x01 []))
             ∧ (some source = s.conf.host → Becomes (.powerLimit source limit) s (managementReply { s with powerReq := some limit } source 0x00 [])))
         ∧ happen (.otherManagement source) s = .next (managementReply s source 0x01 []))
     ∧ ∀ (s : State) (leaf : Nat),
         (∀ l m r, tget s.links leaf = some l → l.down.sent = m :: r → Becomes (.firmwareLinkMessage leaf true) s
           { s with links := tset s.links leaf { down := { l.down with sent := r }, up := senderAfter m l.up } })
         ∧ (∀ l m r, tget s.links leaf = some l → l.up.sent = m :: r → Becomes (.firmwareLinkMessage leaf false) s
           { s with links := tset s.links leaf { down := senderAfter m l.down, up := { l.up with sent := r } } })
         ∧ Answers (.firmwareLinkError leaf) s (fun t => t.sched.checks = s.sched.checks ++ [leaf] ∧ (∀ p ∈ inCluster s leaf, (partAt t p).halt = .halted)
             ∧ (∀ p, p ∉ inCluster s leaf → partAt t p = partAt s p) ∧ ∀ p, (partAt t p).kernel = (partAt s p).kernel))
namespace Sys2Proof.Claims

/-! ### The mailbox (R26 to R38, R197, R204) -/

/-- No arrival log stands between requests and their effect (R379). -/
def NoArrivalLog (s : State) : Prop :=
  ∀ e ∈ s.parts, (partAt s e.1).kernel = none ∨ (partAt s e.1).log5.base = (partAt s e.1).log5.lim

/-- The mailbox takes requests, and none whose turn has come waits to be applied. -/
def MailboxOpen (s : State) : Prop := s.powered = true ∧ s.boot = .running ∧ s.mbox.ready = []

/-- Every core has had its turn in the last arithmetic cycle of a gclk, and no epoch is to close: the place of host requests, last in its gclk (R320). -/
def HostTurn (s : State) : Prop := s.turn = 0 ∧ s.roundGclk < s.gclk ∧ epochPending s = false

/-- A request is the next one of its source, and the mailbox has its turn (R27, R320), on a device that has trained (R395). -/
def InTurn (s : State) (r : Req) : Prop := MailboxOpen s ∧ HostTurn s ∧ NoArrivalLog s ∧ Trained s ∧ r.seq.toNat = tgetD s.mbox.expect r.source 0

/-- A request follows another of its source (R27). -/
def follows (r h : Req) : Bool := h.source == r.source && h.seq.toNat == (r.seq.toNat + 1) % 2 ^ 32

/-- The state after a request was consumed in sequence: its place in the boundary order is taken, behind every core in its gclk (R320), its source's next
sequence number is expected, and a request that was held for that number is ready (R27). -/
def consumed (s : State) (r : Req) : State :=
  let next := s.mbox.held.find? (follows r)
  { s with
    boundary := { gclk := s.roundGclk, round := s.rounds - 1, core := 97, stream := 0, sub := s.stamp }
    mbox := { s.mbox with
      expect := tset s.mbox.expect r.source ((r.seq.toNat + 1) % 2 ^ 32)
      ready := next.toList
      held := match next with
        | none => s.mbox.held
        | some h => s.mbox.held.erase h } }

/-- A reply to a request with its sequence number (R28). -/
def replied (s : State) (r : Req) (status : Nat) (data : List Byte) : State :=
  { s with mbox := { s.mbox with replies := s.mbox.replies ++ [{ dest := r.source, seq := r.seq.toNat, status := status, data := data }] } }

/-- The reserved fields of a header are zero (R26). -/
def GoodHeader (r : Req) : Prop := r.resv = 0 ∧ r.pasid.toNat < 2 ^ 20 ∧ r.hi = 0

/-- Every byte of a range lies in an enabled stack (R195, R391). -/
def InMemory (s : State) (a n : Nat) : Prop :=
  ∀ i, i < n → (a + i) / 2 ^ 36 < 12 ∧ (a + i) % 2 ^ 36 < 48 * 2 ^ 30 ∧ s.conf.hbmStacks / 2 ^ ((a + i) / 2 ^ 36) % 2 = 1

/-- A byte of a range lies in a code page that is in device memory (R10). -/
def InCode (s : State) (a n : Nat) : Prop := ∃ c ∈ s.code, c.present = true ∧ ∃ i, i < n ∧ codePhys c ≤ a + i ∧ a + i < codePhys c + 4096

/-- A flip or mapping request whose fields are legal, from the host (R197). -/
def FlipFields (s : State) (r : Req) : Prop :=
  r.resv = 0 ∧ r.pasid.toNat < 2 ^ 20 ∧ r.length = 0 ∧ r.index.toNat % 4 ≠ 3 ∧ r.index.toNat < 2 ^ 8 ∧ some r.source = s.conf.host

/-- The page that a flip names, its size, and its physical address: aligned, outside the code range, and no code page of its space (R10, R197). -/
def FlipPlace (s : State) (r : Req) : Prop :=
  let n := pageBytes (r.index.toNat % 4)
  r.operand.toNat % n = 0 ∧ r.hi.toNat % n = 0 ∧ canonical r.operand = true ∧ r.operand.toNat < endPage
  ∧ ∀ c ∈ s.code, c.pasid = r.pasid.toNat → r.operand.toNat / n ≠ c.va / n

/-- Exactly the page that a request names is mapped. -/
def NamesPage (s : State) (r : Req) (m : DataMap) : Prop :=
  s.maps.find? (fun m => m.pasid == r.pasid.toNat && m.va == r.operand && m.size == r.index.toNat % 4) = some m

/-- Part of an existing segment's image lies in a page (R401). -/
def HoldsImage (s : State) (m : DataMap) : Prop := ∃ g ∈ s.segs, ∃ p ∈ g.pages, m.pa ≤ p ∧ p < m.pa + pageBytes m.size

/-- A mapping changes its owner. -/
def ownedBy (s : State) (m : DataMap) (host : Bool) : State :=
  { s with maps := s.maps.map (fun e => if e = m then { e with host := host } else e) }

/-- A write of the command word of a stopped partition's dump reaches the scheduler (R384). -/
def told (s : State) (a n : Nat) : State :=
  { s with parts := s.parts.map (fun e => (e.1, match e.2.halt with
      | .stopped core bank _ => if a ≤ e.2.stdmpPa ∧ e.2.stdmpPa + 8 ≤ a + n then { e.2 with halt := .stopped core bank true } else e.2
      | _ => e.2)) }

/-- The row of the opcode table that a request is. -/
def RequestRow (r : Req) (i : Instr) : Prop :=
  (r.op = 0x01 ∧ i = .dataWrite r) ∨ (r.op = 0x02 ∧ i = .tailWrite r) ∨ (r.op = 0x03 ∧ i = .dataRead r) ∨ (r.op = 0x04 ∧ i = .chunkPut r)
  ∨ (r.op = 0x05 ∧ i = .qcbInvalidate r) ∨ (r.op = 0x06 ∧ i = .controlWrite r) ∨ (r.op = 0x07 ∧ i = .controlRead r)
  ∨ (r.op = 0x08 ∧ i = .give r) ∨ (r.op = 0x09 ∧ i = .take r) ∨ (r.op = 0x0A ∧ i = .map r) ∨ (r.op = 0x0B ∧ i = .unmap r)
  ∨ (r.op = 0x0D ∧ i = .refuse r)

end Sys2Proof.Claims

/-- R26, R27, R28, R38, R384, R395: a request ahead of its turn is held; one in its turn is consumed, the one held behind it being ready then, and replied to: a
data write lands at its address, and tells the scheduler of a stopped partition's command word that it covers (R384), and a data read replies with the bytes at
the device-scope point, refused with 0x01 for its fields and 0x02 outside memory or in a code page; one for a stack in training waits its turn out (R395); the
control registers are written and read; a chunk is stored under its hash, and held bytes give way unless they were verified. The model's choices: a request at a
failed stack is answered with a status that no rule gives and has no effect (log entry 53), and one whose number does not match the next one, be it one that was
passed before, is held (log entry 44). -/
def Obligations.MailboxServesInTurn : Prop :=
  (∀ (s : State) (r : Req) (i : Instr), MailboxOpen s → RequestRow r i → r.seq.toNat ≠ tgetD s.mbox.expect r.source 0 →
    Becomes i s { s with mbox := { s.mbox with held := s.mbox.held ++ [r] } })
  ∧ (∀ (s : State) (r : Req), InTurn s r → r.op = 0x01 →
      let u := consumed s r
      let legal := GoodHeader r ∧ r.length ≠ 0 ∧ r.length.toNat ≤ 65536 ∧ r.payload.length = r.length.toNat
      (¬ legal → Becomes (.dataWrite r) s (replied u r 0x01 []))
      ∧ (legal → ¬ InMemory s r.operand.toNat r.length.toNat ∨ InCode s r.operand.toNat r.length.toNat → Becomes (.dataWrite r) s (replied u r 0x02 []))
      ∧ (legal → InMemory s r.operand.toNat r.length.toNat → ¬ InCode s r.operand.toNat r.length.toNat → Unwatched s →
          Becomes (.dataWrite r) s (replied (told (hostWrite u r.operand.toNat r.payload) r.operand.toNat r.length.toNat) r 0x00 [])))
  ∧ (∀ (s : State) (r : Req), InTurn s r → r.op = 0x03 →
      let u := consumed s r
      let legal := GoodHeader r ∧ r.length ≠ 0 ∧ r.length.toNat ≤ 65536
      (¬ legal → Becomes (.dataRead r) s (replied u r 0x01 []))
      ∧ (legal → ¬ InMemory s r.operand.toNat r.length.toNat ∨ InCode s r.operand.toNat r.length.toNat → Becomes (.dataRead r) s (replied u r 0x02 []))
      ∧ (legal → InMemory s r.operand.toNat r.length.toNat → ¬ InCode s r.operand.toNat r.length.toNat →
          Becomes (.dataRead r) s (replied u r 0x00 (deviceBytes u r.operand.toNat r.length.toNat))))
  ∧ (∀ (s : State) (r : Req) (i : Instr), MailboxOpen s → NoArrivalLog s → (r.op = 0x01 ∧ i = .dataWrite r) ∨ (r.op = 0x03 ∧ i = .dataRead r) →
      r.seq.toNat = tgetD s.mbox.expect r.source 0 → GoodHeader r → r.length ≠ 0 → r.length.toNat ≤ 65536 → InMemory s r.operand.toNat r.length.toNat →
      (homeReached s 0 r.operand.toNat = false → Becomes i s { s with mbox := { s.mbox with ready := [r] } })
      ∧ (HostTurn s → homeReached s 0 r.operand.toNat = true → homeFailed s 0 r.operand.toNat = true →
          ∃ status, Becomes i s (replied (consumed s r) r status [])))
  ∧ (∀ (s : State) (r : Req), InTurn s r → GoodHeader r → r.length = 0 →
      let u := consumed s r
      let n := r.index.toNat
      (r.op = 0x06 →
        (n = 0 → Becomes (.controlWrite r) s (replied { u with qtroot := r.operand &&& 0x000FFFFFFFFFE000 } r 0x00 []))
        ∧ (0x100 ≤ n → n < 0x140 → Becomes (.controlWrite r) s (replied { u with cc := tset s.cc (n - 0x100) r.operand } r 0x00 []))
        ∧ (n ≠ 0 → ¬ (0x100 ≤ n ∧ n < 0x140) → Becomes (.controlWrite r) s (replied u r 0x04 [])))
      ∧ (r.op = 0x07 →
        (n = 0 → Becomes (.controlRead r) s (replied u r 0x00 (bytesOf 8 s.qtroot.toNat)))
        ∧ (0x100 ≤ n → n < 0x140 → Becomes (.controlRead r) s (replied u r 0x00 (bytesOf 8 (tgetD s.cc (n - 0x100) 0).toNat)))
        ∧ (n ≠ 0 → ¬ (0x100 ≤ n ∧ n < 0x140) → Becomes (.controlRead r) s (replied u r 0x04 []))))
  ∧ ∀ (s : State) (r : Req), InTurn s r → r.op = 0x04 → r.resv = 0 → r.pasid.toNat < 2 ^ 20 → r.length = 4096 → r.payload.length = 4112 →
      let u := consumed s r
      let h := hashOf (r.payload.take 16 ++ bytesOf 8 r.operand.toNat ++ bytesOf 8 r.hi.toNat)
      let bytes := pokes [] 0 (r.payload.drop 16)
      ((∀ c ∈ s.chunks, c.hash ≠ h) →
        (s.chunks.length < Config.chunkRoom → Becomes (.chunkPut r) s
          (replied { u with chunks := s.chunks ++ [{ hash := h, bytes := bytes, refs := 0, verified := false }] } r 0x00 []))
        ∧ (Config.chunkRoom ≤ s.chunks.length → Becomes (.chunkPut r) s (replied u r 0x05 [])))
      ∧ ∀ c, s.chunks.find? (fun c => c.hash == h) = some c → Becomes (.chunkPut r) s
          (if c.verified then replied u r 0x00 []
           else replied { u with chunks := s.chunks.map (fun e => if e.hash = h then { e with bytes := bytes } else e) } r 0x00 [])

/-- R197, R204: a legal flip or mapping request in its turn does its work, and one for a page in the wrong state is refused with 0x06: a give copies the host's
bytes in and makes the page the device's, a take revokes, replies with the page's bytes and makes it the host's, a map installs a mapping, an unmap revokes
and removes it, and a refuse sends the strands that wait for the page to their handlers. A take's reply carries the bytes and a give's request brings them:
the model's form of the host copy (log entry 21). -/
def Obligations.PagesFlipAndMap : Prop :=
  ∀ (s : State) (r : Req), InTurn s r → FlipFields s r → FlipPlace s r →
    let u := consumed s r
    (r.op = 0x08 →
      (∀ m, NamesPage s r m → m.host = true → r.payload.length = pageBytes m.size →
        Becomes (.give r) s (replied (ownedBy (hostWrite u m.pa r.payload) m false) r 0x00 []))
      ∧ ((∀ m, NamesPage s r m → m.host = false) → Becomes (.give r) s (replied u r 0x06 [])))
    ∧ (r.op = 0x09 →
      (∀ m, NamesPage s r m → m.host = false → ¬ HoldsImage s m → let v := revokePage u m.pasid m
        Becomes (.take r) s (replied (ownedBy v m true) r 0x00 (deviceBytes v m.pa (pageBytes m.size))))
      ∧ ((∀ m, NamesPage s r m → m.host = true ∨ HoldsImage s m) → Becomes (.take r) s (replied u r 0x06 [])))
    ∧ (r.op = 0x0A →
      let n := pageBytes (r.index.toNat % 4)
      let clash := ∃ m ∈ s.maps, m.pasid = r.pasid.toNat ∧ m.va.toNat < r.operand.toNat + n ∧ r.operand.toNat < m.va.toNat + pageBytes m.size
      (¬ clash → InMemory s r.hi.toNat n → Becomes (.map r) s (replied { u with maps := s.maps ++
        [{ pasid := r.pasid.toNat, va := r.operand, size := r.index.toNat % 4, pa := r.hi.toNat, perms := r.index.toNat / 4 % 32,
           host := r.index.getLsbD 7 }] } r 0x00 []))
      ∧ (clash ∨ ¬ InMemory s r.hi.toNat n → Becomes (.map r) s (replied u r 0x06 [])))
    ∧ (r.op = 0x0B →
      (∀ m, NamesPage s r m → ¬ HoldsImage s m → let v := revokePage u m.pasid m
        Becomes (.unmap r) s (replied { v with maps := v.maps.filter (fun e => e != m) } r 0x00 []))
      ∧ ((∀ m, NamesPage s r m → HoldsImage s m) → Becomes (.unmap r) s (replied u r 0x06 [])))
    ∧ (r.op = 0x0D → Answers (.refuse r) s (fun t =>
        t.mbox = (replied u r 0x00 []).mbox ∧ t.maps = s.maps
        ∧ ∀ core bank h, core ∈ s.cores.map (fun e => e.1) → bank < 3 →
            (ctxAt s core bank).life = .parked (.handle h) → (ctxAt s core bank).pasid = r.pasid.toNat →
            (ctxAt s core bank).tcause.toNat % 256 = 0x0B →
            hVa (tgetD (ctxAt s core bank).h h 0) / pageBytes (r.index.toNat % 4) = r.operand.toNat / pageBytes (r.index.toNat % 4) →
            (ctxAt t core bank).life = .refused 0x0B (ctxAt s core bank).tval ((ctxAt s core bank).tcause.toNat / 256 % 32)))

namespace Sys2Proof.Claims

/-! ### Queues, launches and model slots (R30 to R41) -/

/-- Nothing waits for a queue's control block (R30, R33). -/
def NoneHeld (s : State) : Prop := s.sched.waiting = [] ∧ s.sched.wants = [] ∧ s.sched.fetches = []

/-- A command is that of a queue. -/
def ofQueue (pasid queue : Nat) (c : HeadCmd) : Bool := c.pasid == pasid && c.queue == queue

/-- A tail write announces a command from the head of a queue on (R33, R39). -/
def announces (q : Qcb) (e : Nat × Nat) : Bool := 0 < (e.2 + 2 ^ 32 - q.head) % 2 ^ 32 && (e.2 + 2 ^ 32 - q.head) % 2 ^ 32 ≤ 2 ^ q.order

/-- The tail writes of a queue, each with its place in the order of tail writes. -/
def tailsOf (s : State) (q : Qcb) : List (Nat × Nat) := tgetD s.sched.tails (queueKey q.pasid q.queue) []

/-- The tail writes of a queue are these from now on. -/
def withTails (s : State) (q : Qcb) (l : List (Nat × Nat)) : State :=
  { s with sched := { s.sched with tails := tset s.sched.tails (queueKey q.pasid q.queue) l } }

/-- The tail writes of a queue once one has set its tail to `t`: those stay that announce a command and no more than this one (R39). -/
def announcedUpTo (s : State) (q : Qcb) (t : Nat) : List (Nat × Nat) :=
  let live := (tailsOf s q).filter (fun e => announces q e && (e.2 + 2 ^ 32 - q.head) % 2 ^ 32 ≤ (t + 2 ^ 32 - q.head) % 2 ^ 32)
  if ∃ e ∈ live, e.2 = t then live else live ++ [(s.sched.tailSeq, t)]

/-- A launch that has been taken and neither runs nor completes: its queue's stop ends it (R34). -/
def waitsStill (s : State) (q : Qcb) (c : HeadCmd) : Bool :=
  ofQueue q.pasid q.queue c && natOfBytes (c.bytes.take 1) == 1 && !commandRuns s c && c.done.isNone

/-- The cached QCB of a queue becomes `q`, the most recently used. -/
def withQcb (s : State) (q : Qcb) : State :=
  { s with sched := { s.sched with cache := s.sched.cache.filter (fun e => !(e.pasid == q.pasid && e.queue == q.queue)) ++ [q] } }

/-- Head, state and error fields are written through to the QCB in memory (R31). -/
def writtenThrough (s : State) (q : Qcb) : State :=
  schedWrite (schedWrite s (q.addr + 8) (bytesOf 4 q.head)) (q.addr + 23)
    (bytesOf 1 q.state ++ bytesOf 2 q.errSt ++ bytesOf 2 0 ++ bytesOf 4 q.errIx)

/-- Steps 2 to 4 of R41 for command `c` of the queue of `q`: the status with done set at the command, the head past it, the signal of a command that did
not fail. The tail writes that announce nothing further are forgotten. -/
def completion (s : State) (q : Qcb) (c : HeadCmd) (status : Nat) : State :=
  let b := c.bytes
  let n := natOfBytes ((b.drop 6).take 1)
  let inc := natOfBytes ((b.drop 16).take 4)
  let v := (tgetD s.cc n 0).toNat
  let adds := status = 0 ∧ (natOfBytes ((b.drop 1).take 1)) / 16 % 2 = 1
  let code := if adds ∧ 2 ^ 64 ≤ v + inc then 0x000C else status
  let head := if q.head = c.index then (q.head + 1) % 2 ^ 32 else q.head
  let q' := { q with head := head, state := if q.state = 3 then 3 else if head = q.tail then 0 else 1 }
  let s := { s with sched := { s.sched with cmds := s.sched.cmds.filter (fun c => !ofQueue q.pasid q.queue c) } }
  let s := schedWrite s (c.addr + 124) (bytesOf 4 (code + 2 ^ 31))
  let s := writtenThrough (withQcb s q') q'
  let s := withTails s q' ((tailsOf s q').filter (announces q'))
  if adds then { s with cc := tset s.cc n (BitVec.ofNat 64 (min (v + inc) (2 ^ 64 - 1))) } else s

/-- The head command of a queue, with its kind (R37, R39): the queue is present and not stopped, its ring holds a command, and none is under way; the device
has trained (R395). -/
def AtHead (s : State) (pasid queue : Nat) (q : Qcb) (b : List Byte) : Prop :=
  Trained s ∧ cachedQcb s pasid queue = some q ∧ q.state ≠ 3 ∧ q.head ≠ q.tail ∧ (∀ c ∈ s.sched.cmds, ofQueue pasid queue c = false)
  ∧ rangePresent s (q.base + 128 * (q.head % 2 ^ q.order)) 128 = true ∧ b = deviceBytes s (q.base + 128 * (q.head % 2 ^ q.order)) 128

/-- The command at the head of a queue as it is taken: with its place in its ring, and the first tail write that announced it (R39). -/
def headOf (s : State) (q : Qcb) (b record : List Byte) : HeadCmd :=
  { pasid := q.pasid, queue := q.queue, index := q.head, bytes := b, record := record, addr := q.base + 128 * (q.head % 2 ^ q.order)
    order := (((tailsOf s q).find? (announces q)).map (fun e => e.1)).getD 0 }

/-- The command is taken: it is under way, and its queue is running, or stalled on residency. -/
def taken (s : State) (q : Qcb) (b record : List Byte) (state : Nat) : State :=
  let q' := { q with state := state }
  let s := { s with sched := { s.sched with cmds := s.sched.cmds ++ [headOf s q b record] } }
  writtenThrough { s with sched := { s.sched with cache := s.sched.cache.map (fun e => if e.pasid = q.pasid ∧ e.queue = q.queue then q' else e) } } q'

/-- Every cluster of a partition is ready (R395). -/
abbrev ClustersReady (s : State) (part : Nat) : Prop := ∀ core ∈ coresOf s part, s.ready.getLsbD (12 + leafOf core) = true

/-- A launch that passes the checks of R40, with its record. -/
def LaunchValid (s : State) (q : Qcb) (b record : List Byte) : Prop :=
  launchBad b = false ∧ ¬ (natOfBytes ((b.drop 1).take 1) / 2 % 4 = 3)
  ∧ readNest s q.pasid (natOfBytes ((b.drop 24).take 8)) = some record
  ∧ (let st := (slotAt s (natOfBytes ((b.drop 3).take 1))).state
    st = .resident ∨ st = .loading ∨ st = .restoring)
  ∧ ∃ m, partMap s q.part = some m

end Sys2Proof.Claims

/-- R26, R30, R31, R33, R35 to R41: a tail write within the ring sets the tail and starts an idle queue, one past it stops the queue with error status
0x0F; an invalidate writes the cached QCB back and drops it, and a fetch places its object or answers with 0x07; the head command runs by its kind, a failed
one completes with its status, a launch whose slot is not resident, or whose partition has a cluster that is not ready (R395), stalls its queue, a waiting
launch follows its slot, and slots load, release and restore as their rules say. The model's choices: a queue number of 256 or more gets 0x03 (log entry 47); a
queue that stops forgets its waiting launches and keeps its error index, a slot that is not resident is not released (0x0004), and a waiting launch is judged
again as its slot changes (log entry 22); a slot byte above 63 gets 0x0001 (log entry 48). -/
def Obligations.QueuesTakeAndRunCommands : Prop :=
  ((∀ (s : State) (r : Req), InTurn s r → GoodHeader r → r.length = 0 →
     let u := consumed s r
     (r.op = 0x02 → r.operand.toNat < 2 ^ 32 →
       (256 ≤ r.index.toNat → Becomes (.tailWrite r) s (replied u r 0x03 []))
       ∧ ∀ q, r.index.toNat < 256 → NoneHeld s → cachedQcb s r.pasid.toNat r.index.toNat = some q →
         (2 ^ q.order < (r.operand.toNat + 2 ^ 32 - q.head) % 2 ^ 32 →
           let q' := { q with state := 3, errSt := 0x0F }
           let v := { u with sched := { u.sched with cmds := s.sched.cmds.filter (fun c => !waitsStill s q c) } }
           Becomes (.tailWrite r) s (replied (writtenThrough (withQcb v q') q') r 0x03 []))
         ∧ ((r.operand.toNat + 2 ^ 32 - q.head) % 2 ^ 32 ≤ 2 ^ q.order →
           let q' := { q with tail := r.operand.toNat, state := if q.state = 0 ∧ r.operand.toNat ≠ q.head then 1 else q.state }
           let v := writtenThrough (withQcb u q') q'
           let v := withTails v q (announcedUpTo s q r.operand.toNat)
           Becomes (.tailWrite r) s (replied { v with sched := { v.sched with tailSeq := s.sched.tailSeq + 1 } } r 0x00 [])))
     ∧ (r.op = 0x05 →
       let u := { u with sched := { u.sched with bad := u.sched.bad.filter (fun e => e != (r.pasid.toNat, r.index.toNat)) } }
       (cachedQcb s r.pasid.toNat r.index.toNat = none → Becomes (.qcbInvalidate r) s (replied u r 0x00 []))
       ∧ ∀ q, NoneHeld s → cachedQcb s r.pasid.toNat r.index.toNat = some q →
           let v := schedWrite u q.addr (qcbBytes q)
           let v := replied { v with sched := { v.sched with cache := v.sched.cache.filter (fun e => !(e.pasid == q.pasid && e.queue == q.queue)) } } r 0x00 []
           (q.state = 3 ∨ q.head = q.tail → Becomes (.qcbInvalidate r) s v)
           ∧ (q.state ≠ 3 → q.head ≠ q.tail → Becomes (.qcbInvalidate r) s (wantQueue v r.pasid.toNat r.index.toNat))))
   ∧ ∀ (s : State) (f : Fetch), s.sched.fetches.find? (fun g => g.id == f.id) = some f →
     let u := { s with sched := { s.sched with fetches := s.sched.fetches.filter (fun g => g.id != f.id) } }
     let n := if f.table then 2 ^ 21 else 64
     (∀ e ∈ f.wants, ∀ c ∈ s.sched.cmds, ofQueue e.1 e.2 c = true → c.done = none) →
     Becomes (.qcbFetchTimeout f.id) s (f.held.foldl (fun u r => replied u r 0x07 []) u)
     ∧ (∀ bytes, bytes.length ≠ n → Becomes (.qcbFetchDone f.id bytes) s (f.held.foldl (fun u r => replied u r 0x07 []) u))
     ∧ ∀ bytes a, bytes.length = n → f.held = [] → f.wants = [] → s.sched.waiting = [] → s.sched.wants = [] → poolFree s f.table = some a →
         let v := schedWrite u a bytes
         let w := entryAt v f.entry
         let v := schedWrite v f.entry (bytesOf 8 (3 + 4 * (w / 4 % 2) + 64 * (a / 64 % 2 ^ 46)))
         Becomes (.qcbFetchDone f.id bytes) s { v with sched := { v.sched with
           pool := v.sched.pool ++ [match tableAt s f.entry with
             | none => { table := f.table, addr := a, host := f.host, entry := f.entry }
             | some t => { table := f.table, addr := a, host := f.host, entry := f.entry - t.addr, under := some t.host }] } })
  ∧ ((∀ (s : State) (pasid queue : Nat) (q : Qcb) (b : List Byte), AtHead s pasid queue q b → NoneHeld s →
       let kind := natOfBytes (b.take 1)
       let n := natOfBytes ((b.drop 3).take 1)
       let done := fun code => completion (taken s q b [] 1) { q with state := 1 } (headOf s q b []) code
       (kind = 0 → Becomes (.noOperation pasid queue) s (done (if otherBad b false false then 0x0001 else 0)))
       ∧ (kind ≠ 0 → kind ≠ 2 → kind ≠ 3 →
           (∀ code, launchFault s q b = some code → Becomes (.launch pasid queue) s (done code))
           ∧ ∀ record, LaunchValid s q b record →
               Becomes (.launch pasid queue) s (taken s q b record
                 (if (slotAt s n).state = .resident ∧ ClustersReady s q.part then 1 else 2)))
       ∧ (kind = 2 →
           let u := endAllEvictions s q.part
           (∀ code, loadSlot u q b = .error code → Becomes (.slotLoad pasid queue) s
             (completion (markVerified (taken u q b [] 1) (checkedIn u b)) { q with state := 1 } (headOf s q b []) code))
           ∧ ∀ m pages, loadSlot u q b = .ok (m, pages, []) → (∀ e ∈ u.cores, ∀ d ∈ e.2.dir, d.owner ≠ 24 + n) →
               Answers (.slotLoad pasid queue) s (fun t => slotAt t n = { m with state := .resident } ∧ t.code = s.code ++ imageCode pasid m.base pages
                 ∧ t.segs = u.segs ∧ t.sched.cmds = s.sched.cmds))
       ∧ (kind = 3 →
           (otherBad b true false = true → Becomes (.slotRelease pasid queue) s (done 0x0001))
           ∧ (otherBad b true false = false → (slotAt s n).state ≠ .resident → Becomes (.slotRelease pasid queue) s (done 0x0004))
           ∧ (otherBad b true false = false → (slotAt s n).state = .resident → let u := taken s q b [] 1
               Becomes (.slotRelease pasid queue) s { u with slots := tset u.slots n { slotAt s n with state := .releasing } })))
     ∧ (∀ (s : State) (pasid queue : Nat) (q : Qcb) (c : HeadCmd), NoneHeld s → cachedQcb s pasid queue = some q → q.state ≠ 3 →
       s.sched.cmds.find? (ofQueue pasid queue) = some c → natOfBytes (c.bytes.take 1) = 1 → c.done = none →
       (∀ e ∈ s.parts, ∀ k, e.2.kernel = some k → ¬ (k.pasid = pasid ∧ k.queue = queue)) →
       let st := (slotAt s (natOfBytes ((c.bytes.drop 3).take 1))).state
       (st = .free ∨ st = .releasing → Becomes (.launch pasid queue) s (completion s q c 0x0004))
       ∧ (st = .loading ∨ st = .restoring → q.state = 1 → let q' := { q with state := 2 }
           Becomes (.launch pasid queue) s (writtenThrough { s with sched := { s.sched with
             cache := s.sched.cache.map (fun e => if e.pasid = pasid ∧ e.queue = queue then q' else e) } } q'))
       ∧ (st = .resident → Becomes (.launch pasid queue) s s))
     ∧ ∀ (s : State) (n : Nat),
       ((slotAt s n).state = .releasing → (∀ e ∈ s.parts, ∀ k, e.2.kernel = some k → k.slot ≠ n) → Answers (.slotReleaseDone n) s (fun t =>
         slotAt t n = ModelSlot.reset ∧ (∀ g ∈ t.segs, g.owner ≠ 24 + n)
         ∧ ∀ c ∈ t.code, c.va / 2 ^ 44 = (slotAt s n).base / 2 ^ 44 → endPage ≤ c.va))
       ∧ ((slotAt s n).state = .restoring → let u := endAllEvictions s (slotAt s n).part
           (∀ g ∈ u.segs, g.owner = 24 + n → g.cores ≠ []) → (∀ e ∈ u.cores, ∀ d ∈ e.2.dir, d.owner = 24 + n → d.state ≠ .loading) →
           Becomes (.slotRestore n) s { u with slots := tset u.slots n { slotAt s n with state := .resident } }))

/-- R39, R40, R41, R375, R354, R395: an idle partition whose clusters are ready admits its launch: the modes, the buffers and the record are the kernel's, and no
other partition changes; while a cluster of it is not ready, the launch waits (R395), for ever where the cluster has failed: that R395's word on failed functions
does not end such a launch is the model's reading (log entry 53); a kernel whose last iteration has retired, whose epochs are closed and whose secondary strands have ended completes with its writes
published, its partition idle, and its command done with status 0; a kernel that ended under R354 completes with 0x000B once its contexts are discarded. -/
def Obligations.KernelsStartAndComplete : Prop :=
  (∀ (s : State) (part : Nat) (c : HeadCmd), (partAt s part).kernel = none → (partAt s part).halt = .none → (∃ m, partMap s part = some m) →
    untakenLaunch s part = false → admitted s part = some c →
    (¬ ClustersReady s part → Becomes (.launchAdmit part) s s)
    ∧ (ClustersReady s part → Answers (.launchAdmit part) s (fun t => ∃ k : Kernel, (partAt t part).kernel = some k
      ∧ k.pasid = c.pasid ∧ k.queue = c.queue ∧ k.index = c.index ∧ k.slot = natOfBytes ((c.bytes.drop 3).take 1)
      ∧ k.recBytes = c.record ∧ k.next = 0 ∧ k.running = [] ∧ k.closed = 0 ∧ k.report = none
      ∧ (let flags := natOfBytes ((c.bytes.drop 1).take 1)
        k.ordered = decide (flags % 2 = 1) ∧ k.record = decide (flags / 2 % 2 = 1) ∧ k.replay = decide (flags / 4 % 2 = 1)
        ∧ (partAt t part).rmode = BitVec.ofNat 64 (flags % 8))
      ∧ (∀ i, i < 8 → tgetD (partAt t part).rl i 0 = BitVec.ofNat 64 (natOfBytes ((c.bytes.drop (32 + 8 * i)).take 8)))
      ∧ (∀ p, p ≠ part → partAt t p = partAt s p) ∧ t.cores = s.cores)))
  ∧ ∀ (s : State) (part : Nat) (k : Kernel) (q : Qcb) (c : HeadCmd), (partAt s part).kernel = some k → NoneHeld s →
    cachedQcb s k.pasid k.queue = some q → s.sched.cmds.find? (ofQueue k.pasid k.queue) = some c →
    (k.report = none → k.next = nestTotal k.recBytes → k.running = [] → (∀ a ∈ s.reds, a.kernel ≠ k.id) → (∀ a ∈ s.atomics, a.kernel ≠ k.id) →
      (∀ core ∈ coresOf s part, (ctxAt s core 2).life = .empty ∨ (ctxAt s core 2).kernel ≠ k.id) →
      let u := publishKernel s k.id
      let v := freePart (clearCores (dropKernelSegments u part k.id) part) part
      Becomes (.kernelComplete part) s (completion v q c 0) ∧ (partAt v part).kernel = none ∧ (partAt v part).rmode = 0)
    ∧ ∀ report, k.report = some report → (∀ a ∈ s.reds, a.kernel ≠ k.id) →
        (∀ e ∈ contextsOf s part, (ctxAt s e.1 e.2).life = .discarded) →
        let u := schedWrite s (c.addr + 96) report
        let v := freePart (clearCores (dropKernelSegments u part k.id) part) part
        Becomes (.kernelComplete part) s (completion v q c 0x000B)

namespace Sys2Proof.Claims

/-! ### Iterations, retirement, epochs (R50 to R55, R128, R338, R374) -/

/-- The head of a running kernel's iterations, its assignment not directed by a log (R53, R55). -/
def HeadIs (s : State) (part : Nat) (k : Kernel) (o : Nat) : Prop :=
  (partAt s part).kernel = some k ∧ k.report = none ∧ (partAt s part).halt = .none ∧ k.next = o ∧ o < nestTotal k.recBytes ∧ k.replay = false
  ∧ recording s part = false

/-- A core has a primary context without an iteration, and is not stopped (R52). -/
def FreeCore (s : State) (core : Nat) : Prop :=
  (coreAt s core).frozen = false ∧ ((ctxAt s core 0).life = .empty ∨ (ctxAt s core 1).life = .empty)

/-- The copies of an iteration's names that a core holds resident (R54). -/
def residents (s : State) (part core : Nat) (names : List Nat) : Nat :=
  (names.filter (fun n => match dirOf s core part n with
    | some d => d.state == .clean || d.state == .dirty || d.state == .frozen
    | none => false)).length

/-- A core is the lowest-indexed free one of the partition that meets `P`. -/
def FirstFree (s : State) (part core : Nat) (P : Nat → Prop) : Prop :=
  ∃ before after, coresOf s part = before ++ core :: after ∧ FreeCore s core ∧ P core ∧ ∀ c ∈ before, ¬ (FreeCore s c ∧ P c)

/-- An iteration goes to a core (R51): an empty primary context starts it at the entry point of the slot's image with the registers of R51 set, nothing
else of it written unless this is the kernel's first iteration there; the kernel's next ordinal follows; no other context changes. -/
def GoesTo (i : Instr) (s : State) (part : Nat) (k : Kernel) (o core : Nat) : Prop :=
  Answers i s (fun t => ∃ b, b < 2 ∧ (ctxAt s core b).life = .empty
    ∧ (let x := ctxAt s core b
      let y := ctxAt t core b
      y.life = .ready ∧ y.part = part ∧ y.pasid = k.pasid ∧ y.kernel = k.id ∧ y.ordinal = o ∧ y.epoch = 0 ∧ y.flights = [] ∧ y.atts = [] ∧ y.own = []
      ∧ (y.seq.entering = true ∧ y.seq.pend = none ∧ y.seq.page + y.seq.off = (slotAt s k.slot).entry.toNat)
      ∧ (∀ d, d < 6 → tgetD y.g (d + 1) 0 = if d < nestDims k.recBytes then wrap64 (valueOfDim k.recBytes o d) else 0)
      ∧ tgetD y.g 7 0 = BitVec.ofNat 64 o ∧ tgetD y.g 8 0 = BitVec.ofNat 64 (coresOf s part).length
      ∧ tgetD y.g 62 0 = 0xFF00000000000000 ∧ tgetD y.g 63 0 = BitVec.ofNat 64 (programEnd s core) ∧ y.srng = BitVec.ofNat 64 (o + 1)
      ∧ y.tcause = 0 ∧ y.tval = 0 ∧ y.epc = 0 ∧ y.hvec = 0 ∧ y.tstat = 0 ∧ y.tpbt = 0 ∧ y.tscr = 0 ∧ y.ehome = 0
      ∧ (x.fresh = k.id → y.p = x.p ∧ y.k = x.k ∧ y.h = x.h ∧ y.bt = x.bt ∧ y.m = x.m ∧ y.tiles = x.tiles ∧ y.rba = x.rba ∧ y.rbb = x.rbb
        ∧ y.rwin = x.rwin ∧ y.fflags = x.fflags ∧ y.fmode = x.fmode ∧ y.icfg = x.icfg)
      ∧ (x.fresh ≠ k.id → y.p = [] ∧ y.k = [] ∧ y.h = [] ∧ y.bt = [] ∧ y.m = [] ∧ y.tiles = [] ∧ y.rba = 0 ∧ y.rbb = 0
        ∧ y.rwin = 0 ∧ y.fflags = 0 ∧ y.fmode = 0 ∧ y.icfg = 0 ∧ y.seq.loops = []))
    ∧ (partAt t part).kernel = some { k with next := o + 1, patience := none, running := k.running ++ [o] }
    ∧ (∀ c n, n < 3 → ¬ (c = core ∧ n = b) → ctxAt t c n = ctxAt s c n) ∧ t.hist = s.hist)

/-- A context at its end pointer with nothing in flight, no command or signal pending, no deferred cause due and no trace record owed (R374, steps 1 and 2),
whose boundary has its turn in the boundary order (R320, R338). -/
def ReadyToRetire (s : State) (core bank : Nat) : Prop :=
  (ctxAt s core bank).life = .ending ∧ (ctxAt s core bank).swapped = false ∧ (coreAt s core).frozen = false ∧ (ctxAt s core bank).flights = [] ∧ atomicsOf s core bank = []
  ∧ (∀ c ∈ (coreAt s core).cmds, c.bank ≠ bank) ∧ (∀ g ∈ s.signals, ¬ (g.core = core ∧ g.bank = bank))
  ∧ (∀ r ∈ (ctxAt s core bank).deferred, r.due ≠ 0) ∧ (ctxAt s core bank).traces = [] ∧ retireTurn s core bank = true

/-- What a context is once it has retired (R374, steps 3 to 6): it holds nothing, and keeps its registers and `scyc`. Its boundary counts for the other strand
of its iteration (R338); nothing else of another context changes. -/
def Retired (s t : State) (core bank : Nat) : Prop :=
  let x := ctxAt s core bank
  let y := ctxAt t core bank
  y.life = .empty ∧ y.atts = [] ∧ y.fslots = [] ∧ y.own = [] ∧ y.reports = [] ∧ y.deferred = []
  ∧ y.g = x.g ∧ y.p = x.p ∧ y.k = x.k ∧ y.h = x.h ∧ y.bt = x.bt ∧ y.m = x.m ∧ y.tiles = x.tiles ∧ y.scyc = x.scyc
  ∧ ∀ c n, n < 3 → ¬ (c = core ∧ n = bank) → ctxAt t c n =
      if c = core ∧ (ctxAt s c n).life ≠ .empty ∧ (ctxAt s c n).kernel = x.kernel ∧ (ctxAt s c n).ordinal = x.ordinal
      then { ctxAt s c n with epoch := (ctxAt s c n).epoch + 1 } else ctxAt s c n

/-- The byte at a home slice, written as the latest of the coherence order (R330). -/
def homeBytes (s : State) (a n : Nat) : List Byte := (List.range n).map (fun i => homeByte s (a + i))

end Sys2Proof.Claims

/-- R51 to R55: outside record and replay the head goes, in ordered mode, to the core of index o mod C when it is free, and otherwise at once to the
lowest-indexed free core that holds all its names; when its patience is over, to the free core of highest score, ties to the lowest index; until then its
patience is set, to zero where no core holds any of its names, and zero it stays. Which of two empty banks takes it is the model's choice (log entry 5), and
that the first start of a kernel leaves `rwin` zero is read from R142 (log entry 23). -/
def Obligations.IterationsAreAssigned : Prop :=
  ∀ (s : State) (part : Nat) (k : Kernel) (o : Nat), HeadIs s part k o → (∀ c ∈ coresOf s part, (coreAt s c).active < 2) →
    let names := namesOf k.recBytes o
    let cs := coresOf s part
    (∀ core, k.ordered = true → cs ≠ [] → cs[o % cs.length]? = some core → FreeCore s core → GoesTo (.iterationAssign part) s part k o core)
    ∧ (∀ core, k.ordered = false → FirstFree s part core (fun c => residents s part c names = names.length) →
        GoesTo (.iterationAssign part) s part k o core)
    ∧ (k.ordered = false → (∀ core ∈ cs, ¬ (FreeCore s core ∧ residents s part core names = names.length)) → k.patience = none →
        ∃ n, Becomes (.iterationAssign part) s (modPart s part (fun p => { p with kernel := some { k with patience := some n } }))
          ∧ ((∀ c ∈ cs, ∀ m ∈ names, dirOf s c part m = none) → n = 0)
          ∧ ((∃ c ∈ cs, ∃ m ∈ names, dirOf s c part m ≠ none) → n = nestPatience k.recBytes))
    ∧ (k.ordered = false → k.patience ≠ none → (∀ c ∈ cs, ∀ m ∈ names, dirOf s c part m = none) → (∀ core ∈ cs, ¬ FreeCore s core) →
        Becomes (.patienceExpiry part) s (modPart s part (fun p => { p with kernel := some { k with patience := some 0 } })))
    ∧ ∀ core, k.ordered = false → (k.patience = some 0 ∨ (k.patience ≠ none ∧ ∀ c ∈ cs, ∀ m ∈ names, dirOf s c part m = none)) →
        FirstFree s part core (fun c => ∀ d ∈ cs, FreeCore s d → residents s part d names ≤ residents s part c names) →
        GoesTo (.patienceExpiry part) s part k o core

/-- R128, R338, R374: a context at its end pointer drains first, and with nothing in flight and its commands complete, outside record and replay, releases
what it holds, publishes its writes and becomes empty, an iteration leaving its kernel's running ones; an epoch that every iteration has passed closes, its held
contributions applied in the order of ordinal and index and no longer held. -/
def Obligations.StrandsRetireAndEpochsClose : Prop :=
  (∀ (s : State) (core bank : Nat), bank < 3 → Unlogged s core bank → (ctxAt s core bank).trace = false →
     let i : Instr := if bank = 2 then .secondaryEnd core else .iterationRetire core bank
     ((ctxAt s core bank).life = .ending → (ctxAt s core bank).swapped = false → (coreAt s core).frozen = false → (ctxAt s core bank).flights ≠ [] →
         atomicsOf s core bank = [] → (∀ f ∈ (ctxAt s core bank).flights, flightReached s core f = true) → Becomes i s (drain s core bank))
     ∧ (ReadyToRetire s core bank → Answers i s (fun t => Retired s t core bank
         ∧ (∀ k, (partAt s (ctxAt s core bank).part).kernel = some k → (partAt t (ctxAt s core bank).part).kernel = some (
             if bank ≠ 2 ∧ k.id = (ctxAt s core bank).kernel then { k with running := k.running.filter (fun o => o != (ctxAt s core bank).ordinal) }
             else k))
         ∧ t.boundary = afterCore s bank ∧ t.hist = (publish s core bank 3 (afterCore s bank)).hist)))
  ∧ (∀ (s : State) (part : Nat) (k : Kernel), (partAt s part).kernel = some k → holdsReductions s part = true → k.next = nestTotal k.recBytes → k.report = none →
       ((∃ e ∈ contextsOf s part, e.2 ≠ 2 ∧ (ctxAt s e.1 e.2).kernel = k.id) ∨ ∃ a ∈ s.reds, a.kernel = k.id) →
       (∀ e ∈ contextsOf s part, e.2 ≠ 2 → (ctxAt s e.1 e.2).kernel = k.id → k.closed < (ctxAt s e.1 e.2).epoch) →
       Answers (.epochClose part) s (fun t => (partAt t part).kernel = some { k with closed := k.closed + 1 }
         ∧ t.reds = s.reds.filter (fun a => !(a.kernel == k.id && decide (a.epoch ≤ k.closed)))
         ∧ (∀ a, s.reds.filter (fun a => a.kernel == k.id && decide (a.epoch ≤ k.closed)) = [a] →
             homeBytes t a.pa (a.width / 8) =
               bytesOf (a.width / 8) (atomicValue a.op a.width (homeNat s a.pa (a.width / 8)) (a.operand.toNat % 2 ^ a.width) 0))
         ∧ ∀ a b, s.reds.filter (fun a => a.kernel == k.id && decide (a.epoch ≤ k.closed)) = [a, b] →
             (b.ordinal < a.ordinal ∨ (b.ordinal = a.ordinal ∧ b.index < a.index)) →
             t.hist = (applyRed s.boundary (applyRed s.boundary s b) a).hist))
namespace Sys2Proof.Claims

/-! ### The leaf controllers and the Still (R59, R62, R70, R75 to R83, R129, R204, R348, R355) -/

/-- A parked context goes on at its place (R355). -/
def awake (s : State) (core bank : Nat) : State := modCtx s core bank (fun x => { x with life := .ready })

/-- A parked context will enter its handler with a cause (R355). -/
def turnedAway (s : State) (core bank cause : Nat) (tval : Word) : State :=
  modCtx s core bank (fun x => { x with life := .refused cause tval ((ctxAt s core bank).tcause.toNat / 256 % 32) })

/-- A copy of a segment in the directory of a core. -/
def copyOf (s : State) (core : Nat) (g : Segment) : Option DirEntry := (coreAt s core).dir.find? (fun d => d.owner == g.owner && d.name == g.name)

/-- The bytes of a segment's image at the device-scope ordering point (R59). -/
def imageBytes (s : State) (g : Segment) : List Byte := (List.range (g.size / 4096)).flatMap (fun k => deviceBytes s (imageAddr g (4096 * k)) 4096)

/-- A change of every context that waits for a code page. -/
def wakeReaders (s : State) (pasid page : Nat) : State :=
  let go := fun (x : Ctx) => if (x.pasid = pasid ∨ endPage ≤ page) ∧ x.life = .parked (.codePage page) then { x with life := .ready } else x
  { s with cores := s.cores.map (fun e => (e.1, { e.2 with b0 := go e.2.b0, b1 := go e.2.b1, sec := go e.2.sec })) }

/-- A load begins (R59, R62): the copy is entered as loading, and what it is to hold is read then, a frozen copy's from the nearest core that has one, and
otherwise the image as the device-scope point holds it, so that a store published later does not reach it (R63). -/
def loadBegun (s : State) (core : Nat) (g : Segment) (off : Nat) : State :=
  let v := placeCopy s core g off .loading []
  let bytes := match (if g.frozen then (nearestCopy v core g).bind (fun c => (copyOf v c g).map (fun d => peeks (coreAt v c).sp d.off g.size)) else none) with
    | some l => l
    | none => imageBytes v g
  setCore v core { coreAt v core with sp := pokes (coreAt v core).sp off bytes }

/-- The answer to a request of a blocked bundle; what the scheduler judges has gone up and come down the leaf's command link (R42). -/
def said (s : State) (core bank : Nat) (r : Request) (reason : Nat) : State :=
  modCtx (sendLink (sendLink s (leafOf core) false) (leafOf core) true) core bank (fun x => { x with ask := .answered r reason })

/-- The state when the leaf has dealt with a report for a context (R348, R350, R374): pending with the latch set, lost when eight are pending, dropped when
the context holds nothing. -/
def reportLanded (s : State) (f : FlyReport) (r : Report) : State :=
  let x := ctxAt s f.core f.bank
  if x.life = .empty then bump s 0x1C9 1
  else if 8 ≤ x.reports.length then
    bump (setCtx s f.core f.bank { x with tstat := x.tstat ||| 0x100, latch := true }) 0x1C9 1
  else setCtx s f.core f.bank { x with reports := x.reports ++ [r], latch := true }

end Sys2Proof.Claims

/-- R59, R62, R63, R70, R201, R204, R288, R355, R380: the leaf answers a parked context: an attach miss is refused with its reason, makes a victim leave or begins a
load where there is room, which reads the image then, or goes on when the copy is there; a handle is translated again once its page is mapped, as data of the
device, as code, or as a page of the host, which faults anew with 0x0B and is then asked for, and waits while its page is unmapped or the host has been asked for
it; a code page without a mapping is refused and one that is there goes on; a full log is spilled, or ends the kernel with reason 0; a request of a blocked
bundle gets its answer. That what the scheduler judges goes up and down the command link as one message each way (`said`) is the model's choice (log entry 46). A
load that ends makes the copy resident. -/
def Obligations.LeafServesContexts : Prop :=
  (∀ (s : State) (core bank name : Nat) (write : Bool), bank < 3 → (ctxAt s core bank).life = .parked (.attach name write) →
    let part := (ctxAt s core bank).part
    (segOf s part name = none → Becomes (.leafAnswer core bank) s (turnedAway s core bank 0x11 1))
    ∧ ∀ g, segOf s part name = some g → g.name = name →
      (g.lost = true → Becomes (.leafAnswer core bank) s (turnedAway s core bank 0x11 0x0C))
      ∧ (∀ d, g.lost = false → copyOf s core g = some d → d.state = .clean ∨ d.state = .dirty ∨ d.state = .frozen →
          Becomes (.leafAnswer core bank) s (awake s core bank))
      ∧ (g.lost = false → copyOf s core g = none → (g.frozen = true ∨ ∀ e ∈ s.cores, e.1 ≠ core → e.2.dir.find? (fun d => d.owner == g.owner && d.name == g.name) = none) →
          (roomStep s core g.size = .none → Becomes (.leafAnswer core bank) s (turnedAway s core bank 0x11 3))
          ∧ (∀ u, roomStep s core g.size = .evict u → Becomes (.leafAnswer core bank) s u)
          ∧ ∀ u off, roomStep s core g.size = .at_ u off → Becomes (.leafAnswer core bank) s (loadBegun u core g off))
      ∧ ∀ c d, g.lost = false → copyOf s core g = none → g.frozen = false → copyElsewhere s core g = some (c, d) → 0 < d.attach →
          Becomes (.leafAnswer core bank) s (turnedAway s core bank 0x11 2))
  ∧ (∀ (s : State) (core bank h : Nat), bank < 3 → (ctxAt s core bank).life = .parked (.handle h) →
    let x := ctxAt s core bank
    let va := BitVec.ofNat 64 (hVa (tgetD x.h h 0))
    let goesOn := Becomes (.leafAnswer core bank) s
      (awake (modCtx s core bank (fun x => { x with h := tset x.h h (translate s x.pasid va 0) })) core bank)
    (findMap s x.pasid va = none →
      (codePage s x.pasid (va.toNat / 4096 * 4096) = none → Becomes (.leafAnswer core bank) s s)
      ∧ (codePage s x.pasid (va.toNat / 4096 * 4096) ≠ none → goesOn))
    ∧ ∀ m, findMap s x.pasid va = some m →
      (m.host = true → x.tcause.toNat % 256 = 0x0B → Becomes (.leafAnswer core bank) s s)
      ∧ (m.host = true → x.tcause.toNat % 256 ≠ 0x0B → goesOn)
      ∧ (m.host = false → goesOn))
  ∧ (∀ (s : State) (core bank page : Nat), bank < 3 → (ctxAt s core bank).life = .parked (.codePage page) →
    let x := ctxAt s core bank
    (codePage s x.pasid page = none → Becomes (.leafAnswer core bank) s (turnedAway s core bank 0x0A x.tval))
    ∧ ∀ c, codePage s x.pasid page = some c → Becomes (.leafAnswer core bank) s (if c.present then awake s core bank else s))
  ∧ (∀ (s : State) (core bank log slice : Nat) (ws : List Word), bank < 3 → log ≠ 4 → (ctxAt s core bank).life = .parked (.log log slice ws) →
    let x := ctxAt s core bank
    (spillLog s core bank log ws = none →
      Becomes (.leafAnswer core bank) s (endKernel s core bank 0 (x.tcause.toNat / 256 % 32) 0x20 x.tval x.epc))
    ∧ ∀ u, spillLog s core bank log ws = some u → (ctxAt u core bank).life = x.life → Becomes (.leafAnswer core bank) s (awake u core bank))
  ∧ (∀ (s : State) (core bank : Nat) (r : Request), bank < 3 → (ctxAt s core bank).life = .ready → (ctxAt s core bank).ask = .waiting r →
      let part := (ctxAt s core bank).part
      (∀ w, r = .watch w → Becomes (.leafAnswer core bank) s (modCtx s core bank (fun x => { x with ask := .answered r 0 })))
      ∧ (∀ n, r = .freeze n → Becomes (.leafAnswer core bank) s (said s core bank r 0))
      ∧ (∀ n, r = .drop n →
          (∀ e, judgeDrop s part n = .error e → Becomes (.leafAnswer core bank) s (said s core bank r e))
          ∧ (∀ g, judgeDrop s part n = .ok g → Becomes (.leafAnswer core bank) s (said s core bank r 0))
          ∧ (segOf s part n = none → Becomes (.leafAnswer core bank) s (said s core bank r 1)))
      ∧ ∀ n size, r = .create n size →
          (∀ e, judgeCreate s part n = some e → Becomes (.leafAnswer core bank) s (said s core bank r e))
          ∧ (segOwned s part n ≠ none → Becomes (.leafAnswer core bank) s (said s core bank r 0x0A))
          ∧ (judgeCreate s part n = none →
              (roomStep s core size = .none → Becomes (.leafAnswer core bank) s (said s core bank r 3))
              ∧ (∀ u, roomStep s core size = .evict u → Becomes (.leafAnswer core bank) s u)
              ∧ ∀ u off, roomStep s core size = .at_ u off → Becomes (.leafAnswer core bank) s (said u core bank r 0)))
  ∧ ∀ (s : State) (core : Nat) (d : DirEntry) (g : Segment),
      (coreAt s core).dir.filter (fun e => e.name == d.name && e.state == .loading) = [d] → (coreAt s core).dir.Nodup →
      (∀ e ∈ (coreAt s core).dir, e.owner = d.owner → e.name = d.name → e = d) → d.owner < 24 → Trained s →
      segOwned s d.owner d.name = some g → g.frozen = true ∨ (∀ e ∈ s.cores, e.1 ≠ core → ∀ f ∈ e.2.dir, ¬ (f.owner = d.owner ∧ f.name = d.name)) →
      Answers (.segmentLoadDone core d.name) s (fun t => copyOf t core g = some { d with state := if g.frozen then .frozen else .clean, dirty := [], version := g.version, stamp := s.stamp }
        ∧ (coreAt t core).sp = (coreAt s core).sp
        ∧ ∀ c, c ≠ core → coreAt t c = coreAt s c)

/-- R11, R70, R75 to R83, R129, R348, R385: a chunk that passes its check is paged in and its waiting contexts go on, and one that does not changes nothing; a
pending change takes effect when nothing uses its page, and a page without one may go from device memory at any time, which is the model's choice (log entry 28); a page that the Still has a checked entry for is native
afterwards and the contexts that wait for it go on, an entry that fails its check is discarded, and a rewrite that fails ends their kernels with reason 6; the secondary's bubble follows 4,096 collisions; a report lands pending, lost or dropped. -/
def Obligations.PagesReportsAndBubblesArrive : Prop :=
  (∀ (s : State) (pasid page : Nat) (c : CodePage) (h : BitVec 256), s.code.find? (fun c => c.pasid == pasid && c.va == page && !c.present) = some c →
    c.src = .chunk h →
    (checkedChunk s h = none → Becomes (.codePageInDone pasid page) s s)
    ∧ ∀ m, checkedChunk s h = some m → Becomes (.codePageInDone pasid page) s (wakeReaders { markVerified s [h] with code := s.code.map (fun e =>
        if e.pasid = pasid ∧ e.va = page then { e with present := true, checked := false, bytes := m } else e) } pasid page))
  ∧ (∀ (s : State) (pasid page : Nat),
    (pageUsed s pasid page = true → Becomes (.pageReplace pasid page) s s)
    ∧ (pageUsed s pasid page = false → Answers (.pageReplace pasid page) s (fun t => ∃ code, t = { s with code := code }
        ∧ code.length = s.code.length
        ∧ ∀ (i : Nat) (c : CodePage), s.code[i]? = some c → code[i]? = some (match c.next with
          | some (src, m) => if c.pasid = pasid ∧ c.va = page then
              { c with src := src, bytes := m, checked := false, next := none, origin := if isNative c then c.origin else some (c.src, c.bytes) } else c
          | none => if c.pasid = pasid ∧ c.va = page ∧ reclaimable c = true then { c with present := false, checked := false } else c))))
  ∧ (∀ (s : State) (pasid page : Nat) (c : CodePage), codePage s pasid page = some c → isForeign c = true →
    let waiting := fun (core bank : Nat) => bank < 3 ∧ core ∈ s.cores.map (fun e => e.1) ∧ (ctxAt s core bank).pasid = pasid
      ∧ ∃ entry, (ctxAt s core bank).life = .parked (.still entry) ∧ entry.toNat / 4096 * 4096 = page
    (∀ o leaf home annexes, s.overlay.find? (fun o => o.key == overlayKey c) = some o → storedPages s o = some ((leaf, home) :: annexes) → c.pasid = pasid → c.va = page →
      rising s.cores = true → (∃ core bank, waiting core bank) →
      (∀ i, i < annexes.length → annexVa (annexSlot o.key) (i + 1) ≠ page) → pageUsed s pasid page = false →
      Answers (.stillRewriteDone pasid page) s (fun t =>
        (∃ e ∈ t.code, e.pasid = pasid ∧ e.va = page ∧ e.src = .native leaf ∧ e.bytes = home ∧ e.present = true ∧ e.checked = false
            ∧ e.origin = some (c.src, c.bytes))
        ∧ (∀ core bank, waiting core bank → (ctxAt t core bank).life = .ready ∧ (ctxAt t core bank).seq.entering = true) ∧ t.hist = s.hist))
    ∧ (rewrite c = none → ∀ core bank, c.pasid = pasid → c.va = page → stillWaiters s pasid page = [(core, bank)] →
      let x := ctxAt s core bank
      let failed := fun (u : State) => endKernel (bump u 0x1C4 1) core bank 6 (x.tcause.toNat / 256 % 32) 0x04 x.tval x.epc
      (s.overlay.find? (fun o => o.key == overlayKey c) = none → Becomes (.stillRewriteDone pasid page) s (failed s))
      ∧ ∀ o, s.overlay.find? (fun o => o.key == overlayKey c) = some o → storedPages s o = none →
          Becomes (.stillRewriteDone pasid page) s (failed (discardEntry s o))))
  ∧ (∀ (s : State) (core : Nat), 4096 ≤ (coreAt s core).collide → (coreAt s core).bubble = false →
      let c := coreAt s core
      Becomes (.secondaryBubble core) s (bump (setCore s core { c with bubble := true, collide := 0, secins := c.secins + 1 }) 0x1C7 1))
  ∧ ∀ (s : State) (f : FlyReport), s.flying.find? (fun e => e.id == f.id) = some f →
      let skid := (coreAt s f.core).wcyc.toNat - f.landed
      Becomes (.impreciseReportArrival f.id) s (reportLanded { s with flying := s.flying.filter (fun e => e.id != f.id) } f
        (if f.report.cause = 0x22 then { f.report with wp := f.report.wp ||| BitVec.ofNat 64 (skid % 256 * 2 ^ 40) } else f.report))

namespace Sys2Proof.Claims

/-! ### Pre-emption, machine checks and stops (R35, R299, R354 to R359, R384) -/

/-- Every context of a partition is in shadow storage or discarded, and its cores stand (R357). -/
def Aside (s t : State) (part : Nat) : Prop :=
  (∀ c ∈ coresOf s part, ∀ b, b < 3 → (ctxAt s c b).life ≠ .empty → (ctxAt s c b).part = part →
    if endingKernel s part = true then (ctxAt t c b).life = .discarded ∨ (ctxAt t c b).swapped = true
    else (ctxAt t c b).swapped = true ∨ (ctxAt s c b).life = .discarded)
  ∧ (∀ e ∈ t.cores, e.1 ∈ coresOf s part → e.2.frozen = true)
  ∧ ∀ c, c ∉ coresOf s part → coreAt t c = coreAt s c

/-- A partition goes on from shadow storage: every context has what it had, its results in flight with their remaining cycles; only the rows of loaded
fetch slots may be staged anew (R266, R358). -/
def Restored (s t : State) (part : Nat) : Prop :=
  (∀ c ∈ coresOf s part, ∀ b, b < 3 → (ctxAt s c b).life ≠ .empty → (ctxAt s c b).part = part →
    ∃ fs, ctxAt t c b = { ctxAt s c b with swapped := false, fslots := fs }
      ∧ ∀ n f, tget (ctxAt s c b).fslots n = some f → ∃ g, tget fs n = some g ∧ g.state = f.state ∧ g.handle = f.handle ∧ g.addr = f.addr
        ∧ (f.state ≠ .loaded → g = f))
  ∧ (∀ c ∈ coresOf s part, (coreAt t c).frozen = false ∧ (coreAt t c).sp = (coreAt s c).sp ∧ (coreAt t c).cmds = (coreAt s c).cmds)
  ∧ (∀ c, c ∉ coresOf s part → coreAt t c = coreAt s c)
  ∧ partAt t part = { partAt s part with halt := .none } ∧ t.hist = s.hist ∧ t.first = s.first

/-- The kernel of a partition ends because data was lost: reason 7, cause 0x28 (R354, R359). -/
def DataLost (s t : State) (core bank : Nat) (addr : Word) : Prop :=
  (ctxAt t core bank).life = .discarded
  ∧ ∀ k, (partAt s (ctxAt s core bank).part).kernel = some k → k.report = none → ∃ k' r, (partAt t (ctxAt s core bank).part).kernel = some k'
      ∧ k'.report = some r ∧ natOfBytes ((r.drop 24).take 4) = 7 ∧ natOfBytes ((r.drop 16).take 1) = 0x28 ∧ natOfBytes ((r.drop 8).take 8) = addr.toNat

/-- The command word of a stopped partition (R384). -/
def commandWord (s : State) (part : Nat) : Nat := deviceNat s (partAt s part).stdmpPa 8

end Sys2Proof.Claims

/-- R35, R299, R354, R356 to R359, R384: a request starts a pre-emption; an expired watchdog swaps every context out, stands the cores and counts; a
resumption gives every context back what it had; an uncorrectable error defers 0x28, ends a command with 0x03, discards a copy or ends the kernel with reason
7; a stop freezes the partition at gclk S + 200 and writes the dump, and once the host has written the command word, the word resumes the partition or ends its
kernel with reason 3. -/
def Obligations.HaltsFreezeAndResume : Prop :=
  (∀ (s : State) (part : Nat), (partAt s part).kernel.isSome = true → (partAt s part).halt = .none →
    Becomes (.preemptRequest part) s (modPart s part (fun p => { p with halt := .preempting })))
  ∧ (∀ (s : State) (part : Nat), ((partAt s part).halt = .preempting ∨ (partAt s part).halt = .halted) → allAside s part = false → Trained s →
    Answers (.watchdogExpiry part) s (fun t => Aside s t part
      ∧ tgetD t.counters 0x1C5 0 = (if tgetD s.counters 0x1C5 0 = BitVec.allOnes 64 then BitVec.allOnes 64 else tgetD s.counters 0x1C5 0 + 1)))
  ∧ (∀ (s : State) (part : Nat), (partAt s part).halt = .preempting → allAside s part = true → endingKernel s part = false →
    Answers (.partitionResume part) s (fun t => Restored s t part))
  ∧ (∀ (s : State) (c b : Nat) (addr : Word) (f : Flight), b < 3 → (ctxAt s c b).life ≠ .empty → addr.toNat / 2 ^ 60 = 0 →
      (ctxAt s c b).flights.find? (readsScratch (addr.toNat % 2 ^ 52)) = some f →
      (∀ n va need, f.late ≠ .xlt n va need) → (∀ g ∈ (ctxAt s c b).flights, g.id = f.id → g = f) →
      Answers (.machineCheck (.core c b addr)) s (fun t =>
        (∃ r ∈ (ctxAt t c b).deferred, r.cause = 0x28 ∧ r.tval = addr &&& 0x000FFFFFFFFFFFFF ∧ r.slot = f.slot ∧ r.due = f.last - f.age)
        ∧ (ctxAt t c b).flights.length = (ctxAt s c b).flights.length
        ∧ (∀ (i : Nat) (g : Flight), (ctxAt s c b).flights[i]? = some g →
            (ctxAt t c b).flights[i]? = some (if g.id = f.id then { g with writes := [], late := .none } else g))
        ∧ (ctxAt t c b).g = (ctxAt s c b).g ∧ (ctxAt t c b).m = (ctxAt s c b).m ∧ (coreAt t c).sp = (coreAt s c).sp))
  ∧ (∀ (s : State) (c b : Nat) (addr : Word), b < 3 → (addr.toNat / 2 ^ 60 = 4 ∨ addr.toNat / 2 ^ 60 = 5
        ∨ (addr.toNat / 2 ^ 60 = 1 ∧ ∃ o ∈ (ctxAt s c b).own, ∃ e ∈ o.bytes, e.1 / 8 = addr.toNat % 2 ^ 52 / 8)) →
      Answers (.machineCheck (.core c b addr)) s (fun t => DataLost s t c b (addr &&& 0xF00FFFFFFFFFFFFF)))
  ∧ (∀ (s : State) (c b : Nat) (addr : Word), b < 3 → addr.toNat / 2 ^ 60 = 1 →
      (∀ o ∈ (ctxAt s c b).own, ∀ e ∈ o.bytes, e.1 / 8 ≠ addr.toNat % 2 ^ 52 / 8) → Becomes (.machineCheck (.core c b addr)) s (bump s 0x1C2 1))
  ∧ (∀ (s : State) (c id : Nat), Answers (.machineCheck (.command c id)) s (fun t => (coreAt t c).cmds.length = (coreAt s c).cmds.length
      ∧ ∀ (i : Nat) (k : Cmd), (coreAt s c).cmds[i]? = some k →
          (coreAt t c).cmds[i]? = some (if k.id = id ∧ k.started = true ∧ k.status = 0 then { k with status := 0x03 } else k)))
  ∧ (∀ (s : State) (c name : Nat) (d : DirEntry), (coreAt s c).dir.find? (fun d => d.name == name && d.state != .loading) = some d → d.owner < 24 →
      Answers (.machineCheck (.copy c name)) s (fun t =>
        (∀ e ∈ (coreAt t c).dir, ¬ (e.owner = d.owner ∧ e.name = name))
        ∧ (d.dirty ≠ [] → ∀ g, segOwned t d.owner name = some g → g.lost = true)
        ∧ (d.dirty = [] → ∀ g, segOwned t d.owner name = some g → ∃ g0, segOwned s d.owner name = some g0 ∧ g.lost = g0.lost)
        ∧ (coreAt t c).sp = (coreAt s c).sp))
  ∧ (∀ (s : State) (part g core bank kind : Nat), (partAt s part).halt = .stopping g core bank kind →
      (s.gclk < g + 200 → Becomes (.partitionStopFreeze part) s s)
      ∧ (g + 200 ≤ s.gclk → Answers (.partitionStopFreeze part) s (fun t => (partAt t part).halt = .stopped core bank false
          ∧ (endingKernel s part = false → Aside s t part)
          ∧ ∃ u dump, t = modPart (schedWrite u (partAt s part).stdmpPa dump) part (fun p => { p with halt := .stopped core bank false })
            ∧ dump.take 32 = bytesOf 8 0 ++ bytesOf 8 g ++ bytesOf 1 core ++ bytesOf 1 bank ++ bytesOf 1 0x31 ++ bytesOf 1 kind ++ bytesOf 4 0
                ++ bytesOf 8 (ctxAt s core bank).scyc.toNat)))
  ∧ (∀ (s : State) (part core bank : Nat), (partAt s part).halt = .stopped core bank true → commandWord s part = 1 →
      Answers (.dumpResume part) s (fun t => Restored s t part))
  ∧ (∀ (s : State) (part core bank : Nat) (k : Kernel), (partAt s part).halt = .stopped core bank true → commandWord s part = 2 →
      (partAt s part).kernel = some k → k.report = none → Answers (.dumpEndKernel part) s (fun t =>
        (∃ k' r, (partAt t part).kernel = some k' ∧ k'.report = some r ∧ natOfBytes ((r.drop 24).take 4) = 3 ∧ natOfBytes ((r.drop 18).take 1) = core % 256
          ∧ natOfBytes ((r.drop 19).take 1) = bank % 256)
        ∧ ∀ c ∈ coresOf s part, ∀ b, b < 3 → (ctxAt s c b).life ≠ .empty → (ctxAt s c b).part = part → (ctxAt t c b).life = .discarded))
  ∧ ∀ (s : State) (part core bank : Nat) (told : Bool), (partAt s part).halt = .stopped core bank told →
      (told = false ∨ commandWord s part ≠ 1 → Becomes (.dumpResume part) s s)
      ∧ (told = false ∨ commandWord s part ≠ 2 → Becomes (.dumpEndKernel part) s s)

namespace Sys2Proof.Claims

/-! ### Engine commands, signals, peers and links (R287 to R299, R303, R304, R313 to R316) -/

/-- No byte of the scratchpad that a command reads holds an old or a new value: it reads what the core holds (R289). -/
def NearSettled (s : State) (core : Nat) (c : Cmd) : Prop :=
  c.near = (coreAt s core).sp ∧ spView s core c.bank 0 (16 + c.tag) = (coreAt s core).sp

/-- A command of a core, its id its own. -/
def IsCommand (s : State) (core : Nat) (c : Cmd) : Prop := (coreAt s core).cmds.find? (fun e => e.id == c.id) = some c

/-- The end of a command with a status (R298, R299): `tgst`, then the bit of `ctb`; the command has left its core. -/
def Ended (s t : State) (core : Nat) (c : Cmd) (status failAt : Nat) : Prop :=
  tgetD (coreAt t core).tgst c.tag 0 = BitVec.ofNat 64 (status % 256 + 256 * (failAt % 2 ^ 32))
  ∧ (coreAt t core).ctb = (coreAt s core).ctb ||| (1 : Word) <<< c.tag
  ∧ (coreAt t core).cmds = (coreAt s core).cmds.filter (fun e => e.id != c.id)

/-- The event latch of every context of a core is set (R365). -/
def woken (s : State) (core : Nat) : State :=
  let c := coreAt s core
  setCore s core { c with b0 := { c.b0 with latch := true }, b1 := { c.b1 with latch := true }, sec := { c.sec with latch := true } }

/-- No addition to a semaphore that comes after one of rank `rank` has been made in this cycle (R304). -/
def NotOvertaken (s : State) (core sem rank : Nat) : Prop := ∀ h ∈ (coreAt s core).heard, h.1 = sem → h.2 ≤ rank

/-- A command that moves without a wait, boundary or peer, and signals nobody. -/
def Plain (c : Cmd) : Prop := c.acq = false ∧ c.rel = false ∧ c.signal = none

end Sys2Proof.Claims

/-- R287, R289, R290, R293, R297 to R299, R305: a command stays unstarted for two cycles, and while its semaphore is below its wait, its core is frozen, or an earlier command holds
a range of it; then it starts. A copy to global memory and a fill end with their bytes written, a copy to the scratchpad, or to another core's, with the bytes it
read at its start (R326, R336), and each with status 0, its tag and its signal; a command that failed ends with its status, its tag and its signal too. One that works at a stack in
training, or across a bridge in training, does not end, and at a failed one it ends with 0x03 (R395). -/
def Obligations.CommandsStartAndComplete : Prop :=
  (∀ (s : State) (core : Nat) (c : Cmd), IsCommand s core c →
    (c.started = true ∨ (coreAt s core).frozen = true ∨ (coreAt s core).wcyc.toNat < c.born + 2
      ∨ (∃ sem v, c.wait = some (sem, v) ∧ (tgetD (coreAt s core).sems sem 0).toNat < v)
      ∨ (∃ a ∈ earlier c (coreAt s core).cmds, conflicts a c = true)) → Becomes (.commandStart core c.id) s s)
  ∧ (∀ (s : State) (core : Nat) (c : Cmd), IsCommand s core c → mayStart s core c = true → c.acq = false → isLink c = false →
      Answers (.commandStart core c.id) s (fun t => (∃ d, IsCommand t core d ∧ d.started = true ∧ d.near = spView s core c.bank 0 (16 + c.tag)
          ∧ d.tag = c.tag ∧ d.kind = c.kind ∧ d.signal = c.signal ∧ d.reads = c.reads ∧ d.writes = c.writes
          ∧ (∀ off n base far farCore key size, c.kind = .cpy 0 off n base size far farCore 512 false false key →
              d.status = 0 ∧ d.alt = (List.range n).map (fun j => (core, off + j, histByte s.first s.hist (entryVisible (partyOf s core c.bank) d.seen) (base + far + j))))
          ∧ (∀ off n base far farCore key size, c.kind = .cpy 2 off n base size far farCore 512 false false key →
              d.status = 0 ∧ d.alt = (List.range n).map (fun j => (farCore, far + j, peek d.near (off + j)))))
        ∧ (coreAt t core).sp = (coreAt s core).sp ∧ (coreAt t core).tgst = (coreAt s core).tgst ∧ (coreAt t core).ctb = (coreAt s core).ctb
        ∧ t.hist = s.hist))
  ∧ (∀ (s : State) (core : Nat) (c : Cmd), IsCommand s core c → c.started = true → c.status = 0 → Plain c →
      (cmdReached s core c = false → Becomes (.commandComplete core c.id) s s)
      ∧ (cmdReached s core c = true → ((cmdHomes c).any (homeFailed s (dieOf core)) = true ∨ (cmdDies c).any (bridgeFailed s (dieOf core)) = true) →
          Answers (.commandComplete core c.id) s (fun t => ∃ failAt, Ended s t core c 3 failAt)))
  ∧ (∀ (s : State) (core : Nat) (c : Cmd), IsCommand s core c → c.started = true → c.status = 0 → Plain c → Trained s → core < 96 →
      (coreAt s core).watches = [] → Unwatched s →
      (∀ off n base far farCore key size, c.kind = .cpy 1 off n base size far farCore 512 false false key → 0 < n → c.bank < 3 → NearSettled s core c →
          (ctxAt s core c.bank).kernel = c.kernel → (ctxAt s core c.bank).life = .ready →
        Answers (.commandComplete core c.id) s (fun t => Ended s t core c 0 0 ∧ (coreAt t core).sp = (coreAt s core).sp ∧ t.hist = s.hist
          ∧ (ctxAt t core c.bank).own = (ctxAt s core c.bank).own ++ [⟨(ctxAt s core c.bank).index,
              ((List.range n).map (fun j => (base + far + j, peek (coreAt s core).sp (off + j)))).reverse⟩]))
      ∧ (∀ off n base far farCore key size, c.kind = .cpy 0 off n base size far farCore 512 false false key → (coreAt s core).sp.wf = true →
          c.alt.length = n → (∀ i, i < n → ∃ v, c.alt[i]? = some (core, off + i, v)) →
        Answers (.commandComplete core c.id) s (fun t => Ended s t core c 0 c.failAt ∧ t.hist = s.hist
          ∧ (∀ i v, i < n → c.alt[i]? = some (core, off + i, v) → peek (coreAt t core).sp (off + i) = v)
          ∧ ∀ a, a < off ∨ off + n ≤ a → peek (coreAt t core).sp a = peek (coreAt s core).sp a))
      ∧ (∀ off n base far farCore key size, c.kind = .cpy 2 off n base size far farCore 512 false false key → farCore < 96 → farCore ≠ core →
          (coreAt s farCore).sp.wf = true → (coreAt s farCore).watches = [] → c.alt.length = n → (∀ i, i < n → ∃ v, c.alt[i]? = some (farCore, far + i, v)) →
        Answers (.commandComplete core c.id) s (fun t => Ended s t core c 0 c.failAt ∧ (coreAt t core).sp = (coreAt s core).sp ∧ t.hist = s.hist
          ∧ (∀ i v, i < n → c.alt[i]? = some (farCore, far + i, v) → peek (coreAt t farCore).sp (far + i) = v)
          ∧ ∀ a, a < far ∨ far + n ≤ a → peek (coreAt t farCore).sp a = peek (coreAt s farCore).sp a))
      ∧ (∀ at_ n pattern, c.kind = .cfill false at_ n pattern → (coreAt s core).sp.wf = true →
        Answers (.commandComplete core c.id) s (fun t => Ended s t core c 0 0 ∧ t.hist = s.hist
          ∧ (∀ i, i < n → peek (coreAt t core).sp (at_ + i) = BitVec.ofNat 8 (pattern.toNat / 2 ^ (8 * (i % 8))))
          ∧ ∀ a, a < at_ ∨ at_ + n ≤ a → peek (coreAt t core).sp a = peek (coreAt s core).sp a)))
  ∧ (∀ (s : State) (core : Nat) (c : Cmd) (sem inc : Nat), IsCommand s core c → c.bank < 3 → c.status ≠ 0 → isLink c = true → c.total = 0 → c.rel = false → Trained s →
      c.signal = some (false, core, sem, inc) → NotOvertaken s core sem c.tag →
      let v := (tgetD (coreAt s core).sems sem 0).toNat
      Answers (.commandComplete core c.id) s (fun t => Ended s t core c c.status c.failAt
        ∧ (v + inc < 2 ^ 32 → (tgetD (coreAt t core).sems sem 0).toNat = v + inc)
        ∧ (2 ^ 32 ≤ v + inc → tgetD (coreAt t core).sems sem 0 = tgetD (coreAt s core).sems sem 0)
        ∧ (coreAt t core).sp = (coreAt s core).sp ∧ t.hist = s.hist))
  ∧ ∀ (s : State) (core : Nat) (c : Cmd) (target sem inc : Nat), IsCommand s core c → c.status ≠ 0 → isLink c = true → c.total = 0 → c.rel = false → Trained s →
      c.signal = some (false, target, sem, inc) → target ≠ core →
      Answers (.commandComplete core c.id) s (fun t => Ended s t core c c.status c.failAt
        ∧ t.signals = s.signals ++ [{ id := s.nextId, core := core, bank := c.bank, target := target, sem := sem, inc := inc }])

/-- R290, R294, R303, R304, R313 to R316: a signal of another core is added, or reported when the sum would pass 2^32 - 1; one that meets a failed bridge is not
added, which is the model's choice (log entry 53); a peer's copy lands in a program area
and its signal in a core of the same partition, and others are refused; the flits of a send leave at their cycles, a missed cycle ends it with 0x0B; the
flits of a transfer land in the armed receive and end it with 0x0D when the counts differ, other flits are counted, a missed arrival ends it with 0x0C. -/
def Obligations.SignalsPeersAndLinksArrive : Prop :=
  (∀ (s : State) (g : Signal), s.signals.find? (fun e => e.id == g.id) = some g → signalReady s g = true →
    let u := { s with signals := s.signals.filter (fun e => e.id != g.id) }
    let v := (tgetD (coreAt s g.target).sems g.sem 0).toNat
    let r : FlyReport := ⟨s.nextId, g.core, g.bank, ⟨0x1C, BitVec.ofNat 64 (g.sem % 256 + 256 * (g.target % 128)), 31, 0, 0⟩, (coreAt s g.core).wcyc.toNat⟩
    let lost := bridgeFailed s (dieOf g.core) (dieOf g.target)
    (lost = true → Becomes (.remoteSignalArrival g.id) s u)
    ∧ (lost = false → v + g.inc < 2 ^ 32 → Answers (.remoteSignalArrival g.id) s (fun t => (tgetD (coreAt t g.target).sems g.sem 0).toNat = v + g.inc
      ∧ (∀ n, n ≠ g.sem → tgetD (coreAt t g.target).sems n 0 = tgetD (coreAt s g.target).sems n 0)
      ∧ (coreAt t g.target).sp = (coreAt s g.target).sp ∧ t.signals = u.signals ∧ t.flying = s.flying))
    ∧ (lost = false → 2 ^ 32 ≤ v + g.inc → Becomes (.remoteSignalArrival g.id) s { woken u g.target with nextId := s.nextId + 1, flying := s.flying ++ [r] }))
  ∧ (∀ (s : State) (endpoint sender tag core offset : Nat) (bytes : List Byte), s.powered = true → s.boot = .running → NoArrivalLog s →
      (.peerCopyArrival endpoint sender tag core offset bytes) ∉ s.peers →
      (partOfCore s core = none ∨ programEnd s core < offset + bytes.length →
        Becomes (.peerCopyArrival endpoint sender tag core offset bytes) s { s with outbox := s.outbox ++ [.answer endpoint tag 0x05] })
      ∧ (∀ p, partOfCore s core = some p → offset + bytes.length ≤ programEnd s core → (coreAt s core).sp.wf = true → (coreAt s core).watches = [] →
        Answers (.peerCopyArrival endpoint sender tag core offset bytes) s (fun t => t.outbox = s.outbox ++ [.answer endpoint tag 0]
          ∧ (∀ (i : Nat) (b : Byte), bytes[i]? = some b → peek (coreAt t core).sp (offset + i) = b)
          ∧ (∀ a, a < offset ∨ offset + bytes.length ≤ a → peek (coreAt t core).sp a = peek (coreAt s core).sp a)
          ∧ t.hist = s.hist ∧ ∀ c, c ≠ core → coreAt t c = coreAt s c)))
  ∧ (∀ (s : State) (endpoint tag far core sem : Nat) (inc : BitVec 32), s.powered = true → s.boot = .running → NoArrivalLog s →
      (.peerSignalArrival endpoint tag far core sem inc) ∉ s.peers →
      let v := (tgetD (coreAt s core).sems sem 0).toNat
      (partOfCore s core = none ∨ partOfCore s core ≠ partOfCore s far →
        Becomes (.peerSignalArrival endpoint tag far core sem inc) s { s with outbox := s.outbox ++ [.answer endpoint tag 0x05] })
      ∧ (∀ p, partOfCore s core = some p → partOfCore s far = some p →
        (v + inc.toNat < 2 ^ 32 → Answers (.peerSignalArrival endpoint tag far core sem inc) s (fun t => t.outbox = s.outbox ++ [.answer endpoint tag 0]
            ∧ (tgetD (coreAt t core).sems sem 0).toNat = v + inc.toNat
            ∧ ∀ n, n ≠ sem → tgetD (coreAt t core).sems n 0 = tgetD (coreAt s core).sems n 0))
        ∧ (2 ^ 32 ≤ v + inc.toNat → Becomes (.peerSignalArrival endpoint tag far core sem inc) s { woken s core with outbox := s.outbox ++ [.overflow endpoint core sem] })))
  ∧ (∀ (s : State) (core port ch buf len t0 : Nat) (c : Cmd), IsCommand s core c → c.kind = .lsend port ch buf len t0 → c.status = 0 → c.moved < len / 256 →
      (c.moved = 0 → t0 ≤ s.gclkWas → Answers (.linkDeparture core c.id) s (fun t => IsCommand t core { c with status := 0x0B } ∧ t.outbox = s.outbox))
      ∧ (s.gclkWas < t0 ∨ c.moved ≠ 0 → s.gclk < t0 + 64 * c.moved / 75 ∨ c.started = false → Becomes (.linkDeparture core c.id) s s)
      ∧ (s.gclkWas < t0 ∨ c.moved ≠ 0 → c.started = true → t0 + 64 * c.moved / 75 ≤ s.gclk →
          spView s core c.bank 0 (16 + c.tag) = (coreAt s core).sp →
        Answers (.linkDeparture core c.id) s (fun t => IsCommand t core { c with moved := c.moved + 1 }
          ∧ t.outbox = s.outbox ++ [.flit port ch c.moved (len / 256) (t0 + 64 * c.moved / 75) (peeks (coreAt s core).sp (buf + 256 * c.moved) 256)])))
  ∧ (∀ (s : State) (port ch index count : Nat) (bytes : List Byte),
      ((∀ e ∈ s.cores, ∀ c ∈ e.2.cmds, takesFlit s port ch index e.1 c = false) → Becomes (.flitArrival port ch index count bytes) s (bump s 0x1C8 1))
      ∧ ∀ (core buf len a : Nat) (c : Cmd), (receives s).find? (fun e => takesFlit s port ch index e.1 e.2) = some (core, c) → c.kind = .lrecv port ch buf len a →
          bytes.length = 256 → IsCommand s core c → (coreAt s core).sp.wf = true →
        Answers (.flitArrival port ch index count bytes) s (fun t =>
          (∃ d, IsCommand t core d ∧ d.moved = index + 1 ∧ d.total = count ∧ d.status = (if count = len / 256 then 0 else 0x0D))
          ∧ (len / 256 ≤ index → (coreAt t core).sp = (coreAt s core).sp)
          ∧ (index < len / 256 → (∀ (i : Nat) (b : Byte), bytes[i]? = some b → peek (coreAt t core).sp (buf + 256 * index + i) = b)
              ∧ ∀ x, x < buf + 256 * index ∨ buf + 256 * index + 256 ≤ x → peek (coreAt t core).sp x = peek (coreAt s core).sp x)))
  ∧ ∀ (s : State) (core port ch buf len a : Nat) (c : Cmd), IsCommand s core c → c.kind = .lrecv port ch buf len a → c.status = 0 → c.total = 0 →
      (a ≤ s.gclkWas → Answers (.linkReceiveMiss core c.id) s (fun t => IsCommand t core { c with status := 0x0C } ∧ (coreAt t core).sp = (coreAt s core).sp))
      ∧ (s.gclkWas < a → Becomes (.linkReceiveMiss core c.id) s s)

namespace Sys2Proof.Claims

/-! ### A step (log entry 7; R68, R89, R93, R125, R136, R350) -/

/-- The context of bank `bank` of a core is about to issue the bundle `b` of its page `c`, whose only instruction is that of `w`, or the empty
bundle's `NOP`: the core has the turn, nothing
of it or on its way to it is in flight, waits or is due, no stop, log or replay stands in the way, and the parse of the bytes at the program counter gives `b`. -/
def AboutToIssue (s : State) (core bank : Nat) (c : CodePage) (b : Bundle) (w : SlotWord) : Prop :=
  let k := coreAt s core
  let x := ctxAt s core bank
  (s.turn = core ∧ bank < 2 ∧ k.active = bank ∧ k.hold ≤ 1 ∧ k.frozen = false ∧ k.bubble = false ∧ k.sec.life = .empty)
  ∧ (∀ n, n < 3 → (ctxAt s core n).flights = [] ∧ (partAt s (ctxAt s core n).part).halt = .none)
  ∧ atomicsOf s core bank = [] ∧ (∀ f ∈ s.flying, f.core = core → reportDue s f = false)
  ∧ (x.life = .ready ∧ x.swapped = false ∧ x.deferred = [] ∧ x.reports = [] ∧ x.stall = (0, 0) ∧ x.starting = false ∧ x.skipWatch = false ∧ x.traces = [])
  ∧ (∀ d, x.dec = some d → spacing d ≤ d.since + (if x.ticked then 0 else 1))
  ∧ Unlogged s core bank ∧ stopsOn s x.part = false
  ∧ (x.seq.entering = false ∧ x.seq.crossing = false ∧ x.seq.page ≠ 0xFF00000000000000)
  ∧ codePage s x.pasid x.seq.page = some c ∧ c.present = true ∧ isBlf c = false
  ∧ (c.checked = true ∨ trailerOk s x.pasid c (x.seq.page != x.seq.home) = true) ∧ x.seq.off < pageLength c.bytes ∧ (pageTag c.bytes = 0x31 ∨ pageTag c.bytes = 0)
  ∧ parseBundle ⟨pageTag c.bytes == 0x31, false, s.conf.features⟩ (unitAt c.bytes) x.seq.off = .ok b ∧ b.marker = none
  ∧ (b.words = [w] ∨ (b.words = [] ∧ w = { slot := 31, off := x.seq.off, instr := .nop }))

/-- The bundle is latched: a wall cycle of the core has begun, the sequencer stands after the bundle, its pages are checked. In a Gelxis page the schedule has moved
on for the bundle once, however often it is tried (R133). -/
def latchedState (s : State) (core bank : Nat) (c : CodePage) (b : Bundle) (w : SlotWord) : State :=
  let k := coreAt s core
  let x := ctxAt s core bank
  let gelxis := pageTag c.bytes == 0x31
  let y := { x with seq := { x.seq with off := x.seq.off + b.size }, ticked := x.ticked || gelxis
                    dec := if gelxis && x.ticked then x.dec else x.dec.map (fun d => { d with since := d.since + 1 }) }
  let u := setCore s core (setCtxIn { k with wcyc := k.wcyc + 1, stale := [], heard := [], hold := k.hold - 1, secHold := k.secHold - 1 } bank y)
  let u := markChecked (markChecked u x.pasid x.seq.home) x.pasid x.seq.page
  let j : Job := { slot := w.slot, off := w.off, instr := w.instr }
  { u with
    issued := true
    cur := { Cur.reset with
      core := core, bank := bank, page := x.seq.page, home := x.seq.home, off := x.seq.off, size := b.size, gelxis := gelxis
      drain := b.drain, pend0 := x.seq.pend, jobs := [j], word := x.seq.off, out := .ran } }

/-- The issue register stands at the one instruction of the bundle. -/
def aimed (t : State) (w : SlotWord) : State := { t with cur := { t.cur with slot := w.slot, word := w.off, out := .ran } }

/-- The instruction has run: what it put in flight carries the code of its matrix destination, which a schedule error would name (R131). -/
def ranAs (t v : State) (w : SlotWord) : State := markFlights (aimed t w) v w.instr

/-- The schedule without its first entry. -/
def unscheduled (s : State) (r : List Event) : State := { s with agenda := r }

/-- The core's cycle closes without a bundle of the secondary, and the turn passes on. -/
def cycleOver (u : State) (core : Nat) : State :=
  let u := setCore u core { coreAt u core with collide := 0, bubble := false }
  passTurn { u with cur := { Cur.reset with core := core, bank := 2 } }

/-! ### Encodings (R88 to R105) -/

/-- A word written out from the spec's encodings stands for an instruction in a slot, every feature on, no prefix in front. -/
def StandsFor (slot : Slot) (long : Bool) (bits : Nat) (i : Instr) : Prop := (decodeWord slot allFeatures none long bits).toOption = some i

/-- A word without prefix and with the guard p0. -/
def plainMod : Mod := { pfx := none, neg := false, pred := 0 }

end Sys2Proof.Claims

/-- R89, R93, R125, R136, R137, R350, R363: `BUNDLE_ISSUE` completes in every state: out of its turn a core does nothing, and when the bytes at the program
counter of the core whose turn it is decode to one instruction and nothing stands in the way, it latches the bundle; the step then runs that instruction on the state with the bundle latched, counts the bundle, lets control go on, and passes the turn; a trap of the
instruction stands in the next state, and `TRAP` takes effect after its bundle. A device step that is scheduled happens; a device without supply does not step.
The order of steps is the model's schedule (log entry 7), and that a step faults without supply and schedule is its choice too (log entry 42). -/
def Obligations.StepRunsDecoded : Prop :=
  ((∀ (s : State) (core : Nat), ∃ t, exec (.bundleIssue core) s = .next t)
    ∧ (∀ (s : State) (core : Nat), core ≠ s.turn → exec (.bundleIssue core) s = .next s)
    ∧ ∀ (s : State) (core bank : Nat) (c : CodePage) (b : Bundle) (w : SlotWord), AboutToIssue s core bank c b w →
        exec (.bundleIssue core) s = .next (latchedState s core bank c b w))
  ∧ (∀ (s : State) (r : List Event) (core bank : Nat) (c : CodePage) (b : Bundle) (w : SlotWord), AboutToIssue (unscheduled s r) core bank c b w →
    s.agenda = .bundleIssue core :: r →
    let t := latchedState (unscheduled s r) core bank c b w
    (∀ v, isTrap w.instr = false → exec w.instr (aimed t w) = .next v →
      (v.cur.out = .trapped → (coreAt v core).sec.life = .empty ∨ (coreAt v core).secHold ≠ 0 →
        step s = .next (cycleOver v core))
      ∧ (v.cur.out = .ran → v.cur.hit = none → fullLog t = none →
        let u := finishBundle t (ranAs t v w)
        (coreAt u core).sec.life = .empty ∨ (coreAt u core).secHold ≠ 0 → (∀ n, n < 3 → Unlogged u core n) →
        step s = .next (cycleOver u core)))
    ∧ ∀ v, isTrap w.instr = true → fullLog t = none → exec w.instr (aimed (finishBundle t t) w) = .next v →
        (coreAt v core).sec.life = .empty ∨ (coreAt v core).secHold ≠ 0 → (∀ n, n < 3 → Unlogged v core n) → step s = .next (cycleOver v core))
  ∧ (∀ (s t : State) (e : Event) (r : List Event), s.agenda = e :: r → happen e (unscheduled s r) = .next t → t.issued = false →
      step s = .next { t with free := t.free + 1 })
  ∧ (∀ (s t : State), s.agenda = [] → s.powered = true → happen (nextEvent s) s = .next t → t.issued = false → step s = .next { t with free := t.free + 1 })
  ∧ ∀ s : State, s.agenda = [] → s.powered = false → step s = .fault .poweredOff

/-- R88 to R105, R118, R119: words written out from the spec's encodings, one of each family, decode to the instruction they stand for. -/
def Obligations.WordsDecode : Prop :=
  StandsFor .s0 false 0x00204300 (.add plainMod { d := 3, a := 1, b := 2 })
  ∧ StandsFor .s1 false 0x4840C71C (.sel { plainMod with neg := true, pred := 2 } { d := 7, a := 3, b := 4 })
  ∧ StandsFor .sm false 0x0030860C (.div plainMod { d := 6, a := 2, b := 3 })
  ∧ StandsFor .br true 0xFFFFF0C500003E0D (.call plainMod { d := 62, a := 0, b := 0, aux := 5, anchor := 3, page := 0xFFFFF })
  ∧ StandsFor .ls true 0xFF00300001F80505 (.sts plainMod { t := 5, cl := false, a := 63, b := 0, k := 0, h := 0, mod := 3, imm := 0xFF0 })
  ∧ StandsFor .la true 0x0005310008180701 (.aadd plainMod { t := 7, cl := false, a := 3, b := 4, k := 0, h := 2, mod := 0x53, imm := 0 })
  ∧ StandsFor .xl false 0x00050300 (.xlt plainMod { d := 3, a := 20, b := 0 })
  ∧ StandsFor .sy false 0x00510330 (.sstart plainMod { d := 3, a := 4, b := 5 })
  ∧ decodeTableWord 32 0x00204300 = some (.add plainMod { d := 3, a := 1, b := 2 }) ∧ decodeTableWord 32 3 = some .nop

/-- R88 to R105: the units of every well-formed instruction, a prefix unit in front where it has one, decode to it in every slot of its opcode table. -/
def Obligations.EncodeThenDecode : Prop :=
  ∀ (i : Instr) (t : Table) (long : Bool) (w : Nat) (s : Slot), i.WellFormed → wordOf i = some (t, long, w) → tableOf s = t →
    decode s allFeatures (encode i) = .ok i

/-- Every instruction and every step of the device answers a next state in every state: where the spec names a trap or a refusal, that is the next state. -/
def Obligations.EveryInstructionAnswers : Prop := ∀ (i : Instr) (s : State), ∃ t, exec i s = .next t

/-- R395, R65, R128, R51 (and the reset values that log entries 1 to 5 choose): right after reset the supply is present, no function is ready or failed, no
kernel, queue, mapping or command exists, every context of every core is empty with its registers zero, memory reads zero and is in canonical form, gclk is 0,
the next step is the power-on, and what every step keeps holds. -/
def Obligations.ResetLeaves : Prop :=
  (State.reset.powered = true ∧ State.reset.boot = .off ∧ State.reset.ready = 0 ∧ State.reset.failed = 0 ∧ State.reset.gclk = 0)
  ∧ (State.reset.maps = [] ∧ State.reset.code = [] ∧ State.reset.segs = [] ∧ State.reset.hist = [] ∧ State.reset.atomics = [])
  ∧ (∀ part, (partAt State.reset part).kernel = none ∧ (partAt State.reset part).halt = .none)
  ∧ (∀ core bank, let x := ctxAt State.reset core bank
      x.life = .empty ∧ x.flights = [] ∧ x.own = [] ∧ x.seq.pend = none ∧ x.seq.loops = [] ∧ x.tstat = 0 ∧ x.fmode = 0 ∧ x.fflags = 0
      ∧ ∀ n, tgetD x.g n 0 = 0 ∧ tgetD x.p n false = false ∧ tgetD x.k n 0 = 0 ∧ tgetD x.h n 0 = 0 ∧ tgetD x.bt n 0 = 0 ∧ tgetD x.m n 0 = 0)
  ∧ (∀ core, (coreAt State.reset core).cmds = [] ∧ (coreAt State.reset core).dir = [] ∧ (coreAt State.reset core).sp.wf = true
      ∧ ∀ a, peek (coreAt State.reset core).sp a = 0)
  ∧ State.reset.first.wf = true ∧ (∀ a, homeByte State.reset a = 0)
  ∧ nextEvent State.reset = .powerOn ∧ State.reset.Inv

/-- R44, R398: every step keeps the turn with a core that exists, the arithmetic clock between 1.0 GHz and 3.0 GHz, and the scratchpad of every core and the memory of
the first bring-up in canonical form, which is the model's own, with what log entry 2 chooses for a byte that nothing has written. -/
def Obligations.StepKeepsInvariant : Prop := ∀ s t : State, s.Inv → step s = .next t → t.Inv
end

