-- ==== Sys2Proof/Laws/Tables.lean ====
section
/-! SUPPORT. Laws of tables and memories: what is read after a write, and that every memory operation keeps the canonical form. -/
namespace Sys2Proof.Laws
open Sys2Proof.Machine

variable {α : Type}

/-! ### Tables -/

@[simp] theorem tget_nil (k : Nat) : tget ([] : Machine.Table α) k = none := rfl

@[simp] theorem tgetD_nil (k : Nat) (d : α) : tgetD ([] : Machine.Table α) k d = d := rfl

/-- A key that was set is read back, whatever the table. -/
@[simp] theorem tget_tset_same (t : Machine.Table α) (k : Nat) (v : α) : tget (tset t k v) k = some v := by
  induction t with
  | nil => simp [tset, tget]
  | cons e r ih =>
    obtain ⟨i, w⟩ := e
    simp only [tset]
    split
    · rename_i h
      have : (i == k) = false := by simpa using Nat.ne_of_lt h
      simp [tget, this, ih]
    · split <;> simp [tget]

/-- Another key reads as before. -/
theorem tget_tset_other (t : Machine.Table α) {j k : Nat} (v : α) (h : j ≠ k) : tget (tset t k v) j = tget t j := by
  induction t with
  | nil => simp [tset, tget, Ne.symm h]
  | cons e r ih =>
    obtain ⟨i, w⟩ := e
    have hkj : (k == j) = false := by simpa using Ne.symm h
    simp only [tset]
    split
    · simp [tget, ih]
    · split
      · rename_i hik
        have : i = k := by simpa using hik
        subst this
        simp [tget, hkj]
      · simp [tget, hkj]

@[simp] theorem tgetD_tset_same (t : Machine.Table α) (k : Nat) (v d : α) : tgetD (tset t k v) k d = v := by simp [tgetD]

theorem tgetD_tset_other (t : Machine.Table α) {j k : Nat} (v d : α) (h : j ≠ k) : tgetD (tset t k v) j d = tgetD t j d := by
  simp [tgetD, tget_tset_other t v h]

/-- The later of two writes to one key stands. -/
@[simp] theorem tset_tset (t : Machine.Table α) (k : Nat) (v w : α) : tset (tset t k v) k w = tset t k w := by
  induction t with
  | nil => simp [tset]
  | cons e r ih =>
    obtain ⟨i, u⟩ := e
    by_cases h1 : i < k
    · simp [tset, h1, ih]
    · by_cases h2 : (i == k) = true
      · simp [tset, h1, h2]
      · simp [tset, h1, h2]

theorem risingFrom_tset (t : Machine.Table α) (lo k : Nat) (v : α) (h : risingFrom lo t = true) (hk : lo ≤ k) : risingFrom lo (tset t k v) = true := by
  induction t generalizing lo with
  | nil => simp [tset, risingFrom, hk]
  | cons e r ih =>
    obtain ⟨i, w⟩ := e
    simp only [risingFrom, Bool.and_eq_true, decide_eq_true_eq] at h
    simp only [tset]
    split
    · simp [risingFrom, h.1, ih (i + 1) h.2 (by omega)]
    · split
      · rename_i hik
        have : i = k := by simpa using hik
        subst this
        simp [risingFrom, h.1, h.2]
      · rename_i h1 h2
        have h2 : i ≠ k := by simpa using h2
        simp [risingFrom, hk, h.2]
        omega

/-- A table stays in rising order. -/
theorem rising_tset (t : Machine.Table α) (k : Nat) (v : α) (h : rising t = true) : rising (tset t k v) = true :=
  risingFrom_tset t 0 k v h (Nat.zero_le k)

theorem risingFrom_mono (t : Machine.Table α) {lo hi : Nat} (hl : lo ≤ hi) (h : risingFrom hi t = true) : risingFrom lo t = true := by
  cases t with
  | nil => rfl
  | cons e r =>
    obtain ⟨i, w⟩ := e
    simp only [risingFrom, Bool.and_eq_true, decide_eq_true_eq] at h ⊢
    exact ⟨by omega, h.2⟩

/-- A key below all those of a table is not listed. -/
theorem tget_of_risingFrom (t : Machine.Table α) {lo k : Nat} (h : risingFrom lo t = true) (hk : k < lo) : tget t k = none := by
  induction t generalizing lo with
  | nil => rfl
  | cons e r ih =>
    obtain ⟨i, w⟩ := e
    simp only [risingFrom, Bool.and_eq_true, decide_eq_true_eq] at h
    have : (i == k) = false := by simp; omega
    simp [tget, this, ih h.2 (by omega)]

theorem risingFrom_tdel (t : Machine.Table α) (lo k : Nat) (h : risingFrom lo t = true) : risingFrom lo (tdel t k) = true := by
  induction t generalizing lo with
  | nil => rfl
  | cons e r ih =>
    obtain ⟨i, w⟩ := e
    simp only [risingFrom, Bool.and_eq_true, decide_eq_true_eq] at h
    simp only [tdel]
    split
    · exact risingFrom_mono r (by omega) h.2
    · simp [risingFrom, h.1, ih (i + 1) h.2]

/-- A key deleted from a table in rising order is no longer listed. -/
theorem tget_tdel_same (t : Machine.Table α) {lo : Nat} (k : Nat) (h : risingFrom lo t = true) : tget (tdel t k) k = none := by
  induction t generalizing lo with
  | nil => rfl
  | cons e r ih =>
    obtain ⟨i, w⟩ := e
    simp only [risingFrom, Bool.and_eq_true, decide_eq_true_eq] at h
    simp only [tdel]
    split
    · rename_i hik
      have : i = k := by simpa using hik
      subst this
      exact tget_of_risingFrom r h.2 (by omega)
    · rename_i hik
      simp [tget, hik, ih h.2]

/-- Deletion leaves every other key alone. -/
theorem tget_tdel_other (t : Machine.Table α) {j k : Nat} (h : j ≠ k) : tget (tdel t k) j = tget t j := by
  induction t with
  | nil => rfl
  | cons e r ih =>
    obtain ⟨i, w⟩ := e
    simp only [tdel]
    split
    · rename_i hik
      have : i = k := by simpa using hik
      subst this
      have : (i == j) = false := by simpa using Ne.symm h
      simp [tget, this]
    · simp [tget, ih]

/-! ### Memories -/

theorem wf_iff (m : Memory) : m.wf = true ↔ rising m = true ∧ m.all (fun c => c.2 != unlistedByte) = true := by
  simp [Memory.wf]

/-- A memory with nothing listed has the canonical form. -/
@[simp] theorem wf_nil : Memory.wf [] = true := rfl

theorem all_tset (m : Memory) (a : Nat) (b : Byte) (p : Host.Cell → Bool) (h : m.all p = true) (hb : p (a, b) = true) : (tset m a b).all p = true := by
  induction m with
  | nil => simp [tset, hb]
  | cons e r ih =>
    obtain ⟨i, w⟩ := e
    simp only [List.all_cons, Bool.and_eq_true] at h
    simp only [tset]
    split
    · rw [List.all_cons, h.1, ih h.2, Bool.and_self]
    · split
      · rw [List.all_cons, hb, h.2, Bool.and_self]
      · rw [List.all_cons, List.all_cons, hb, h.1, h.2]; rfl

theorem all_tdel (m : Memory) (a : Nat) (p : Host.Cell → Bool) (h : m.all p = true) : (tdel m a).all p = true := by
  induction m with
  | nil => rfl
  | cons e r ih =>
    obtain ⟨i, w⟩ := e
    simp only [List.all_cons, Bool.and_eq_true] at h
    simp only [tdel]
    split
    · exact h.2
    · rw [List.all_cons, h.1, ih h.2, Bool.and_self]

/-- A write keeps the canonical form. -/
theorem wf_poke (m : Memory) (a : Nat) (b : Byte) (h : m.wf = true) : (poke m a b).wf = true := by
  rw [wf_iff] at h ⊢
  by_cases hb : b = unlistedByte
  · simp only [poke, hb, if_true]
    exact ⟨risingFrom_tdel m 0 a h.1, all_tdel m a _ h.2⟩
  · simp only [poke, hb, if_false]
    exact ⟨rising_tset m a b h.1, all_tset m a b _ h.2 (by simpa using hb)⟩

/-- A byte that was written is read back. -/
theorem peek_poke_same (m : Memory) (a : Nat) (b : Byte) (h : m.wf = true) : peek (poke m a b) a = b := by
  by_cases hb : b = unlistedByte
  · subst hb
    have h := ((wf_iff m).mp h).1
    simp [peek, poke, tgetD, tget_tdel_same m a h]
  · simp [peek, poke, hb]

/-- Every other byte reads as before. -/
theorem peek_poke_other (m : Memory) {a c : Nat} (b : Byte) (h : c ≠ a) : peek (poke m a b) c = peek m c := by
  by_cases hb : b = unlistedByte
  · simp [peek, poke, hb, tgetD, tget_tdel_other m h]
  · simp [peek, poke, hb, tgetD_tset_other m b unlistedByte h]

/-- A run of writes keeps the canonical form. -/
theorem wf_pokes (m : Memory) (a : Nat) (bs : List Byte) (h : m.wf = true) : (pokes m a bs).wf = true := by
  induction bs generalizing m a with
  | nil => exact h
  | cons b r ih => exact ih (poke m a b) (a + 1) (wf_poke m a b h)

theorem wf_pokeNat (m : Memory) (a n v : Nat) (h : m.wf = true) : (pokeNat m a n v).wf = true := wf_pokes m a _ h

theorem wf_foldl_poke (bs : List (Nat × Byte)) (m : Memory) (h : m.wf = true) : (bs.foldl (fun m e => poke m e.1 e.2) m).wf = true := by
  induction bs generalizing m with
  | nil => exact h
  | cons e r ih => exact ih (poke m e.1 e.2) (wf_poke m e.1 e.2 h)

/-- Below the run of a write every byte reads as before. -/
theorem peek_pokes_below (m : Memory) (a : Nat) (bs : List Byte) {c : Nat} (h : c < a) : peek (pokes m a bs) c = peek m c := by
  induction bs generalizing m a with
  | nil => rfl
  | cons b r ih => rw [pokes, ih (poke m a b) (a + 1) (by omega), peek_poke_other m b (by omega)]

/-- Above the run of a write every byte reads as before. -/
theorem peek_pokes_above (m : Memory) (a : Nat) (bs : List Byte) {c : Nat} (h : a + bs.length ≤ c) : peek (pokes m a bs) c = peek m c := by
  induction bs generalizing m a with
  | nil => rfl
  | cons b r ih =>
    simp only [List.length_cons] at h
    rw [pokes, ih (poke m a b) (a + 1) (by omega), peek_poke_other m b (by omega)]

/-- A run of bytes that was written is read back. -/
theorem peek_pokes_inside (m : Memory) (a : Nat) (bs : List Byte) (h : m.wf = true) {i : Nat} {b : Byte} (hi : bs[i]? = some b) :
    peek (pokes m a bs) (a + i) = b := by
  induction bs generalizing m a i with
  | nil => simp at hi
  | cons c r ih =>
    cases i with
    | zero =>
      simp only [List.getElem?_cons_zero, Option.some.injEq] at hi
      subst hi
      show peek (pokes (poke m a c) (a + 1) r) a = c
      rw [peek_pokes_below _ _ _ (show a < a + 1 by omega), peek_poke_same m a c h]
    | succ i =>
      simp only [List.getElem?_cons_succ] at hi
      have := ih (poke m a c) (a + 1) (wf_poke m a c h) hi
      rw [pokes, ← this]
      congr 1
      omega

/-- Of a list of written bytes the last for an address is read back, and an address that none names reads as before. -/
theorem peek_foldl_poke (bs : List (Nat × Byte)) (m : Memory) (a : Nat) (h : m.wf = true) :
    peek (bs.foldl (fun m e => poke m e.1 e.2) m) a = (((bs.filter (fun e => e.1 == a)).getLast?).map (fun e => e.2)).getD (peek m a) := by
  induction bs generalizing m with
  | nil => rfl
  | cons e r ih =>
    obtain ⟨i, b⟩ := e
    rw [List.foldl_cons, ih (poke m i b) (wf_poke m i b h)]
    by_cases hi : i = a
    · subst hi
      cases hr : r.filter (fun e => e.1 == i) with
      | nil => simp [hr, peek_poke_same m i b h]
      | cons x y => simp [hr, List.getLast?_cons]
    · have : (i == a) = false := by simpa using hi
      simp [this, peek_poke_other m b (Ne.symm hi)]

end Sys2Proof.Laws
end

