-- ==== Sys2Proof/Laws/Cores.lean ====
section
/-! SUPPORT. Laws of cores, contexts and partitions: what is read after a change, and that another place reads as before. -/
namespace Sys2Proof.Laws
open Sys2Proof.Machine

/-! ### Cores -/

@[simp] theorem coreAt_setCore_same (s : State) (n : Nat) (c : Core) : coreAt (setCore s n c) n = c := by simp [coreAt, setCore]

theorem coreAt_setCore_other (s : State) {m n : Nat} (c : Core) (h : m ≠ n) : coreAt (setCore s n c) m = coreAt s m := by
  simp [coreAt, setCore, tgetD_tset_other _ c Core.reset h]

@[simp] theorem setCore_setCore (s : State) (n : Nat) (c d : Core) : setCore (setCore s n c) n d = setCore s n d := by simp [setCore]

/-! ### Contexts -/

@[simp] theorem ctxIn_setCtxIn_same (c : Core) (b : Nat) (x : Ctx) : ctxIn (setCtxIn c b x) b = x := by
  rcases b with _ | _ | b <;> rfl

theorem ctxIn_setCtxIn_other (c : Core) {a b : Nat} (x : Ctx) (ha : a < 3) (hb : b < 3) (h : a ≠ b) : ctxIn (setCtxIn c b x) a = ctxIn c a := by
  match a, b, ha, hb, h with
  | 0, 1, _, _, _ | 0, 2, _, _, _ | 1, 0, _, _, _ | 1, 2, _, _, _ | 2, 0, _, _, _ | 2, 1, _, _, _ => rfl
  | 0, 0, _, _, h | 1, 1, _, _, h | 2, 2, _, _, h => exact absurd rfl h

@[simp] theorem setCtxIn_setCtxIn (c : Core) (b : Nat) (x y : Ctx) : setCtxIn (setCtxIn c b x) b y = setCtxIn c b y := by
  rcases b with _ | _ | b <;> rfl

@[simp] theorem setCtxIn_sp (c : Core) (b : Nat) (x : Ctx) : (setCtxIn c b x).sp = c.sp := by rcases b with _ | _ | b <;> rfl
@[simp] theorem setCtxIn_dir (c : Core) (b : Nat) (x : Ctx) : (setCtxIn c b x).dir = c.dir := by rcases b with _ | _ | b <;> rfl
@[simp] theorem setCtxIn_cmds (c : Core) (b : Nat) (x : Ctx) : (setCtxIn c b x).cmds = c.cmds := by rcases b with _ | _ | b <;> rfl
@[simp] theorem setCtxIn_sems (c : Core) (b : Nat) (x : Ctx) : (setCtxIn c b x).sems = c.sems := by rcases b with _ | _ | b <;> rfl
@[simp] theorem setCtxIn_ctb (c : Core) (b : Nat) (x : Ctx) : (setCtxIn c b x).ctb = c.ctb := by rcases b with _ | _ | b <;> rfl
@[simp] theorem setCtxIn_tgst (c : Core) (b : Nat) (x : Ctx) : (setCtxIn c b x).tgst = c.tgst := by rcases b with _ | _ | b <;> rfl
@[simp] theorem setCtxIn_watches (c : Core) (b : Nat) (x : Ctx) : (setCtxIn c b x).watches = c.watches := by rcases b with _ | _ | b <;> rfl
@[simp] theorem setCtxIn_active (c : Core) (b : Nat) (x : Ctx) : (setCtxIn c b x).active = c.active := by rcases b with _ | _ | b <;> rfl
@[simp] theorem setCtxIn_frozen (c : Core) (b : Nat) (x : Ctx) : (setCtxIn c b x).frozen = c.frozen := by rcases b with _ | _ | b <;> rfl
@[simp] theorem setCtxIn_stale (c : Core) (b : Nat) (x : Ctx) : (setCtxIn c b x).stale = c.stale := by rcases b with _ | _ | b <;> rfl

/-- A context that was replaced is read back. -/
@[simp] theorem ctxAt_setCtx_same (s : State) (core bank : Nat) (x : Ctx) : ctxAt (setCtx s core bank x) core bank = x := by
  simp [ctxAt, setCtx]

/-- Another context of the same core reads as before. -/
theorem ctxAt_setCtx_bank (s : State) (core : Nat) {a b : Nat} (x : Ctx) (ha : a < 3) (hb : b < 3) (h : a ≠ b) :
    ctxAt (setCtx s core b x) core a = ctxAt s core a := by simp [ctxAt, setCtx, ctxIn_setCtxIn_other _ x ha hb h]

/-- A context of another core reads as before. -/
theorem ctxAt_setCtx_core (s : State) {c d : Nat} (a b : Nat) (x : Ctx) (h : c ≠ d) : ctxAt (setCtx s d b x) c a = ctxAt s c a := by
  simp [ctxAt, setCtx, coreAt_setCore_other _ _ h]

@[simp] theorem ctxAt_modCtx_same (s : State) (core bank : Nat) (f : Ctx → Ctx) : ctxAt (modCtx s core bank f) core bank = f (ctxAt s core bank) := by
  simp [modCtx]

@[simp] theorem setCtx_setCtx (s : State) (core bank : Nat) (x y : Ctx) : setCtx (setCtx s core bank x) core bank y = setCtx s core bank y := by
  simp [setCtx]

/-- Two changes of one context are one change. -/
@[simp] theorem modCtx_modCtx (s : State) (core bank : Nat) (f g : Ctx → Ctx) :
    modCtx (modCtx s core bank f) core bank g = modCtx s core bank (fun x => g (f x)) := by simp [modCtx]

@[simp] theorem me_modMe (s : State) (f : Ctx → Ctx) : me (modMe s f) = f (me s) := by simp [me, modMe, setMe, setCtx, setCore]; simp [ctxAt, coreAt]

@[simp] theorem modMe_modMe (s : State) (f g : Ctx → Ctx) : modMe (modMe s f) g = modMe s (fun x => g (f x)) := by
  simp [modMe, setMe, setCtx, setCore, me, ctxAt, coreAt]

/-- The acting context is a context of the device. -/
theorem modMe_eq_modCtx (s : State) (f : Ctx → Ctx) : modMe s f = modCtx s s.cur.core s.cur.bank f := rfl

/-! ### Partitions -/

@[simp] theorem partAt_modPart_same (s : State) (n : Nat) (f : Part → Part) : partAt (modPart s n f) n = f (partAt s n) := by
  simp [partAt, modPart, setPart]

theorem partAt_modPart_other (s : State) {m n : Nat} (f : Part → Part) (h : m ≠ n) : partAt (modPart s n f) m = partAt s m := by
  simp [partAt, modPart, setPart, tgetD_tset_other _ _ _ h]

/-! ### Reset -/

/-- The memories of the device right after reset are in canonical form: global memory and the scratchpad of every core. -/
theorem wf_reset (core : Nat) : State.reset.first.wf = true ∧ (coreAt State.reset core).sp.wf = true := ⟨rfl, rfl⟩

end Sys2Proof.Laws
end

