-- ==== Sys2Proof/Laws/Happen.lean ====
section
/-! SUPPORT. A device step that happens in `step` is the meaning that `exec` gives its row of the opcode table: one lemma for each. -/
namespace Sys2Proof.Laws
open Sys2Proof.Machine

@[simp] theorem happen_powerOn (s : State) : happen (.powerOn) s = exec (.powerOn) s := rfl
@[simp] theorem happen_functionTrained (fn : Nat) (ok : Bool) (s : State) : happen (.functionTrained fn ok) s = exec (.functionTrained fn ok) s := rfl
@[simp] theorem happen_clockResync (delta : Int) (s : State) : happen (.clockResync delta) s = exec (.clockResync delta) s := rfl
@[simp] theorem happen_powerClockStep (up : Bool) (s : State) : happen (.powerClockStep up) s = exec (.powerClockStep up) s := rfl
@[simp] theorem happen_thermalStepDown (die : Nat) (s : State) : happen (.thermalStepDown die) s = exec (.thermalStepDown die) s := rfl
@[simp] theorem happen_thermalShutdown (die : Nat) (s : State) : happen (.thermalShutdown die) s = exec (.thermalShutdown die) s := rfl
@[simp] theorem happen_lifetimeCounterFlush (s : State) : happen (.lifetimeCounterFlush) s = exec (.lifetimeCounterFlush) s := rfl
@[simp] theorem happen_readiness (source : Nat) (s : State) : happen (.readiness source) s = exec (.readiness source) s := rfl
@[simp] theorem happen_attest (source : Nat) (nonce : BitVec 256) (s : State) : happen (.attest source nonce) s = exec (.attest source nonce) s := rfl
@[simp] theorem happen_recordPut (source : Nat) (record : List (BitVec 8)) (s : State) : happen (.recordPut source record) s = exec (.recordPut source record) s := rfl
@[simp] theorem happen_powerLimit (source : Nat) (limit : Nat) (s : State) : happen (.powerLimit source limit) s = exec (.powerLimit source limit) s := rfl
@[simp] theorem happen_dataWrite (r : Req) (s : State) : happen (.dataWrite r) s = exec (.dataWrite r) s := rfl
@[simp] theorem happen_tailWrite (r : Req) (s : State) : happen (.tailWrite r) s = exec (.tailWrite r) s := rfl
@[simp] theorem happen_qcbFetchDone (fetch : Nat) (bytes : List (BitVec 8)) (s : State) : happen (.qcbFetchDone fetch bytes) s = exec (.qcbFetchDone fetch bytes) s := rfl
@[simp] theorem happen_qcbFetchTimeout (fetch : Nat) (s : State) : happen (.qcbFetchTimeout fetch) s = exec (.qcbFetchTimeout fetch) s := rfl
@[simp] theorem happen_dataRead (r : Req) (s : State) : happen (.dataRead r) s = exec (.dataRead r) s := rfl
@[simp] theorem happen_chunkPut (r : Req) (s : State) : happen (.chunkPut r) s = exec (.chunkPut r) s := rfl
@[simp] theorem happen_qcbInvalidate (r : Req) (s : State) : happen (.qcbInvalidate r) s = exec (.qcbInvalidate r) s := rfl
@[simp] theorem happen_controlWrite (r : Req) (s : State) : happen (.controlWrite r) s = exec (.controlWrite r) s := rfl
@[simp] theorem happen_controlRead (r : Req) (s : State) : happen (.controlRead r) s = exec (.controlRead r) s := rfl
@[simp] theorem happen_give (r : Req) (s : State) : happen (.give r) s = exec (.give r) s := rfl
@[simp] theorem happen_take (r : Req) (s : State) : happen (.take r) s = exec (.take r) s := rfl
@[simp] theorem happen_map (r : Req) (s : State) : happen (.map r) s = exec (.map r) s := rfl
@[simp] theorem happen_unmap (r : Req) (s : State) : happen (.unmap r) s = exec (.unmap r) s := rfl
@[simp] theorem happen_refuse (r : Req) (s : State) : happen (.refuse r) s = exec (.refuse r) s := rfl
@[simp] theorem happen_noOperation (pasid queue : Nat) (s : State) : happen (.noOperation pasid queue) s = exec (.noOperation pasid queue) s := rfl
@[simp] theorem happen_launch (pasid queue : Nat) (s : State) : happen (.launch pasid queue) s = exec (.launch pasid queue) s := rfl
@[simp] theorem happen_launchAdmit (part : Nat) (s : State) : happen (.launchAdmit part) s = exec (.launchAdmit part) s := rfl
@[simp] theorem happen_slotLoad (pasid queue : Nat) (s : State) : happen (.slotLoad pasid queue) s = exec (.slotLoad pasid queue) s := rfl
@[simp] theorem happen_slotRelease (pasid queue : Nat) (s : State) : happen (.slotRelease pasid queue) s = exec (.slotRelease pasid queue) s := rfl
@[simp] theorem happen_slotReleaseDone (slot : Nat) (s : State) : happen (.slotReleaseDone slot) s = exec (.slotReleaseDone slot) s := rfl
@[simp] theorem happen_slotRestore (slot : Nat) (s : State) : happen (.slotRestore slot) s = exec (.slotRestore slot) s := rfl
@[simp] theorem happen_kernelComplete (part : Nat) (s : State) : happen (.kernelComplete part) s = exec (.kernelComplete part) s := rfl
@[simp] theorem happen_firmwareLinkMessage (leaf : Nat) (down : Bool) (s : State) : happen (.firmwareLinkMessage leaf down) s = exec (.firmwareLinkMessage leaf down) s := rfl
@[simp] theorem happen_firmwareLinkError (leaf : Nat) (s : State) : happen (.firmwareLinkError leaf) s = exec (.firmwareLinkError leaf) s := rfl
@[simp] theorem happen_iterationAssign (part : Nat) (s : State) : happen (.iterationAssign part) s = exec (.iterationAssign part) s := rfl
@[simp] theorem happen_patienceExpiry (part : Nat) (s : State) : happen (.patienceExpiry part) s = exec (.patienceExpiry part) s := rfl
@[simp] theorem happen_segmentLoadDone (core : Nat) (name : Nat) (s : State) : happen (.segmentLoadDone core name) s = exec (.segmentLoadDone core name) s := rfl
@[simp] theorem happen_bundleIssue (core : Nat) (s : State) : happen (.bundleIssue core) s = exec (.bundleIssue core) s := rfl
@[simp] theorem happen_stillRewriteDone (pasid page : Nat) (s : State) : happen (.stillRewriteDone pasid page) s = exec (.stillRewriteDone pasid page) s := rfl
@[simp] theorem happen_codePageInDone (pasid page : Nat) (s : State) : happen (.codePageInDone pasid page) s = exec (.codePageInDone pasid page) s := rfl
@[simp] theorem happen_pageReplace (pasid page : Nat) (s : State) : happen (.pageReplace pasid page) s = exec (.pageReplace pasid page) s := rfl
@[simp] theorem happen_partitionStopFreeze (part : Nat) (s : State) : happen (.partitionStopFreeze part) s = exec (.partitionStopFreeze part) s := rfl
@[simp] theorem happen_dumpResume (part : Nat) (s : State) : happen (.dumpResume part) s = exec (.dumpResume part) s := rfl
@[simp] theorem happen_dumpEndKernel (part : Nat) (s : State) : happen (.dumpEndKernel part) s = exec (.dumpEndKernel part) s := rfl
@[simp] theorem happen_secondaryBubble (core : Nat) (s : State) : happen (.secondaryBubble core) s = exec (.secondaryBubble core) s := rfl
@[simp] theorem happen_variableResultArrival (core : Nat) (result : Nat) (s : State) : happen (.variableResultArrival core result) s = exec (.variableResultArrival core result) s := rfl
@[simp] theorem happen_leafAnswer (core : Nat) (bank : Nat) (s : State) : happen (.leafAnswer core bank) s = exec (.leafAnswer core bank) s := rfl
@[simp] theorem happen_impreciseReportArrival (id : Nat) (s : State) : happen (.impreciseReportArrival id) s = exec (.impreciseReportArrival id) s := rfl
@[simp] theorem happen_preemptRequest (part : Nat) (s : State) : happen (.preemptRequest part) s = exec (.preemptRequest part) s := rfl
@[simp] theorem happen_watchdogExpiry (part : Nat) (s : State) : happen (.watchdogExpiry part) s = exec (.watchdogExpiry part) s := rfl
@[simp] theorem happen_partitionResume (part : Nat) (s : State) : happen (.partitionResume part) s = exec (.partitionResume part) s := rfl
@[simp] theorem happen_machineCheck (src : CheckSource) (s : State) : happen (.machineCheck src) s = exec (.machineCheck src) s := rfl
@[simp] theorem happen_iterationRetire (core : Nat) (bank : Nat) (s : State) : happen (.iterationRetire core bank) s = exec (.iterationRetire core bank) s := rfl
@[simp] theorem happen_secondaryEnd (core : Nat) (s : State) : happen (.secondaryEnd core) s = exec (.secondaryEnd core) s := rfl
@[simp] theorem happen_epochClose (part : Nat) (s : State) : happen (.epochClose part) s = exec (.epochClose part) s := rfl
@[simp] theorem happen_atomicPerform (id : Nat) (s : State) : happen (.atomicPerform id) s = exec (.atomicPerform id) s := rfl
@[simp] theorem happen_commandStart (core : Nat) (id : Nat) (s : State) : happen (.commandStart core id) s = exec (.commandStart core id) s := rfl
@[simp] theorem happen_commandComplete (core : Nat) (id : Nat) (s : State) : happen (.commandComplete core id) s = exec (.commandComplete core id) s := rfl
@[simp] theorem happen_remoteSignalArrival (id : Nat) (s : State) : happen (.remoteSignalArrival id) s = exec (.remoteSignalArrival id) s := rfl
@[simp] theorem happen_peerCopyArrival (endpoint sender tag core offset : Nat) (bytes : List (BitVec 8)) (s : State) : happen (.peerCopyArrival endpoint sender tag core offset bytes) s = exec (.peerCopyArrival endpoint sender tag core offset bytes) s := rfl
@[simp] theorem happen_peerSignalArrival (endpoint tag far core sem : Nat) (inc : BitVec 32) (s : State) : happen (.peerSignalArrival endpoint tag far core sem inc) s = exec (.peerSignalArrival endpoint tag far core sem inc) s := rfl
@[simp] theorem happen_linkDeparture (core : Nat) (id : Nat) (s : State) : happen (.linkDeparture core id) s = exec (.linkDeparture core id) s := rfl
@[simp] theorem happen_flitArrival (port ch index count : Nat) (bytes : List (BitVec 8)) (s : State) : happen (.flitArrival port ch index count bytes) s = exec (.flitArrival port ch index count bytes) s := rfl
@[simp] theorem happen_linkReceiveMiss (core : Nat) (id : Nat) (s : State) : happen (.linkReceiveMiss core id) s = exec (.linkReceiveMiss core id) s := rfl
@[simp] theorem happen_fmodeWrite (ctx : CtxId) (v : BitVec 64) (s : State) : happen (.fmodeWrite ctx v) s = exec (.fmodeWrite ctx v) s := rfl
@[simp] theorem happen_srngWrite (ctx : CtxId) (v : BitVec 64) (s : State) : happen (.srngWrite ctx v) s = exec (.srngWrite ctx v) s := rfl
@[simp] theorem happen_skeyWrite (ctx : CtxId) (n : Nat) (v : BitVec 64) (s : State) : happen (.skeyWrite ctx n v) s = exec (.skeyWrite ctx n v) s := rfl
@[simp] theorem happen_formatWindowWrite (ctx : CtxId) (n : Nat) (v : BitVec 64) (s : State) : happen (.formatWindowWrite ctx n v) s = exec (.formatWindowWrite ctx n v) s := rfl
@[simp] theorem happen_logCsrWrite (ctx : CtxId) (n : Nat) (v : BitVec 64) (s : State) : happen (.logCsrWrite ctx n v) s = exec (.logCsrWrite ctx n v) s := rfl
@[simp] theorem happen_csrWrite (ctx : CtxId) (n : Nat) (v : BitVec 64) (s : State) : happen (.csrWrite ctx n v) s = exec (.csrWrite ctx n v) s := rfl
@[simp] theorem happen_lossOfSupply (s : State) : happen (.lossOfSupply) s = exec (.lossOfSupply) s := rfl

end Sys2Proof.Laws
end

