-- ==== Sys2Proof/Laws/State.lean ====
section
/-! SUPPORT. What the changes of a state leave alone: one lemma for each field and each change, and the same for the changes of a context that
claims name. -/
namespace Sys2Proof.Laws
open Sys2Proof.Machine

/-! ### setCore -/

@[simp] theorem setCore_powered (s : State) (n : Nat) (c : Core) : (setCore s n c).powered = s.powered := rfl
@[simp] theorem setCore_boot (s : State) (n : Nat) (c : Core) : (setCore s n c).boot = s.boot := rfl
@[simp] theorem setCore_ready (s : State) (n : Nat) (c : Core) : (setCore s n c).ready = s.ready := rfl
@[simp] theorem setCore_failed (s : State) (n : Nat) (c : Core) : (setCore s n c).failed = s.failed := rfl
@[simp] theorem setCore_flash (s : State) (n : Nat) (c : Core) : (setCore s n c).flash = s.flash := rfl
@[simp] theorem setCore_measure (s : State) (n : Nat) (c : Core) : (setCore s n c).measure = s.measure := rfl
@[simp] theorem setCore_conf (s : State) (n : Nat) (c : Core) : (setCore s n c).conf = s.conf := rfl
@[simp] theorem setCore_powerReq (s : State) (n : Nat) (c : Core) : (setCore s n c).powerReq = s.powerReq := rfl
@[simp] theorem setCore_clockStep (s : State) (n : Nat) (c : Core) : (setCore s n c).clockStep = s.clockStep := rfl
@[simp] theorem setCore_gclk (s : State) (n : Nat) (c : Core) : (setCore s n c).gclk = s.gclk := rfl
@[simp] theorem setCore_gclkWas (s : State) (n : Nat) (c : Core) : (setCore s n c).gclkWas = s.gclkWas := rfl
@[simp] theorem setCore_gclkHold (s : State) (n : Nat) (c : Core) : (setCore s n c).gclkHold = s.gclkHold := rfl
@[simp] theorem setCore_gfrac (s : State) (n : Nat) (c : Core) : (setCore s n c).gfrac = s.gfrac := rfl
@[simp] theorem setCore_counters (s : State) (n : Nat) (c : Core) : (setCore s n c).counters = s.counters := rfl
@[simp] theorem setCore_mbox (s : State) (n : Nat) (c : Core) : (setCore s n c).mbox = s.mbox := rfl
@[simp] theorem setCore_qtroot (s : State) (n : Nat) (c : Core) : (setCore s n c).qtroot = s.qtroot := rfl
@[simp] theorem setCore_cc (s : State) (n : Nat) (c : Core) : (setCore s n c).cc = s.cc := rfl
@[simp] theorem setCore_sched (s : State) (n : Nat) (c : Core) : (setCore s n c).sched = s.sched := rfl
@[simp] theorem setCore_slots (s : State) (n : Nat) (c : Core) : (setCore s n c).slots = s.slots := rfl
@[simp] theorem setCore_chunks (s : State) (n : Nat) (c : Core) : (setCore s n c).chunks = s.chunks := rfl
@[simp] theorem setCore_segs (s : State) (n : Nat) (c : Core) : (setCore s n c).segs = s.segs := rfl
@[simp] theorem setCore_links (s : State) (n : Nat) (c : Core) : (setCore s n c).links = s.links := rfl
@[simp] theorem setCore_parts (s : State) (n : Nat) (c : Core) : (setCore s n c).parts = s.parts := rfl
@[simp] theorem setCore_maps (s : State) (n : Nat) (c : Core) : (setCore s n c).maps = s.maps := rfl
@[simp] theorem setCore_revSeq (s : State) (n : Nat) (c : Core) : (setCore s n c).revSeq = s.revSeq := rfl
@[simp] theorem setCore_code (s : State) (n : Nat) (c : Core) : (setCore s n c).code = s.code := rfl
@[simp] theorem setCore_overlay (s : State) (n : Nat) (c : Core) : (setCore s n c).overlay = s.overlay := rfl
@[simp] theorem setCore_first (s : State) (n : Nat) (c : Core) : (setCore s n c).first = s.first := rfl
@[simp] theorem setCore_hist (s : State) (n : Nat) (c : Core) : (setCore s n c).hist = s.hist := rfl
@[simp] theorem setCore_stamp (s : State) (n : Nat) (c : Core) : (setCore s n c).stamp = s.stamp := rfl
@[simp] theorem setCore_atomics (s : State) (n : Nat) (c : Core) : (setCore s n c).atomics = s.atomics := rfl
@[simp] theorem setCore_reds (s : State) (n : Nat) (c : Core) : (setCore s n c).reds = s.reds := rfl
@[simp] theorem setCore_signals (s : State) (n : Nat) (c : Core) : (setCore s n c).signals = s.signals := rfl
@[simp] theorem setCore_flying (s : State) (n : Nat) (c : Core) : (setCore s n c).flying = s.flying := rfl
@[simp] theorem setCore_sliceWatches (s : State) (n : Nat) (c : Core) : (setCore s n c).sliceWatches = s.sliceWatches := rfl
@[simp] theorem setCore_windows (s : State) (n : Nat) (c : Core) : (setCore s n c).windows = s.windows := rfl
@[simp] theorem setCore_winForce (s : State) (n : Nat) (c : Core) : (setCore s n c).winForce = s.winForce := rfl
@[simp] theorem setCore_winPend (s : State) (n : Nat) (c : Core) : (setCore s n c).winPend = s.winPend := rfl
@[simp] theorem setCore_ports (s : State) (n : Nat) (c : Core) : (setCore s n c).ports = s.ports := rfl
@[simp] theorem setCore_outbox (s : State) (n : Nat) (c : Core) : (setCore s n c).outbox = s.outbox := rfl
@[simp] theorem setCore_peers (s : State) (n : Nat) (c : Core) : (setCore s n c).peers = s.peers := rfl
@[simp] theorem setCore_agenda (s : State) (n : Nat) (c : Core) : (setCore s n c).agenda = s.agenda := rfl
@[simp] theorem setCore_turn (s : State) (n : Nat) (c : Core) : (setCore s n c).turn = s.turn := rfl
@[simp] theorem setCore_issued (s : State) (n : Nat) (c : Core) : (setCore s n c).issued = s.issued := rfl
@[simp] theorem setCore_free (s : State) (n : Nat) (c : Core) : (setCore s n c).free = s.free := rfl
@[simp] theorem setCore_cur (s : State) (n : Nat) (c : Core) : (setCore s n c).cur = s.cur := rfl
@[simp] theorem setCore_nextId (s : State) (n : Nat) (c : Core) : (setCore s n c).nextId = s.nextId := rfl
@[simp] theorem setCore_holdNow (s : State) (n : Nat) (c : Core) : (setCore s n c).holdNow = s.holdNow := rfl
@[simp] theorem setCore_rounds (s : State) (n : Nat) (c : Core) : (setCore s n c).rounds = s.rounds := rfl
@[simp] theorem setCore_roundGclk (s : State) (n : Nat) (c : Core) : (setCore s n c).roundGclk = s.roundGclk := rfl
@[simp] theorem setCore_boundary (s : State) (n : Nat) (c : Core) : (setCore s n c).boundary = s.boundary := rfl
@[simp] theorem setCore_cached (s : State) (n : Nat) (c : Core) : (setCore s n c).cached = s.cached := rfl

/-! ### setCtx -/

@[simp] theorem setCtx_powered (s : State) (n b : Nat) (x : Ctx) : (setCtx s n b x).powered = s.powered := rfl
@[simp] theorem setCtx_boot (s : State) (n b : Nat) (x : Ctx) : (setCtx s n b x).boot = s.boot := rfl
@[simp] theorem setCtx_ready (s : State) (n b : Nat) (x : Ctx) : (setCtx s n b x).ready = s.ready := rfl
@[simp] theorem setCtx_failed (s : State) (n b : Nat) (x : Ctx) : (setCtx s n b x).failed = s.failed := rfl
@[simp] theorem setCtx_flash (s : State) (n b : Nat) (x : Ctx) : (setCtx s n b x).flash = s.flash := rfl
@[simp] theorem setCtx_measure (s : State) (n b : Nat) (x : Ctx) : (setCtx s n b x).measure = s.measure := rfl
@[simp] theorem setCtx_conf (s : State) (n b : Nat) (x : Ctx) : (setCtx s n b x).conf = s.conf := rfl
@[simp] theorem setCtx_powerReq (s : State) (n b : Nat) (x : Ctx) : (setCtx s n b x).powerReq = s.powerReq := rfl
@[simp] theorem setCtx_clockStep (s : State) (n b : Nat) (x : Ctx) : (setCtx s n b x).clockStep = s.clockStep := rfl
@[simp] theorem setCtx_gclk (s : State) (n b : Nat) (x : Ctx) : (setCtx s n b x).gclk = s.gclk := rfl
@[simp] theorem setCtx_gclkWas (s : State) (n b : Nat) (x : Ctx) : (setCtx s n b x).gclkWas = s.gclkWas := rfl
@[simp] theorem setCtx_gclkHold (s : State) (n b : Nat) (x : Ctx) : (setCtx s n b x).gclkHold = s.gclkHold := rfl
@[simp] theorem setCtx_gfrac (s : State) (n b : Nat) (x : Ctx) : (setCtx s n b x).gfrac = s.gfrac := rfl
@[simp] theorem setCtx_counters (s : State) (n b : Nat) (x : Ctx) : (setCtx s n b x).counters = s.counters := rfl
@[simp] theorem setCtx_mbox (s : State) (n b : Nat) (x : Ctx) : (setCtx s n b x).mbox = s.mbox := rfl
@[simp] theorem setCtx_qtroot (s : State) (n b : Nat) (x : Ctx) : (setCtx s n b x).qtroot = s.qtroot := rfl
@[simp] theorem setCtx_cc (s : State) (n b : Nat) (x : Ctx) : (setCtx s n b x).cc = s.cc := rfl
@[simp] theorem setCtx_sched (s : State) (n b : Nat) (x : Ctx) : (setCtx s n b x).sched = s.sched := rfl
@[simp] theorem setCtx_slots (s : State) (n b : Nat) (x : Ctx) : (setCtx s n b x).slots = s.slots := rfl
@[simp] theorem setCtx_chunks (s : State) (n b : Nat) (x : Ctx) : (setCtx s n b x).chunks = s.chunks := rfl
@[simp] theorem setCtx_segs (s : State) (n b : Nat) (x : Ctx) : (setCtx s n b x).segs = s.segs := rfl
@[simp] theorem setCtx_links (s : State) (n b : Nat) (x : Ctx) : (setCtx s n b x).links = s.links := rfl
@[simp] theorem setCtx_parts (s : State) (n b : Nat) (x : Ctx) : (setCtx s n b x).parts = s.parts := rfl
@[simp] theorem setCtx_maps (s : State) (n b : Nat) (x : Ctx) : (setCtx s n b x).maps = s.maps := rfl
@[simp] theorem setCtx_revSeq (s : State) (n b : Nat) (x : Ctx) : (setCtx s n b x).revSeq = s.revSeq := rfl
@[simp] theorem setCtx_code (s : State) (n b : Nat) (x : Ctx) : (setCtx s n b x).code = s.code := rfl
@[simp] theorem setCtx_overlay (s : State) (n b : Nat) (x : Ctx) : (setCtx s n b x).overlay = s.overlay := rfl
@[simp] theorem setCtx_first (s : State) (n b : Nat) (x : Ctx) : (setCtx s n b x).first = s.first := rfl
@[simp] theorem setCtx_hist (s : State) (n b : Nat) (x : Ctx) : (setCtx s n b x).hist = s.hist := rfl
@[simp] theorem setCtx_stamp (s : State) (n b : Nat) (x : Ctx) : (setCtx s n b x).stamp = s.stamp := rfl
@[simp] theorem setCtx_atomics (s : State) (n b : Nat) (x : Ctx) : (setCtx s n b x).atomics = s.atomics := rfl
@[simp] theorem setCtx_reds (s : State) (n b : Nat) (x : Ctx) : (setCtx s n b x).reds = s.reds := rfl
@[simp] theorem setCtx_signals (s : State) (n b : Nat) (x : Ctx) : (setCtx s n b x).signals = s.signals := rfl
@[simp] theorem setCtx_flying (s : State) (n b : Nat) (x : Ctx) : (setCtx s n b x).flying = s.flying := rfl
@[simp] theorem setCtx_sliceWatches (s : State) (n b : Nat) (x : Ctx) : (setCtx s n b x).sliceWatches = s.sliceWatches := rfl
@[simp] theorem setCtx_windows (s : State) (n b : Nat) (x : Ctx) : (setCtx s n b x).windows = s.windows := rfl
@[simp] theorem setCtx_winForce (s : State) (n b : Nat) (x : Ctx) : (setCtx s n b x).winForce = s.winForce := rfl
@[simp] theorem setCtx_winPend (s : State) (n b : Nat) (x : Ctx) : (setCtx s n b x).winPend = s.winPend := rfl
@[simp] theorem setCtx_ports (s : State) (n b : Nat) (x : Ctx) : (setCtx s n b x).ports = s.ports := rfl
@[simp] theorem setCtx_outbox (s : State) (n b : Nat) (x : Ctx) : (setCtx s n b x).outbox = s.outbox := rfl
@[simp] theorem setCtx_peers (s : State) (n b : Nat) (x : Ctx) : (setCtx s n b x).peers = s.peers := rfl
@[simp] theorem setCtx_agenda (s : State) (n b : Nat) (x : Ctx) : (setCtx s n b x).agenda = s.agenda := rfl
@[simp] theorem setCtx_turn (s : State) (n b : Nat) (x : Ctx) : (setCtx s n b x).turn = s.turn := rfl
@[simp] theorem setCtx_issued (s : State) (n b : Nat) (x : Ctx) : (setCtx s n b x).issued = s.issued := rfl
@[simp] theorem setCtx_free (s : State) (n b : Nat) (x : Ctx) : (setCtx s n b x).free = s.free := rfl
@[simp] theorem setCtx_cur (s : State) (n b : Nat) (x : Ctx) : (setCtx s n b x).cur = s.cur := rfl
@[simp] theorem setCtx_nextId (s : State) (n b : Nat) (x : Ctx) : (setCtx s n b x).nextId = s.nextId := rfl
@[simp] theorem setCtx_holdNow (s : State) (n b : Nat) (x : Ctx) : (setCtx s n b x).holdNow = s.holdNow := rfl
@[simp] theorem setCtx_rounds (s : State) (n b : Nat) (x : Ctx) : (setCtx s n b x).rounds = s.rounds := rfl
@[simp] theorem setCtx_roundGclk (s : State) (n b : Nat) (x : Ctx) : (setCtx s n b x).roundGclk = s.roundGclk := rfl
@[simp] theorem setCtx_boundary (s : State) (n b : Nat) (x : Ctx) : (setCtx s n b x).boundary = s.boundary := rfl
@[simp] theorem setCtx_cached (s : State) (n b : Nat) (x : Ctx) : (setCtx s n b x).cached = s.cached := rfl

/-! ### modCtx -/

@[simp] theorem modCtx_powered (s : State) (n b : Nat) (f : Ctx → Ctx) : (modCtx s n b f).powered = s.powered := rfl
@[simp] theorem modCtx_boot (s : State) (n b : Nat) (f : Ctx → Ctx) : (modCtx s n b f).boot = s.boot := rfl
@[simp] theorem modCtx_ready (s : State) (n b : Nat) (f : Ctx → Ctx) : (modCtx s n b f).ready = s.ready := rfl
@[simp] theorem modCtx_failed (s : State) (n b : Nat) (f : Ctx → Ctx) : (modCtx s n b f).failed = s.failed := rfl
@[simp] theorem modCtx_flash (s : State) (n b : Nat) (f : Ctx → Ctx) : (modCtx s n b f).flash = s.flash := rfl
@[simp] theorem modCtx_measure (s : State) (n b : Nat) (f : Ctx → Ctx) : (modCtx s n b f).measure = s.measure := rfl
@[simp] theorem modCtx_conf (s : State) (n b : Nat) (f : Ctx → Ctx) : (modCtx s n b f).conf = s.conf := rfl
@[simp] theorem modCtx_powerReq (s : State) (n b : Nat) (f : Ctx → Ctx) : (modCtx s n b f).powerReq = s.powerReq := rfl
@[simp] theorem modCtx_clockStep (s : State) (n b : Nat) (f : Ctx → Ctx) : (modCtx s n b f).clockStep = s.clockStep := rfl
@[simp] theorem modCtx_gclk (s : State) (n b : Nat) (f : Ctx → Ctx) : (modCtx s n b f).gclk = s.gclk := rfl
@[simp] theorem modCtx_gclkWas (s : State) (n b : Nat) (f : Ctx → Ctx) : (modCtx s n b f).gclkWas = s.gclkWas := rfl
@[simp] theorem modCtx_gclkHold (s : State) (n b : Nat) (f : Ctx → Ctx) : (modCtx s n b f).gclkHold = s.gclkHold := rfl
@[simp] theorem modCtx_gfrac (s : State) (n b : Nat) (f : Ctx → Ctx) : (modCtx s n b f).gfrac = s.gfrac := rfl
@[simp] theorem modCtx_counters (s : State) (n b : Nat) (f : Ctx → Ctx) : (modCtx s n b f).counters = s.counters := rfl
@[simp] theorem modCtx_mbox (s : State) (n b : Nat) (f : Ctx → Ctx) : (modCtx s n b f).mbox = s.mbox := rfl
@[simp] theorem modCtx_qtroot (s : State) (n b : Nat) (f : Ctx → Ctx) : (modCtx s n b f).qtroot = s.qtroot := rfl
@[simp] theorem modCtx_cc (s : State) (n b : Nat) (f : Ctx → Ctx) : (modCtx s n b f).cc = s.cc := rfl
@[simp] theorem modCtx_sched (s : State) (n b : Nat) (f : Ctx → Ctx) : (modCtx s n b f).sched = s.sched := rfl
@[simp] theorem modCtx_slots (s : State) (n b : Nat) (f : Ctx → Ctx) : (modCtx s n b f).slots = s.slots := rfl
@[simp] theorem modCtx_chunks (s : State) (n b : Nat) (f : Ctx → Ctx) : (modCtx s n b f).chunks = s.chunks := rfl
@[simp] theorem modCtx_segs (s : State) (n b : Nat) (f : Ctx → Ctx) : (modCtx s n b f).segs = s.segs := rfl
@[simp] theorem modCtx_links (s : State) (n b : Nat) (f : Ctx → Ctx) : (modCtx s n b f).links = s.links := rfl
@[simp] theorem modCtx_parts (s : State) (n b : Nat) (f : Ctx → Ctx) : (modCtx s n b f).parts = s.parts := rfl
@[simp] theorem modCtx_maps (s : State) (n b : Nat) (f : Ctx → Ctx) : (modCtx s n b f).maps = s.maps := rfl
@[simp] theorem modCtx_revSeq (s : State) (n b : Nat) (f : Ctx → Ctx) : (modCtx s n b f).revSeq = s.revSeq := rfl
@[simp] theorem modCtx_code (s : State) (n b : Nat) (f : Ctx → Ctx) : (modCtx s n b f).code = s.code := rfl
@[simp] theorem modCtx_overlay (s : State) (n b : Nat) (f : Ctx → Ctx) : (modCtx s n b f).overlay = s.overlay := rfl
@[simp] theorem modCtx_first (s : State) (n b : Nat) (f : Ctx → Ctx) : (modCtx s n b f).first = s.first := rfl
@[simp] theorem modCtx_hist (s : State) (n b : Nat) (f : Ctx → Ctx) : (modCtx s n b f).hist = s.hist := rfl
@[simp] theorem modCtx_stamp (s : State) (n b : Nat) (f : Ctx → Ctx) : (modCtx s n b f).stamp = s.stamp := rfl
@[simp] theorem modCtx_atomics (s : State) (n b : Nat) (f : Ctx → Ctx) : (modCtx s n b f).atomics = s.atomics := rfl
@[simp] theorem modCtx_reds (s : State) (n b : Nat) (f : Ctx → Ctx) : (modCtx s n b f).reds = s.reds := rfl
@[simp] theorem modCtx_signals (s : State) (n b : Nat) (f : Ctx → Ctx) : (modCtx s n b f).signals = s.signals := rfl
@[simp] theorem modCtx_flying (s : State) (n b : Nat) (f : Ctx → Ctx) : (modCtx s n b f).flying = s.flying := rfl
@[simp] theorem modCtx_sliceWatches (s : State) (n b : Nat) (f : Ctx → Ctx) : (modCtx s n b f).sliceWatches = s.sliceWatches := rfl
@[simp] theorem modCtx_windows (s : State) (n b : Nat) (f : Ctx → Ctx) : (modCtx s n b f).windows = s.windows := rfl
@[simp] theorem modCtx_winForce (s : State) (n b : Nat) (f : Ctx → Ctx) : (modCtx s n b f).winForce = s.winForce := rfl
@[simp] theorem modCtx_winPend (s : State) (n b : Nat) (f : Ctx → Ctx) : (modCtx s n b f).winPend = s.winPend := rfl
@[simp] theorem modCtx_ports (s : State) (n b : Nat) (f : Ctx → Ctx) : (modCtx s n b f).ports = s.ports := rfl
@[simp] theorem modCtx_outbox (s : State) (n b : Nat) (f : Ctx → Ctx) : (modCtx s n b f).outbox = s.outbox := rfl
@[simp] theorem modCtx_peers (s : State) (n b : Nat) (f : Ctx → Ctx) : (modCtx s n b f).peers = s.peers := rfl
@[simp] theorem modCtx_agenda (s : State) (n b : Nat) (f : Ctx → Ctx) : (modCtx s n b f).agenda = s.agenda := rfl
@[simp] theorem modCtx_turn (s : State) (n b : Nat) (f : Ctx → Ctx) : (modCtx s n b f).turn = s.turn := rfl
@[simp] theorem modCtx_issued (s : State) (n b : Nat) (f : Ctx → Ctx) : (modCtx s n b f).issued = s.issued := rfl
@[simp] theorem modCtx_free (s : State) (n b : Nat) (f : Ctx → Ctx) : (modCtx s n b f).free = s.free := rfl
@[simp] theorem modCtx_cur (s : State) (n b : Nat) (f : Ctx → Ctx) : (modCtx s n b f).cur = s.cur := rfl
@[simp] theorem modCtx_nextId (s : State) (n b : Nat) (f : Ctx → Ctx) : (modCtx s n b f).nextId = s.nextId := rfl
@[simp] theorem modCtx_holdNow (s : State) (n b : Nat) (f : Ctx → Ctx) : (modCtx s n b f).holdNow = s.holdNow := rfl
@[simp] theorem modCtx_rounds (s : State) (n b : Nat) (f : Ctx → Ctx) : (modCtx s n b f).rounds = s.rounds := rfl
@[simp] theorem modCtx_roundGclk (s : State) (n b : Nat) (f : Ctx → Ctx) : (modCtx s n b f).roundGclk = s.roundGclk := rfl
@[simp] theorem modCtx_boundary (s : State) (n b : Nat) (f : Ctx → Ctx) : (modCtx s n b f).boundary = s.boundary := rfl
@[simp] theorem modCtx_cached (s : State) (n b : Nat) (f : Ctx → Ctx) : (modCtx s n b f).cached = s.cached := rfl

/-! ### setMe -/

@[simp] theorem setMe_powered (s : State) (x : Ctx) : (setMe s x).powered = s.powered := rfl
@[simp] theorem setMe_boot (s : State) (x : Ctx) : (setMe s x).boot = s.boot := rfl
@[simp] theorem setMe_ready (s : State) (x : Ctx) : (setMe s x).ready = s.ready := rfl
@[simp] theorem setMe_failed (s : State) (x : Ctx) : (setMe s x).failed = s.failed := rfl
@[simp] theorem setMe_flash (s : State) (x : Ctx) : (setMe s x).flash = s.flash := rfl
@[simp] theorem setMe_measure (s : State) (x : Ctx) : (setMe s x).measure = s.measure := rfl
@[simp] theorem setMe_conf (s : State) (x : Ctx) : (setMe s x).conf = s.conf := rfl
@[simp] theorem setMe_powerReq (s : State) (x : Ctx) : (setMe s x).powerReq = s.powerReq := rfl
@[simp] theorem setMe_clockStep (s : State) (x : Ctx) : (setMe s x).clockStep = s.clockStep := rfl
@[simp] theorem setMe_gclk (s : State) (x : Ctx) : (setMe s x).gclk = s.gclk := rfl
@[simp] theorem setMe_gclkWas (s : State) (x : Ctx) : (setMe s x).gclkWas = s.gclkWas := rfl
@[simp] theorem setMe_gclkHold (s : State) (x : Ctx) : (setMe s x).gclkHold = s.gclkHold := rfl
@[simp] theorem setMe_gfrac (s : State) (x : Ctx) : (setMe s x).gfrac = s.gfrac := rfl
@[simp] theorem setMe_counters (s : State) (x : Ctx) : (setMe s x).counters = s.counters := rfl
@[simp] theorem setMe_mbox (s : State) (x : Ctx) : (setMe s x).mbox = s.mbox := rfl
@[simp] theorem setMe_qtroot (s : State) (x : Ctx) : (setMe s x).qtroot = s.qtroot := rfl
@[simp] theorem setMe_cc (s : State) (x : Ctx) : (setMe s x).cc = s.cc := rfl
@[simp] theorem setMe_sched (s : State) (x : Ctx) : (setMe s x).sched = s.sched := rfl
@[simp] theorem setMe_slots (s : State) (x : Ctx) : (setMe s x).slots = s.slots := rfl
@[simp] theorem setMe_chunks (s : State) (x : Ctx) : (setMe s x).chunks = s.chunks := rfl
@[simp] theorem setMe_segs (s : State) (x : Ctx) : (setMe s x).segs = s.segs := rfl
@[simp] theorem setMe_links (s : State) (x : Ctx) : (setMe s x).links = s.links := rfl
@[simp] theorem setMe_parts (s : State) (x : Ctx) : (setMe s x).parts = s.parts := rfl
@[simp] theorem setMe_maps (s : State) (x : Ctx) : (setMe s x).maps = s.maps := rfl
@[simp] theorem setMe_revSeq (s : State) (x : Ctx) : (setMe s x).revSeq = s.revSeq := rfl
@[simp] theorem setMe_code (s : State) (x : Ctx) : (setMe s x).code = s.code := rfl
@[simp] theorem setMe_overlay (s : State) (x : Ctx) : (setMe s x).overlay = s.overlay := rfl
@[simp] theorem setMe_first (s : State) (x : Ctx) : (setMe s x).first = s.first := rfl
@[simp] theorem setMe_hist (s : State) (x : Ctx) : (setMe s x).hist = s.hist := rfl
@[simp] theorem setMe_stamp (s : State) (x : Ctx) : (setMe s x).stamp = s.stamp := rfl
@[simp] theorem setMe_atomics (s : State) (x : Ctx) : (setMe s x).atomics = s.atomics := rfl
@[simp] theorem setMe_reds (s : State) (x : Ctx) : (setMe s x).reds = s.reds := rfl
@[simp] theorem setMe_signals (s : State) (x : Ctx) : (setMe s x).signals = s.signals := rfl
@[simp] theorem setMe_flying (s : State) (x : Ctx) : (setMe s x).flying = s.flying := rfl
@[simp] theorem setMe_sliceWatches (s : State) (x : Ctx) : (setMe s x).sliceWatches = s.sliceWatches := rfl
@[simp] theorem setMe_windows (s : State) (x : Ctx) : (setMe s x).windows = s.windows := rfl
@[simp] theorem setMe_winForce (s : State) (x : Ctx) : (setMe s x).winForce = s.winForce := rfl
@[simp] theorem setMe_winPend (s : State) (x : Ctx) : (setMe s x).winPend = s.winPend := rfl
@[simp] theorem setMe_ports (s : State) (x : Ctx) : (setMe s x).ports = s.ports := rfl
@[simp] theorem setMe_outbox (s : State) (x : Ctx) : (setMe s x).outbox = s.outbox := rfl
@[simp] theorem setMe_peers (s : State) (x : Ctx) : (setMe s x).peers = s.peers := rfl
@[simp] theorem setMe_agenda (s : State) (x : Ctx) : (setMe s x).agenda = s.agenda := rfl
@[simp] theorem setMe_turn (s : State) (x : Ctx) : (setMe s x).turn = s.turn := rfl
@[simp] theorem setMe_issued (s : State) (x : Ctx) : (setMe s x).issued = s.issued := rfl
@[simp] theorem setMe_free (s : State) (x : Ctx) : (setMe s x).free = s.free := rfl
@[simp] theorem setMe_cur (s : State) (x : Ctx) : (setMe s x).cur = s.cur := rfl
@[simp] theorem setMe_nextId (s : State) (x : Ctx) : (setMe s x).nextId = s.nextId := rfl
@[simp] theorem setMe_holdNow (s : State) (x : Ctx) : (setMe s x).holdNow = s.holdNow := rfl
@[simp] theorem setMe_rounds (s : State) (x : Ctx) : (setMe s x).rounds = s.rounds := rfl
@[simp] theorem setMe_roundGclk (s : State) (x : Ctx) : (setMe s x).roundGclk = s.roundGclk := rfl
@[simp] theorem setMe_boundary (s : State) (x : Ctx) : (setMe s x).boundary = s.boundary := rfl
@[simp] theorem setMe_cached (s : State) (x : Ctx) : (setMe s x).cached = s.cached := rfl

/-! ### modMe -/

@[simp] theorem modMe_powered (s : State) (f : Ctx → Ctx) : (modMe s f).powered = s.powered := rfl
@[simp] theorem modMe_boot (s : State) (f : Ctx → Ctx) : (modMe s f).boot = s.boot := rfl
@[simp] theorem modMe_ready (s : State) (f : Ctx → Ctx) : (modMe s f).ready = s.ready := rfl
@[simp] theorem modMe_failed (s : State) (f : Ctx → Ctx) : (modMe s f).failed = s.failed := rfl
@[simp] theorem modMe_flash (s : State) (f : Ctx → Ctx) : (modMe s f).flash = s.flash := rfl
@[simp] theorem modMe_measure (s : State) (f : Ctx → Ctx) : (modMe s f).measure = s.measure := rfl
@[simp] theorem modMe_conf (s : State) (f : Ctx → Ctx) : (modMe s f).conf = s.conf := rfl
@[simp] theorem modMe_powerReq (s : State) (f : Ctx → Ctx) : (modMe s f).powerReq = s.powerReq := rfl
@[simp] theorem modMe_clockStep (s : State) (f : Ctx → Ctx) : (modMe s f).clockStep = s.clockStep := rfl
@[simp] theorem modMe_gclk (s : State) (f : Ctx → Ctx) : (modMe s f).gclk = s.gclk := rfl
@[simp] theorem modMe_gclkWas (s : State) (f : Ctx → Ctx) : (modMe s f).gclkWas = s.gclkWas := rfl
@[simp] theorem modMe_gclkHold (s : State) (f : Ctx → Ctx) : (modMe s f).gclkHold = s.gclkHold := rfl
@[simp] theorem modMe_gfrac (s : State) (f : Ctx → Ctx) : (modMe s f).gfrac = s.gfrac := rfl
@[simp] theorem modMe_counters (s : State) (f : Ctx → Ctx) : (modMe s f).counters = s.counters := rfl
@[simp] theorem modMe_mbox (s : State) (f : Ctx → Ctx) : (modMe s f).mbox = s.mbox := rfl
@[simp] theorem modMe_qtroot (s : State) (f : Ctx → Ctx) : (modMe s f).qtroot = s.qtroot := rfl
@[simp] theorem modMe_cc (s : State) (f : Ctx → Ctx) : (modMe s f).cc = s.cc := rfl
@[simp] theorem modMe_sched (s : State) (f : Ctx → Ctx) : (modMe s f).sched = s.sched := rfl
@[simp] theorem modMe_slots (s : State) (f : Ctx → Ctx) : (modMe s f).slots = s.slots := rfl
@[simp] theorem modMe_chunks (s : State) (f : Ctx → Ctx) : (modMe s f).chunks = s.chunks := rfl
@[simp] theorem modMe_segs (s : State) (f : Ctx → Ctx) : (modMe s f).segs = s.segs := rfl
@[simp] theorem modMe_links (s : State) (f : Ctx → Ctx) : (modMe s f).links = s.links := rfl
@[simp] theorem modMe_parts (s : State) (f : Ctx → Ctx) : (modMe s f).parts = s.parts := rfl
@[simp] theorem modMe_maps (s : State) (f : Ctx → Ctx) : (modMe s f).maps = s.maps := rfl
@[simp] theorem modMe_revSeq (s : State) (f : Ctx → Ctx) : (modMe s f).revSeq = s.revSeq := rfl
@[simp] theorem modMe_code (s : State) (f : Ctx → Ctx) : (modMe s f).code = s.code := rfl
@[simp] theorem modMe_overlay (s : State) (f : Ctx → Ctx) : (modMe s f).overlay = s.overlay := rfl
@[simp] theorem modMe_first (s : State) (f : Ctx → Ctx) : (modMe s f).first = s.first := rfl
@[simp] theorem modMe_hist (s : State) (f : Ctx → Ctx) : (modMe s f).hist = s.hist := rfl
@[simp] theorem modMe_stamp (s : State) (f : Ctx → Ctx) : (modMe s f).stamp = s.stamp := rfl
@[simp] theorem modMe_atomics (s : State) (f : Ctx → Ctx) : (modMe s f).atomics = s.atomics := rfl
@[simp] theorem modMe_reds (s : State) (f : Ctx → Ctx) : (modMe s f).reds = s.reds := rfl
@[simp] theorem modMe_signals (s : State) (f : Ctx → Ctx) : (modMe s f).signals = s.signals := rfl
@[simp] theorem modMe_flying (s : State) (f : Ctx → Ctx) : (modMe s f).flying = s.flying := rfl
@[simp] theorem modMe_sliceWatches (s : State) (f : Ctx → Ctx) : (modMe s f).sliceWatches = s.sliceWatches := rfl
@[simp] theorem modMe_windows (s : State) (f : Ctx → Ctx) : (modMe s f).windows = s.windows := rfl
@[simp] theorem modMe_winForce (s : State) (f : Ctx → Ctx) : (modMe s f).winForce = s.winForce := rfl
@[simp] theorem modMe_winPend (s : State) (f : Ctx → Ctx) : (modMe s f).winPend = s.winPend := rfl
@[simp] theorem modMe_ports (s : State) (f : Ctx → Ctx) : (modMe s f).ports = s.ports := rfl
@[simp] theorem modMe_outbox (s : State) (f : Ctx → Ctx) : (modMe s f).outbox = s.outbox := rfl
@[simp] theorem modMe_peers (s : State) (f : Ctx → Ctx) : (modMe s f).peers = s.peers := rfl
@[simp] theorem modMe_agenda (s : State) (f : Ctx → Ctx) : (modMe s f).agenda = s.agenda := rfl
@[simp] theorem modMe_turn (s : State) (f : Ctx → Ctx) : (modMe s f).turn = s.turn := rfl
@[simp] theorem modMe_issued (s : State) (f : Ctx → Ctx) : (modMe s f).issued = s.issued := rfl
@[simp] theorem modMe_free (s : State) (f : Ctx → Ctx) : (modMe s f).free = s.free := rfl
@[simp] theorem modMe_cur (s : State) (f : Ctx → Ctx) : (modMe s f).cur = s.cur := rfl
@[simp] theorem modMe_nextId (s : State) (f : Ctx → Ctx) : (modMe s f).nextId = s.nextId := rfl
@[simp] theorem modMe_holdNow (s : State) (f : Ctx → Ctx) : (modMe s f).holdNow = s.holdNow := rfl
@[simp] theorem modMe_rounds (s : State) (f : Ctx → Ctx) : (modMe s f).rounds = s.rounds := rfl
@[simp] theorem modMe_roundGclk (s : State) (f : Ctx → Ctx) : (modMe s f).roundGclk = s.roundGclk := rfl
@[simp] theorem modMe_boundary (s : State) (f : Ctx → Ctx) : (modMe s f).boundary = s.boundary := rfl
@[simp] theorem modMe_cached (s : State) (f : Ctx → Ctx) : (modMe s f).cached = s.cached := rfl

/-! ### modMyCore -/

@[simp] theorem modMyCore_powered (s : State) (f : Core → Core) : (modMyCore s f).powered = s.powered := rfl
@[simp] theorem modMyCore_boot (s : State) (f : Core → Core) : (modMyCore s f).boot = s.boot := rfl
@[simp] theorem modMyCore_ready (s : State) (f : Core → Core) : (modMyCore s f).ready = s.ready := rfl
@[simp] theorem modMyCore_failed (s : State) (f : Core → Core) : (modMyCore s f).failed = s.failed := rfl
@[simp] theorem modMyCore_flash (s : State) (f : Core → Core) : (modMyCore s f).flash = s.flash := rfl
@[simp] theorem modMyCore_measure (s : State) (f : Core → Core) : (modMyCore s f).measure = s.measure := rfl
@[simp] theorem modMyCore_conf (s : State) (f : Core → Core) : (modMyCore s f).conf = s.conf := rfl
@[simp] theorem modMyCore_powerReq (s : State) (f : Core → Core) : (modMyCore s f).powerReq = s.powerReq := rfl
@[simp] theorem modMyCore_clockStep (s : State) (f : Core → Core) : (modMyCore s f).clockStep = s.clockStep := rfl
@[simp] theorem modMyCore_gclk (s : State) (f : Core → Core) : (modMyCore s f).gclk = s.gclk := rfl
@[simp] theorem modMyCore_gclkWas (s : State) (f : Core → Core) : (modMyCore s f).gclkWas = s.gclkWas := rfl
@[simp] theorem modMyCore_gclkHold (s : State) (f : Core → Core) : (modMyCore s f).gclkHold = s.gclkHold := rfl
@[simp] theorem modMyCore_gfrac (s : State) (f : Core → Core) : (modMyCore s f).gfrac = s.gfrac := rfl
@[simp] theorem modMyCore_counters (s : State) (f : Core → Core) : (modMyCore s f).counters = s.counters := rfl
@[simp] theorem modMyCore_mbox (s : State) (f : Core → Core) : (modMyCore s f).mbox = s.mbox := rfl
@[simp] theorem modMyCore_qtroot (s : State) (f : Core → Core) : (modMyCore s f).qtroot = s.qtroot := rfl
@[simp] theorem modMyCore_cc (s : State) (f : Core → Core) : (modMyCore s f).cc = s.cc := rfl
@[simp] theorem modMyCore_sched (s : State) (f : Core → Core) : (modMyCore s f).sched = s.sched := rfl
@[simp] theorem modMyCore_slots (s : State) (f : Core → Core) : (modMyCore s f).slots = s.slots := rfl
@[simp] theorem modMyCore_chunks (s : State) (f : Core → Core) : (modMyCore s f).chunks = s.chunks := rfl
@[simp] theorem modMyCore_segs (s : State) (f : Core → Core) : (modMyCore s f).segs = s.segs := rfl
@[simp] theorem modMyCore_links (s : State) (f : Core → Core) : (modMyCore s f).links = s.links := rfl
@[simp] theorem modMyCore_parts (s : State) (f : Core → Core) : (modMyCore s f).parts = s.parts := rfl
@[simp] theorem modMyCore_maps (s : State) (f : Core → Core) : (modMyCore s f).maps = s.maps := rfl
@[simp] theorem modMyCore_revSeq (s : State) (f : Core → Core) : (modMyCore s f).revSeq = s.revSeq := rfl
@[simp] theorem modMyCore_code (s : State) (f : Core → Core) : (modMyCore s f).code = s.code := rfl
@[simp] theorem modMyCore_overlay (s : State) (f : Core → Core) : (modMyCore s f).overlay = s.overlay := rfl
@[simp] theorem modMyCore_first (s : State) (f : Core → Core) : (modMyCore s f).first = s.first := rfl
@[simp] theorem modMyCore_hist (s : State) (f : Core → Core) : (modMyCore s f).hist = s.hist := rfl
@[simp] theorem modMyCore_stamp (s : State) (f : Core → Core) : (modMyCore s f).stamp = s.stamp := rfl
@[simp] theorem modMyCore_atomics (s : State) (f : Core → Core) : (modMyCore s f).atomics = s.atomics := rfl
@[simp] theorem modMyCore_reds (s : State) (f : Core → Core) : (modMyCore s f).reds = s.reds := rfl
@[simp] theorem modMyCore_signals (s : State) (f : Core → Core) : (modMyCore s f).signals = s.signals := rfl
@[simp] theorem modMyCore_flying (s : State) (f : Core → Core) : (modMyCore s f).flying = s.flying := rfl
@[simp] theorem modMyCore_sliceWatches (s : State) (f : Core → Core) : (modMyCore s f).sliceWatches = s.sliceWatches := rfl
@[simp] theorem modMyCore_windows (s : State) (f : Core → Core) : (modMyCore s f).windows = s.windows := rfl
@[simp] theorem modMyCore_winForce (s : State) (f : Core → Core) : (modMyCore s f).winForce = s.winForce := rfl
@[simp] theorem modMyCore_winPend (s : State) (f : Core → Core) : (modMyCore s f).winPend = s.winPend := rfl
@[simp] theorem modMyCore_ports (s : State) (f : Core → Core) : (modMyCore s f).ports = s.ports := rfl
@[simp] theorem modMyCore_outbox (s : State) (f : Core → Core) : (modMyCore s f).outbox = s.outbox := rfl
@[simp] theorem modMyCore_peers (s : State) (f : Core → Core) : (modMyCore s f).peers = s.peers := rfl
@[simp] theorem modMyCore_agenda (s : State) (f : Core → Core) : (modMyCore s f).agenda = s.agenda := rfl
@[simp] theorem modMyCore_turn (s : State) (f : Core → Core) : (modMyCore s f).turn = s.turn := rfl
@[simp] theorem modMyCore_issued (s : State) (f : Core → Core) : (modMyCore s f).issued = s.issued := rfl
@[simp] theorem modMyCore_free (s : State) (f : Core → Core) : (modMyCore s f).free = s.free := rfl
@[simp] theorem modMyCore_cur (s : State) (f : Core → Core) : (modMyCore s f).cur = s.cur := rfl
@[simp] theorem modMyCore_nextId (s : State) (f : Core → Core) : (modMyCore s f).nextId = s.nextId := rfl
@[simp] theorem modMyCore_holdNow (s : State) (f : Core → Core) : (modMyCore s f).holdNow = s.holdNow := rfl
@[simp] theorem modMyCore_rounds (s : State) (f : Core → Core) : (modMyCore s f).rounds = s.rounds := rfl
@[simp] theorem modMyCore_roundGclk (s : State) (f : Core → Core) : (modMyCore s f).roundGclk = s.roundGclk := rfl
@[simp] theorem modMyCore_boundary (s : State) (f : Core → Core) : (modMyCore s f).boundary = s.boundary := rfl
@[simp] theorem modMyCore_cached (s : State) (f : Core → Core) : (modMyCore s f).cached = s.cached := rfl

/-! ### setPart -/

@[simp] theorem setPart_powered (s : State) (n : Nat) (p : Part) : (setPart s n p).powered = s.powered := rfl
@[simp] theorem setPart_boot (s : State) (n : Nat) (p : Part) : (setPart s n p).boot = s.boot := rfl
@[simp] theorem setPart_ready (s : State) (n : Nat) (p : Part) : (setPart s n p).ready = s.ready := rfl
@[simp] theorem setPart_failed (s : State) (n : Nat) (p : Part) : (setPart s n p).failed = s.failed := rfl
@[simp] theorem setPart_flash (s : State) (n : Nat) (p : Part) : (setPart s n p).flash = s.flash := rfl
@[simp] theorem setPart_measure (s : State) (n : Nat) (p : Part) : (setPart s n p).measure = s.measure := rfl
@[simp] theorem setPart_conf (s : State) (n : Nat) (p : Part) : (setPart s n p).conf = s.conf := rfl
@[simp] theorem setPart_powerReq (s : State) (n : Nat) (p : Part) : (setPart s n p).powerReq = s.powerReq := rfl
@[simp] theorem setPart_clockStep (s : State) (n : Nat) (p : Part) : (setPart s n p).clockStep = s.clockStep := rfl
@[simp] theorem setPart_gclk (s : State) (n : Nat) (p : Part) : (setPart s n p).gclk = s.gclk := rfl
@[simp] theorem setPart_gclkWas (s : State) (n : Nat) (p : Part) : (setPart s n p).gclkWas = s.gclkWas := rfl
@[simp] theorem setPart_gclkHold (s : State) (n : Nat) (p : Part) : (setPart s n p).gclkHold = s.gclkHold := rfl
@[simp] theorem setPart_gfrac (s : State) (n : Nat) (p : Part) : (setPart s n p).gfrac = s.gfrac := rfl
@[simp] theorem setPart_counters (s : State) (n : Nat) (p : Part) : (setPart s n p).counters = s.counters := rfl
@[simp] theorem setPart_mbox (s : State) (n : Nat) (p : Part) : (setPart s n p).mbox = s.mbox := rfl
@[simp] theorem setPart_qtroot (s : State) (n : Nat) (p : Part) : (setPart s n p).qtroot = s.qtroot := rfl
@[simp] theorem setPart_cc (s : State) (n : Nat) (p : Part) : (setPart s n p).cc = s.cc := rfl
@[simp] theorem setPart_sched (s : State) (n : Nat) (p : Part) : (setPart s n p).sched = s.sched := rfl
@[simp] theorem setPart_slots (s : State) (n : Nat) (p : Part) : (setPart s n p).slots = s.slots := rfl
@[simp] theorem setPart_chunks (s : State) (n : Nat) (p : Part) : (setPart s n p).chunks = s.chunks := rfl
@[simp] theorem setPart_segs (s : State) (n : Nat) (p : Part) : (setPart s n p).segs = s.segs := rfl
@[simp] theorem setPart_links (s : State) (n : Nat) (p : Part) : (setPart s n p).links = s.links := rfl
@[simp] theorem setPart_maps (s : State) (n : Nat) (p : Part) : (setPart s n p).maps = s.maps := rfl
@[simp] theorem setPart_revSeq (s : State) (n : Nat) (p : Part) : (setPart s n p).revSeq = s.revSeq := rfl
@[simp] theorem setPart_code (s : State) (n : Nat) (p : Part) : (setPart s n p).code = s.code := rfl
@[simp] theorem setPart_overlay (s : State) (n : Nat) (p : Part) : (setPart s n p).overlay = s.overlay := rfl
@[simp] theorem setPart_first (s : State) (n : Nat) (p : Part) : (setPart s n p).first = s.first := rfl
@[simp] theorem setPart_hist (s : State) (n : Nat) (p : Part) : (setPart s n p).hist = s.hist := rfl
@[simp] theorem setPart_stamp (s : State) (n : Nat) (p : Part) : (setPart s n p).stamp = s.stamp := rfl
@[simp] theorem setPart_atomics (s : State) (n : Nat) (p : Part) : (setPart s n p).atomics = s.atomics := rfl
@[simp] theorem setPart_reds (s : State) (n : Nat) (p : Part) : (setPart s n p).reds = s.reds := rfl
@[simp] theorem setPart_signals (s : State) (n : Nat) (p : Part) : (setPart s n p).signals = s.signals := rfl
@[simp] theorem setPart_flying (s : State) (n : Nat) (p : Part) : (setPart s n p).flying = s.flying := rfl
@[simp] theorem setPart_sliceWatches (s : State) (n : Nat) (p : Part) : (setPart s n p).sliceWatches = s.sliceWatches := rfl
@[simp] theorem setPart_windows (s : State) (n : Nat) (p : Part) : (setPart s n p).windows = s.windows := rfl
@[simp] theorem setPart_winForce (s : State) (n : Nat) (p : Part) : (setPart s n p).winForce = s.winForce := rfl
@[simp] theorem setPart_winPend (s : State) (n : Nat) (p : Part) : (setPart s n p).winPend = s.winPend := rfl
@[simp] theorem setPart_ports (s : State) (n : Nat) (p : Part) : (setPart s n p).ports = s.ports := rfl
@[simp] theorem setPart_outbox (s : State) (n : Nat) (p : Part) : (setPart s n p).outbox = s.outbox := rfl
@[simp] theorem setPart_peers (s : State) (n : Nat) (p : Part) : (setPart s n p).peers = s.peers := rfl
@[simp] theorem setPart_cores (s : State) (n : Nat) (p : Part) : (setPart s n p).cores = s.cores := rfl
@[simp] theorem setPart_agenda (s : State) (n : Nat) (p : Part) : (setPart s n p).agenda = s.agenda := rfl
@[simp] theorem setPart_turn (s : State) (n : Nat) (p : Part) : (setPart s n p).turn = s.turn := rfl
@[simp] theorem setPart_issued (s : State) (n : Nat) (p : Part) : (setPart s n p).issued = s.issued := rfl
@[simp] theorem setPart_free (s : State) (n : Nat) (p : Part) : (setPart s n p).free = s.free := rfl
@[simp] theorem setPart_cur (s : State) (n : Nat) (p : Part) : (setPart s n p).cur = s.cur := rfl
@[simp] theorem setPart_nextId (s : State) (n : Nat) (p : Part) : (setPart s n p).nextId = s.nextId := rfl
@[simp] theorem setPart_holdNow (s : State) (n : Nat) (p : Part) : (setPart s n p).holdNow = s.holdNow := rfl
@[simp] theorem setPart_rounds (s : State) (n : Nat) (p : Part) : (setPart s n p).rounds = s.rounds := rfl
@[simp] theorem setPart_roundGclk (s : State) (n : Nat) (p : Part) : (setPart s n p).roundGclk = s.roundGclk := rfl
@[simp] theorem setPart_boundary (s : State) (n : Nat) (p : Part) : (setPart s n p).boundary = s.boundary := rfl
@[simp] theorem setPart_cached (s : State) (n : Nat) (p : Part) : (setPart s n p).cached = s.cached := rfl

/-! ### modPart -/

@[simp] theorem modPart_powered (s : State) (n : Nat) (f : Part → Part) : (modPart s n f).powered = s.powered := rfl
@[simp] theorem modPart_boot (s : State) (n : Nat) (f : Part → Part) : (modPart s n f).boot = s.boot := rfl
@[simp] theorem modPart_ready (s : State) (n : Nat) (f : Part → Part) : (modPart s n f).ready = s.ready := rfl
@[simp] theorem modPart_failed (s : State) (n : Nat) (f : Part → Part) : (modPart s n f).failed = s.failed := rfl
@[simp] theorem modPart_flash (s : State) (n : Nat) (f : Part → Part) : (modPart s n f).flash = s.flash := rfl
@[simp] theorem modPart_measure (s : State) (n : Nat) (f : Part → Part) : (modPart s n f).measure = s.measure := rfl
@[simp] theorem modPart_conf (s : State) (n : Nat) (f : Part → Part) : (modPart s n f).conf = s.conf := rfl
@[simp] theorem modPart_powerReq (s : State) (n : Nat) (f : Part → Part) : (modPart s n f).powerReq = s.powerReq := rfl
@[simp] theorem modPart_clockStep (s : State) (n : Nat) (f : Part → Part) : (modPart s n f).clockStep = s.clockStep := rfl
@[simp] theorem modPart_gclk (s : State) (n : Nat) (f : Part → Part) : (modPart s n f).gclk = s.gclk := rfl
@[simp] theorem modPart_gclkWas (s : State) (n : Nat) (f : Part → Part) : (modPart s n f).gclkWas = s.gclkWas := rfl
@[simp] theorem modPart_gclkHold (s : State) (n : Nat) (f : Part → Part) : (modPart s n f).gclkHold = s.gclkHold := rfl
@[simp] theorem modPart_gfrac (s : State) (n : Nat) (f : Part → Part) : (modPart s n f).gfrac = s.gfrac := rfl
@[simp] theorem modPart_counters (s : State) (n : Nat) (f : Part → Part) : (modPart s n f).counters = s.counters := rfl
@[simp] theorem modPart_mbox (s : State) (n : Nat) (f : Part → Part) : (modPart s n f).mbox = s.mbox := rfl
@[simp] theorem modPart_qtroot (s : State) (n : Nat) (f : Part → Part) : (modPart s n f).qtroot = s.qtroot := rfl
@[simp] theorem modPart_cc (s : State) (n : Nat) (f : Part → Part) : (modPart s n f).cc = s.cc := rfl
@[simp] theorem modPart_sched (s : State) (n : Nat) (f : Part → Part) : (modPart s n f).sched = s.sched := rfl
@[simp] theorem modPart_slots (s : State) (n : Nat) (f : Part → Part) : (modPart s n f).slots = s.slots := rfl
@[simp] theorem modPart_chunks (s : State) (n : Nat) (f : Part → Part) : (modPart s n f).chunks = s.chunks := rfl
@[simp] theorem modPart_segs (s : State) (n : Nat) (f : Part → Part) : (modPart s n f).segs = s.segs := rfl
@[simp] theorem modPart_links (s : State) (n : Nat) (f : Part → Part) : (modPart s n f).links = s.links := rfl
@[simp] theorem modPart_maps (s : State) (n : Nat) (f : Part → Part) : (modPart s n f).maps = s.maps := rfl
@[simp] theorem modPart_revSeq (s : State) (n : Nat) (f : Part → Part) : (modPart s n f).revSeq = s.revSeq := rfl
@[simp] theorem modPart_code (s : State) (n : Nat) (f : Part → Part) : (modPart s n f).code = s.code := rfl
@[simp] theorem modPart_overlay (s : State) (n : Nat) (f : Part → Part) : (modPart s n f).overlay = s.overlay := rfl
@[simp] theorem modPart_first (s : State) (n : Nat) (f : Part → Part) : (modPart s n f).first = s.first := rfl
@[simp] theorem modPart_hist (s : State) (n : Nat) (f : Part → Part) : (modPart s n f).hist = s.hist := rfl
@[simp] theorem modPart_stamp (s : State) (n : Nat) (f : Part → Part) : (modPart s n f).stamp = s.stamp := rfl
@[simp] theorem modPart_atomics (s : State) (n : Nat) (f : Part → Part) : (modPart s n f).atomics = s.atomics := rfl
@[simp] theorem modPart_reds (s : State) (n : Nat) (f : Part → Part) : (modPart s n f).reds = s.reds := rfl
@[simp] theorem modPart_signals (s : State) (n : Nat) (f : Part → Part) : (modPart s n f).signals = s.signals := rfl
@[simp] theorem modPart_flying (s : State) (n : Nat) (f : Part → Part) : (modPart s n f).flying = s.flying := rfl
@[simp] theorem modPart_sliceWatches (s : State) (n : Nat) (f : Part → Part) : (modPart s n f).sliceWatches = s.sliceWatches := rfl
@[simp] theorem modPart_windows (s : State) (n : Nat) (f : Part → Part) : (modPart s n f).windows = s.windows := rfl
@[simp] theorem modPart_winForce (s : State) (n : Nat) (f : Part → Part) : (modPart s n f).winForce = s.winForce := rfl
@[simp] theorem modPart_winPend (s : State) (n : Nat) (f : Part → Part) : (modPart s n f).winPend = s.winPend := rfl
@[simp] theorem modPart_ports (s : State) (n : Nat) (f : Part → Part) : (modPart s n f).ports = s.ports := rfl
@[simp] theorem modPart_outbox (s : State) (n : Nat) (f : Part → Part) : (modPart s n f).outbox = s.outbox := rfl
@[simp] theorem modPart_peers (s : State) (n : Nat) (f : Part → Part) : (modPart s n f).peers = s.peers := rfl
@[simp] theorem modPart_cores (s : State) (n : Nat) (f : Part → Part) : (modPart s n f).cores = s.cores := rfl
@[simp] theorem modPart_agenda (s : State) (n : Nat) (f : Part → Part) : (modPart s n f).agenda = s.agenda := rfl
@[simp] theorem modPart_turn (s : State) (n : Nat) (f : Part → Part) : (modPart s n f).turn = s.turn := rfl
@[simp] theorem modPart_issued (s : State) (n : Nat) (f : Part → Part) : (modPart s n f).issued = s.issued := rfl
@[simp] theorem modPart_free (s : State) (n : Nat) (f : Part → Part) : (modPart s n f).free = s.free := rfl
@[simp] theorem modPart_cur (s : State) (n : Nat) (f : Part → Part) : (modPart s n f).cur = s.cur := rfl
@[simp] theorem modPart_nextId (s : State) (n : Nat) (f : Part → Part) : (modPart s n f).nextId = s.nextId := rfl
@[simp] theorem modPart_holdNow (s : State) (n : Nat) (f : Part → Part) : (modPart s n f).holdNow = s.holdNow := rfl
@[simp] theorem modPart_rounds (s : State) (n : Nat) (f : Part → Part) : (modPart s n f).rounds = s.rounds := rfl
@[simp] theorem modPart_roundGclk (s : State) (n : Nat) (f : Part → Part) : (modPart s n f).roundGclk = s.roundGclk := rfl
@[simp] theorem modPart_boundary (s : State) (n : Nat) (f : Part → Part) : (modPart s n f).boundary = s.boundary := rfl
@[simp] theorem modPart_cached (s : State) (n : Nat) (f : Part → Part) : (modPart s n f).cached = s.cached := rfl

/-! ### bump -/

@[simp] theorem bump_powered (s : State) (r n : Nat) : (bump s r n).powered = s.powered := rfl
@[simp] theorem bump_boot (s : State) (r n : Nat) : (bump s r n).boot = s.boot := rfl
@[simp] theorem bump_ready (s : State) (r n : Nat) : (bump s r n).ready = s.ready := rfl
@[simp] theorem bump_failed (s : State) (r n : Nat) : (bump s r n).failed = s.failed := rfl
@[simp] theorem bump_flash (s : State) (r n : Nat) : (bump s r n).flash = s.flash := rfl
@[simp] theorem bump_measure (s : State) (r n : Nat) : (bump s r n).measure = s.measure := rfl
@[simp] theorem bump_conf (s : State) (r n : Nat) : (bump s r n).conf = s.conf := rfl
@[simp] theorem bump_powerReq (s : State) (r n : Nat) : (bump s r n).powerReq = s.powerReq := rfl
@[simp] theorem bump_clockStep (s : State) (r n : Nat) : (bump s r n).clockStep = s.clockStep := rfl
@[simp] theorem bump_gclk (s : State) (r n : Nat) : (bump s r n).gclk = s.gclk := rfl
@[simp] theorem bump_gclkWas (s : State) (r n : Nat) : (bump s r n).gclkWas = s.gclkWas := rfl
@[simp] theorem bump_gclkHold (s : State) (r n : Nat) : (bump s r n).gclkHold = s.gclkHold := rfl
@[simp] theorem bump_gfrac (s : State) (r n : Nat) : (bump s r n).gfrac = s.gfrac := rfl
@[simp] theorem bump_mbox (s : State) (r n : Nat) : (bump s r n).mbox = s.mbox := rfl
@[simp] theorem bump_qtroot (s : State) (r n : Nat) : (bump s r n).qtroot = s.qtroot := rfl
@[simp] theorem bump_cc (s : State) (r n : Nat) : (bump s r n).cc = s.cc := rfl
@[simp] theorem bump_sched (s : State) (r n : Nat) : (bump s r n).sched = s.sched := rfl
@[simp] theorem bump_slots (s : State) (r n : Nat) : (bump s r n).slots = s.slots := rfl
@[simp] theorem bump_chunks (s : State) (r n : Nat) : (bump s r n).chunks = s.chunks := rfl
@[simp] theorem bump_segs (s : State) (r n : Nat) : (bump s r n).segs = s.segs := rfl
@[simp] theorem bump_links (s : State) (r n : Nat) : (bump s r n).links = s.links := rfl
@[simp] theorem bump_parts (s : State) (r n : Nat) : (bump s r n).parts = s.parts := rfl
@[simp] theorem bump_maps (s : State) (r n : Nat) : (bump s r n).maps = s.maps := rfl
@[simp] theorem bump_revSeq (s : State) (r n : Nat) : (bump s r n).revSeq = s.revSeq := rfl
@[simp] theorem bump_code (s : State) (r n : Nat) : (bump s r n).code = s.code := rfl
@[simp] theorem bump_overlay (s : State) (r n : Nat) : (bump s r n).overlay = s.overlay := rfl
@[simp] theorem bump_first (s : State) (r n : Nat) : (bump s r n).first = s.first := rfl
@[simp] theorem bump_hist (s : State) (r n : Nat) : (bump s r n).hist = s.hist := rfl
@[simp] theorem bump_stamp (s : State) (r n : Nat) : (bump s r n).stamp = s.stamp := rfl
@[simp] theorem bump_atomics (s : State) (r n : Nat) : (bump s r n).atomics = s.atomics := rfl
@[simp] theorem bump_reds (s : State) (r n : Nat) : (bump s r n).reds = s.reds := rfl
@[simp] theorem bump_signals (s : State) (r n : Nat) : (bump s r n).signals = s.signals := rfl
@[simp] theorem bump_flying (s : State) (r n : Nat) : (bump s r n).flying = s.flying := rfl
@[simp] theorem bump_sliceWatches (s : State) (r n : Nat) : (bump s r n).sliceWatches = s.sliceWatches := rfl
@[simp] theorem bump_windows (s : State) (r n : Nat) : (bump s r n).windows = s.windows := rfl
@[simp] theorem bump_winForce (s : State) (r n : Nat) : (bump s r n).winForce = s.winForce := rfl
@[simp] theorem bump_winPend (s : State) (r n : Nat) : (bump s r n).winPend = s.winPend := rfl
@[simp] theorem bump_ports (s : State) (r n : Nat) : (bump s r n).ports = s.ports := rfl
@[simp] theorem bump_outbox (s : State) (r n : Nat) : (bump s r n).outbox = s.outbox := rfl
@[simp] theorem bump_peers (s : State) (r n : Nat) : (bump s r n).peers = s.peers := rfl
@[simp] theorem bump_cores (s : State) (r n : Nat) : (bump s r n).cores = s.cores := rfl
@[simp] theorem bump_agenda (s : State) (r n : Nat) : (bump s r n).agenda = s.agenda := rfl
@[simp] theorem bump_turn (s : State) (r n : Nat) : (bump s r n).turn = s.turn := rfl
@[simp] theorem bump_issued (s : State) (r n : Nat) : (bump s r n).issued = s.issued := rfl
@[simp] theorem bump_free (s : State) (r n : Nat) : (bump s r n).free = s.free := rfl
@[simp] theorem bump_cur (s : State) (r n : Nat) : (bump s r n).cur = s.cur := rfl
@[simp] theorem bump_nextId (s : State) (r n : Nat) : (bump s r n).nextId = s.nextId := rfl
@[simp] theorem bump_holdNow (s : State) (r n : Nat) : (bump s r n).holdNow = s.holdNow := rfl
@[simp] theorem bump_rounds (s : State) (r n : Nat) : (bump s r n).rounds = s.rounds := rfl
@[simp] theorem bump_roundGclk (s : State) (r n : Nat) : (bump s r n).roundGclk = s.roundGclk := rfl
@[simp] theorem bump_boundary (s : State) (r n : Nat) : (bump s r n).boundary = s.boundary := rfl
@[simp] theorem bump_cached (s : State) (r n : Nat) : (bump s r n).cached = s.cached := rfl

/-! ### push -/

@[simp] theorem push_powered (s : State) (f : Flight) : (push s f).powered = s.powered := rfl
@[simp] theorem push_boot (s : State) (f : Flight) : (push s f).boot = s.boot := rfl
@[simp] theorem push_ready (s : State) (f : Flight) : (push s f).ready = s.ready := rfl
@[simp] theorem push_failed (s : State) (f : Flight) : (push s f).failed = s.failed := rfl
@[simp] theorem push_flash (s : State) (f : Flight) : (push s f).flash = s.flash := rfl
@[simp] theorem push_measure (s : State) (f : Flight) : (push s f).measure = s.measure := rfl
@[simp] theorem push_conf (s : State) (f : Flight) : (push s f).conf = s.conf := rfl
@[simp] theorem push_powerReq (s : State) (f : Flight) : (push s f).powerReq = s.powerReq := rfl
@[simp] theorem push_clockStep (s : State) (f : Flight) : (push s f).clockStep = s.clockStep := rfl
@[simp] theorem push_gclk (s : State) (f : Flight) : (push s f).gclk = s.gclk := rfl
@[simp] theorem push_gclkWas (s : State) (f : Flight) : (push s f).gclkWas = s.gclkWas := rfl
@[simp] theorem push_gclkHold (s : State) (f : Flight) : (push s f).gclkHold = s.gclkHold := rfl
@[simp] theorem push_gfrac (s : State) (f : Flight) : (push s f).gfrac = s.gfrac := rfl
@[simp] theorem push_counters (s : State) (f : Flight) : (push s f).counters = s.counters := rfl
@[simp] theorem push_mbox (s : State) (f : Flight) : (push s f).mbox = s.mbox := rfl
@[simp] theorem push_qtroot (s : State) (f : Flight) : (push s f).qtroot = s.qtroot := rfl
@[simp] theorem push_cc (s : State) (f : Flight) : (push s f).cc = s.cc := rfl
@[simp] theorem push_sched (s : State) (f : Flight) : (push s f).sched = s.sched := rfl
@[simp] theorem push_slots (s : State) (f : Flight) : (push s f).slots = s.slots := rfl
@[simp] theorem push_chunks (s : State) (f : Flight) : (push s f).chunks = s.chunks := rfl
@[simp] theorem push_segs (s : State) (f : Flight) : (push s f).segs = s.segs := rfl
@[simp] theorem push_links (s : State) (f : Flight) : (push s f).links = s.links := rfl
@[simp] theorem push_parts (s : State) (f : Flight) : (push s f).parts = s.parts := rfl
@[simp] theorem push_maps (s : State) (f : Flight) : (push s f).maps = s.maps := rfl
@[simp] theorem push_revSeq (s : State) (f : Flight) : (push s f).revSeq = s.revSeq := rfl
@[simp] theorem push_code (s : State) (f : Flight) : (push s f).code = s.code := rfl
@[simp] theorem push_overlay (s : State) (f : Flight) : (push s f).overlay = s.overlay := rfl
@[simp] theorem push_first (s : State) (f : Flight) : (push s f).first = s.first := rfl
@[simp] theorem push_hist (s : State) (f : Flight) : (push s f).hist = s.hist := rfl
@[simp] theorem push_stamp (s : State) (f : Flight) : (push s f).stamp = s.stamp := rfl
@[simp] theorem push_atomics (s : State) (f : Flight) : (push s f).atomics = s.atomics := rfl
@[simp] theorem push_reds (s : State) (f : Flight) : (push s f).reds = s.reds := rfl
@[simp] theorem push_signals (s : State) (f : Flight) : (push s f).signals = s.signals := rfl
@[simp] theorem push_flying (s : State) (f : Flight) : (push s f).flying = s.flying := rfl
@[simp] theorem push_sliceWatches (s : State) (f : Flight) : (push s f).sliceWatches = s.sliceWatches := rfl
@[simp] theorem push_windows (s : State) (f : Flight) : (push s f).windows = s.windows := rfl
@[simp] theorem push_winForce (s : State) (f : Flight) : (push s f).winForce = s.winForce := rfl
@[simp] theorem push_winPend (s : State) (f : Flight) : (push s f).winPend = s.winPend := rfl
@[simp] theorem push_ports (s : State) (f : Flight) : (push s f).ports = s.ports := rfl
@[simp] theorem push_outbox (s : State) (f : Flight) : (push s f).outbox = s.outbox := rfl
@[simp] theorem push_peers (s : State) (f : Flight) : (push s f).peers = s.peers := rfl
@[simp] theorem push_agenda (s : State) (f : Flight) : (push s f).agenda = s.agenda := rfl
@[simp] theorem push_turn (s : State) (f : Flight) : (push s f).turn = s.turn := rfl
@[simp] theorem push_issued (s : State) (f : Flight) : (push s f).issued = s.issued := rfl
@[simp] theorem push_free (s : State) (f : Flight) : (push s f).free = s.free := rfl
@[simp] theorem push_cur (s : State) (f : Flight) : (push s f).cur = s.cur := rfl
@[simp] theorem push_holdNow (s : State) (f : Flight) : (push s f).holdNow = s.holdNow := rfl
@[simp] theorem push_rounds (s : State) (f : Flight) : (push s f).rounds = s.rounds := rfl
@[simp] theorem push_roundGclk (s : State) (f : Flight) : (push s f).roundGclk = s.roundGclk := rfl
@[simp] theorem push_boundary (s : State) (f : Flight) : (push s f).boundary = s.boundary := rfl
@[simp] theorem push_cached (s : State) (f : Flight) : (push s f).cached = s.cached := rfl

/-! ### setG -/

@[simp] theorem setG_life (n : Nat) (v : Word) (c : Ctx) : (setG n v c).life = c.life := by unfold setG; split <;> rfl
@[simp] theorem setG_swapped (n : Nat) (v : Word) (c : Ctx) : (setG n v c).swapped = c.swapped := by unfold setG; split <;> rfl
@[simp] theorem setG_part (n : Nat) (v : Word) (c : Ctx) : (setG n v c).part = c.part := by unfold setG; split <;> rfl
@[simp] theorem setG_pasid (n : Nat) (v : Word) (c : Ctx) : (setG n v c).pasid = c.pasid := by unfold setG; split <;> rfl
@[simp] theorem setG_kernel (n : Nat) (v : Word) (c : Ctx) : (setG n v c).kernel = c.kernel := by unfold setG; split <;> rfl
@[simp] theorem setG_fresh (n : Nat) (v : Word) (c : Ctx) : (setG n v c).fresh = c.fresh := by unfold setG; split <;> rfl
@[simp] theorem setG_ordinal (n : Nat) (v : Word) (c : Ctx) : (setG n v c).ordinal = c.ordinal := by unfold setG; split <;> rfl
@[simp] theorem setG_epoch (n : Nat) (v : Word) (c : Ctx) : (setG n v c).epoch = c.epoch := by unfold setG; split <;> rfl
@[simp] theorem setG_index (n : Nat) (v : Word) (c : Ctx) : (setG n v c).index = c.index := by unfold setG; split <;> rfl
@[simp] theorem setG_seq (n : Nat) (v : Word) (c : Ctx) : (setG n v c).seq = c.seq := by unfold setG; split <;> rfl
@[simp] theorem setG_aside (n : Nat) (v : Word) (c : Ctx) : (setG n v c).aside = c.aside := by unfold setG; split <;> rfl
@[simp] theorem setG_p (n : Nat) (v : Word) (c : Ctx) : (setG n v c).p = c.p := by unfold setG; split <;> rfl
@[simp] theorem setG_k (n : Nat) (v : Word) (c : Ctx) : (setG n v c).k = c.k := by unfold setG; split <;> rfl
@[simp] theorem setG_h (n : Nat) (v : Word) (c : Ctx) : (setG n v c).h = c.h := by unfold setG; split <;> rfl
@[simp] theorem setG_bt (n : Nat) (v : Word) (c : Ctx) : (setG n v c).bt = c.bt := by unfold setG; split <;> rfl
@[simp] theorem setG_m (n : Nat) (v : Word) (c : Ctx) : (setG n v c).m = c.m := by unfold setG; split <;> rfl
@[simp] theorem setG_tiles (n : Nat) (v : Word) (c : Ctx) : (setG n v c).tiles = c.tiles := by unfold setG; split <;> rfl
@[simp] theorem setG_fslots (n : Nat) (v : Word) (c : Ctx) : (setG n v c).fslots = c.fslots := by unfold setG; split <;> rfl
@[simp] theorem setG_rba (n : Nat) (v : Word) (c : Ctx) : (setG n v c).rba = c.rba := by unfold setG; split <;> rfl
@[simp] theorem setG_rbb (n : Nat) (v : Word) (c : Ctx) : (setG n v c).rbb = c.rbb := by unfold setG; split <;> rfl
@[simp] theorem setG_rwin (n : Nat) (v : Word) (c : Ctx) : (setG n v c).rwin = c.rwin := by unfold setG; split <;> rfl
@[simp] theorem setG_fflags (n : Nat) (v : Word) (c : Ctx) : (setG n v c).fflags = c.fflags := by unfold setG; split <;> rfl
@[simp] theorem setG_fmode (n : Nat) (v : Word) (c : Ctx) : (setG n v c).fmode = c.fmode := by unfold setG; split <;> rfl
@[simp] theorem setG_srng (n : Nat) (v : Word) (c : Ctx) : (setG n v c).srng = c.srng := by unfold setG; split <;> rfl
@[simp] theorem setG_icfg (n : Nat) (v : Word) (c : Ctx) : (setG n v c).icfg = c.icfg := by unfold setG; split <;> rfl
@[simp] theorem setG_scyc (n : Nat) (v : Word) (c : Ctx) : (setG n v c).scyc = c.scyc := by unfold setG; split <;> rfl
@[simp] theorem setG_tcause (n : Nat) (v : Word) (c : Ctx) : (setG n v c).tcause = c.tcause := by unfold setG; split <;> rfl
@[simp] theorem setG_tval (n : Nat) (v : Word) (c : Ctx) : (setG n v c).tval = c.tval := by unfold setG; split <;> rfl
@[simp] theorem setG_epc (n : Nat) (v : Word) (c : Ctx) : (setG n v c).epc = c.epc := by unfold setG; split <;> rfl
@[simp] theorem setG_hvec (n : Nat) (v : Word) (c : Ctx) : (setG n v c).hvec = c.hvec := by unfold setG; split <;> rfl
@[simp] theorem setG_tstat (n : Nat) (v : Word) (c : Ctx) : (setG n v c).tstat = c.tstat := by unfold setG; split <;> rfl
@[simp] theorem setG_tpbt (n : Nat) (v : Word) (c : Ctx) : (setG n v c).tpbt = c.tpbt := by unfold setG; split <;> rfl
@[simp] theorem setG_tscr (n : Nat) (v : Word) (c : Ctx) : (setG n v c).tscr = c.tscr := by unfold setG; split <;> rfl
@[simp] theorem setG_ehome (n : Nat) (v : Word) (c : Ctx) : (setG n v c).ehome = c.ehome := by unfold setG; split <;> rfl
@[simp] theorem setG_reports (n : Nat) (v : Word) (c : Ctx) : (setG n v c).reports = c.reports := by unfold setG; split <;> rfl
@[simp] theorem setG_deferred (n : Nat) (v : Word) (c : Ctx) : (setG n v c).deferred = c.deferred := by unfold setG; split <;> rfl
@[simp] theorem setG_latch (n : Nat) (v : Word) (c : Ctx) : (setG n v c).latch = c.latch := by unfold setG; split <;> rfl
@[simp] theorem setG_flights (n : Nat) (v : Word) (c : Ctx) : (setG n v c).flights = c.flights := by unfold setG; split <;> rfl
@[simp] theorem setG_dec (n : Nat) (v : Word) (c : Ctx) : (setG n v c).dec = c.dec := by unfold setG; split <;> rfl
@[simp] theorem setG_atts (n : Nat) (v : Word) (c : Ctx) : (setG n v c).atts = c.atts := by unfold setG; split <;> rfl
@[simp] theorem setG_own (n : Nat) (v : Word) (c : Ctx) : (setG n v c).own = c.own := by unfold setG; split <;> rfl
@[simp] theorem setG_seen (n : Nat) (v : Word) (c : Ctx) : (setG n v c).seen = c.seen := by unfold setG; split <;> rfl
@[simp] theorem setG_ask (n : Nat) (v : Word) (c : Ctx) : (setG n v c).ask = c.ask := by unfold setG; split <;> rfl
@[simp] theorem setG_drift (n : Nat) (v : Word) (c : Ctx) : (setG n v c).drift = c.drift := by unfold setG; split <;> rfl
@[simp] theorem setG_trace (n : Nat) (v : Word) (c : Ctx) : (setG n v c).trace = c.trace := by unfold setG; split <;> rfl
@[simp] theorem setG_measured (n : Nat) (v : Word) (c : Ctx) : (setG n v c).measured = c.measured := by unfold setG; split <;> rfl
@[simp] theorem setG_firstCyc (n : Nat) (v : Word) (c : Ctx) : (setG n v c).firstCyc = c.firstCyc := by unfold setG; split <;> rfl
@[simp] theorem setG_stall (n : Nat) (v : Word) (c : Ctx) : (setG n v c).stall = c.stall := by unfold setG; split <;> rfl
@[simp] theorem setG_log0 (n : Nat) (v : Word) (c : Ctx) : (setG n v c).log0 = c.log0 := by unfold setG; split <;> rfl
@[simp] theorem setG_bkps (n : Nat) (v : Word) (c : Ctx) : (setG n v c).bkps = c.bkps := by unfold setG; split <;> rfl
@[simp] theorem setG_bkpa (n : Nat) (v : Word) (c : Ctx) : (setG n v c).bkpa = c.bkpa := by unfold setG; split <;> rfl
@[simp] theorem setG_wpinfo (n : Nat) (v : Word) (c : Ctx) : (setG n v c).wpinfo = c.wpinfo := by unfold setG; split <;> rfl
@[simp] theorem setG_skipWatch (n : Nat) (v : Word) (c : Ctx) : (setG n v c).skipWatch = c.skipWatch := by unfold setG; split <;> rfl
@[simp] theorem setG_skipBreak (n : Nat) (v : Word) (c : Ctx) : (setG n v c).skipBreak = c.skipBreak := by unfold setG; split <;> rfl

/-! ### setP -/

@[simp] theorem setP_life (n : Nat) (v : Bool) (c : Ctx) : (setP n v c).life = c.life := by unfold setP; split <;> rfl
@[simp] theorem setP_swapped (n : Nat) (v : Bool) (c : Ctx) : (setP n v c).swapped = c.swapped := by unfold setP; split <;> rfl
@[simp] theorem setP_part (n : Nat) (v : Bool) (c : Ctx) : (setP n v c).part = c.part := by unfold setP; split <;> rfl
@[simp] theorem setP_pasid (n : Nat) (v : Bool) (c : Ctx) : (setP n v c).pasid = c.pasid := by unfold setP; split <;> rfl
@[simp] theorem setP_kernel (n : Nat) (v : Bool) (c : Ctx) : (setP n v c).kernel = c.kernel := by unfold setP; split <;> rfl
@[simp] theorem setP_fresh (n : Nat) (v : Bool) (c : Ctx) : (setP n v c).fresh = c.fresh := by unfold setP; split <;> rfl
@[simp] theorem setP_ordinal (n : Nat) (v : Bool) (c : Ctx) : (setP n v c).ordinal = c.ordinal := by unfold setP; split <;> rfl
@[simp] theorem setP_epoch (n : Nat) (v : Bool) (c : Ctx) : (setP n v c).epoch = c.epoch := by unfold setP; split <;> rfl
@[simp] theorem setP_index (n : Nat) (v : Bool) (c : Ctx) : (setP n v c).index = c.index := by unfold setP; split <;> rfl
@[simp] theorem setP_seq (n : Nat) (v : Bool) (c : Ctx) : (setP n v c).seq = c.seq := by unfold setP; split <;> rfl
@[simp] theorem setP_aside (n : Nat) (v : Bool) (c : Ctx) : (setP n v c).aside = c.aside := by unfold setP; split <;> rfl
@[simp] theorem setP_g (n : Nat) (v : Bool) (c : Ctx) : (setP n v c).g = c.g := by unfold setP; split <;> rfl
@[simp] theorem setP_k (n : Nat) (v : Bool) (c : Ctx) : (setP n v c).k = c.k := by unfold setP; split <;> rfl
@[simp] theorem setP_h (n : Nat) (v : Bool) (c : Ctx) : (setP n v c).h = c.h := by unfold setP; split <;> rfl
@[simp] theorem setP_bt (n : Nat) (v : Bool) (c : Ctx) : (setP n v c).bt = c.bt := by unfold setP; split <;> rfl
@[simp] theorem setP_m (n : Nat) (v : Bool) (c : Ctx) : (setP n v c).m = c.m := by unfold setP; split <;> rfl
@[simp] theorem setP_tiles (n : Nat) (v : Bool) (c : Ctx) : (setP n v c).tiles = c.tiles := by unfold setP; split <;> rfl
@[simp] theorem setP_fslots (n : Nat) (v : Bool) (c : Ctx) : (setP n v c).fslots = c.fslots := by unfold setP; split <;> rfl
@[simp] theorem setP_rba (n : Nat) (v : Bool) (c : Ctx) : (setP n v c).rba = c.rba := by unfold setP; split <;> rfl
@[simp] theorem setP_rbb (n : Nat) (v : Bool) (c : Ctx) : (setP n v c).rbb = c.rbb := by unfold setP; split <;> rfl
@[simp] theorem setP_rwin (n : Nat) (v : Bool) (c : Ctx) : (setP n v c).rwin = c.rwin := by unfold setP; split <;> rfl
@[simp] theorem setP_fflags (n : Nat) (v : Bool) (c : Ctx) : (setP n v c).fflags = c.fflags := by unfold setP; split <;> rfl
@[simp] theorem setP_fmode (n : Nat) (v : Bool) (c : Ctx) : (setP n v c).fmode = c.fmode := by unfold setP; split <;> rfl
@[simp] theorem setP_srng (n : Nat) (v : Bool) (c : Ctx) : (setP n v c).srng = c.srng := by unfold setP; split <;> rfl
@[simp] theorem setP_icfg (n : Nat) (v : Bool) (c : Ctx) : (setP n v c).icfg = c.icfg := by unfold setP; split <;> rfl
@[simp] theorem setP_scyc (n : Nat) (v : Bool) (c : Ctx) : (setP n v c).scyc = c.scyc := by unfold setP; split <;> rfl
@[simp] theorem setP_tcause (n : Nat) (v : Bool) (c : Ctx) : (setP n v c).tcause = c.tcause := by unfold setP; split <;> rfl
@[simp] theorem setP_tval (n : Nat) (v : Bool) (c : Ctx) : (setP n v c).tval = c.tval := by unfold setP; split <;> rfl
@[simp] theorem setP_epc (n : Nat) (v : Bool) (c : Ctx) : (setP n v c).epc = c.epc := by unfold setP; split <;> rfl
@[simp] theorem setP_hvec (n : Nat) (v : Bool) (c : Ctx) : (setP n v c).hvec = c.hvec := by unfold setP; split <;> rfl
@[simp] theorem setP_tstat (n : Nat) (v : Bool) (c : Ctx) : (setP n v c).tstat = c.tstat := by unfold setP; split <;> rfl
@[simp] theorem setP_tpbt (n : Nat) (v : Bool) (c : Ctx) : (setP n v c).tpbt = c.tpbt := by unfold setP; split <;> rfl
@[simp] theorem setP_tscr (n : Nat) (v : Bool) (c : Ctx) : (setP n v c).tscr = c.tscr := by unfold setP; split <;> rfl
@[simp] theorem setP_ehome (n : Nat) (v : Bool) (c : Ctx) : (setP n v c).ehome = c.ehome := by unfold setP; split <;> rfl
@[simp] theorem setP_reports (n : Nat) (v : Bool) (c : Ctx) : (setP n v c).reports = c.reports := by unfold setP; split <;> rfl
@[simp] theorem setP_deferred (n : Nat) (v : Bool) (c : Ctx) : (setP n v c).deferred = c.deferred := by unfold setP; split <;> rfl
@[simp] theorem setP_latch (n : Nat) (v : Bool) (c : Ctx) : (setP n v c).latch = c.latch := by unfold setP; split <;> rfl
@[simp] theorem setP_flights (n : Nat) (v : Bool) (c : Ctx) : (setP n v c).flights = c.flights := by unfold setP; split <;> rfl
@[simp] theorem setP_dec (n : Nat) (v : Bool) (c : Ctx) : (setP n v c).dec = c.dec := by unfold setP; split <;> rfl
@[simp] theorem setP_atts (n : Nat) (v : Bool) (c : Ctx) : (setP n v c).atts = c.atts := by unfold setP; split <;> rfl
@[simp] theorem setP_own (n : Nat) (v : Bool) (c : Ctx) : (setP n v c).own = c.own := by unfold setP; split <;> rfl
@[simp] theorem setP_seen (n : Nat) (v : Bool) (c : Ctx) : (setP n v c).seen = c.seen := by unfold setP; split <;> rfl
@[simp] theorem setP_ask (n : Nat) (v : Bool) (c : Ctx) : (setP n v c).ask = c.ask := by unfold setP; split <;> rfl
@[simp] theorem setP_drift (n : Nat) (v : Bool) (c : Ctx) : (setP n v c).drift = c.drift := by unfold setP; split <;> rfl
@[simp] theorem setP_trace (n : Nat) (v : Bool) (c : Ctx) : (setP n v c).trace = c.trace := by unfold setP; split <;> rfl
@[simp] theorem setP_measured (n : Nat) (v : Bool) (c : Ctx) : (setP n v c).measured = c.measured := by unfold setP; split <;> rfl
@[simp] theorem setP_firstCyc (n : Nat) (v : Bool) (c : Ctx) : (setP n v c).firstCyc = c.firstCyc := by unfold setP; split <;> rfl
@[simp] theorem setP_stall (n : Nat) (v : Bool) (c : Ctx) : (setP n v c).stall = c.stall := by unfold setP; split <;> rfl
@[simp] theorem setP_log0 (n : Nat) (v : Bool) (c : Ctx) : (setP n v c).log0 = c.log0 := by unfold setP; split <;> rfl
@[simp] theorem setP_bkps (n : Nat) (v : Bool) (c : Ctx) : (setP n v c).bkps = c.bkps := by unfold setP; split <;> rfl
@[simp] theorem setP_bkpa (n : Nat) (v : Bool) (c : Ctx) : (setP n v c).bkpa = c.bkpa := by unfold setP; split <;> rfl
@[simp] theorem setP_wpinfo (n : Nat) (v : Bool) (c : Ctx) : (setP n v c).wpinfo = c.wpinfo := by unfold setP; split <;> rfl
@[simp] theorem setP_skipWatch (n : Nat) (v : Bool) (c : Ctx) : (setP n v c).skipWatch = c.skipWatch := by unfold setP; split <;> rfl
@[simp] theorem setP_skipBreak (n : Nat) (v : Bool) (c : Ctx) : (setP n v c).skipBreak = c.skipBreak := by unfold setP; split <;> rfl

/-! ### setK -/

@[simp] theorem setK_life (n : Nat) (m v : Word) (c : Ctx) : (setK n m v c).life = c.life := by unfold setK; split <;> rfl
@[simp] theorem setK_swapped (n : Nat) (m v : Word) (c : Ctx) : (setK n m v c).swapped = c.swapped := by unfold setK; split <;> rfl
@[simp] theorem setK_part (n : Nat) (m v : Word) (c : Ctx) : (setK n m v c).part = c.part := by unfold setK; split <;> rfl
@[simp] theorem setK_pasid (n : Nat) (m v : Word) (c : Ctx) : (setK n m v c).pasid = c.pasid := by unfold setK; split <;> rfl
@[simp] theorem setK_kernel (n : Nat) (m v : Word) (c : Ctx) : (setK n m v c).kernel = c.kernel := by unfold setK; split <;> rfl
@[simp] theorem setK_fresh (n : Nat) (m v : Word) (c : Ctx) : (setK n m v c).fresh = c.fresh := by unfold setK; split <;> rfl
@[simp] theorem setK_ordinal (n : Nat) (m v : Word) (c : Ctx) : (setK n m v c).ordinal = c.ordinal := by unfold setK; split <;> rfl
@[simp] theorem setK_epoch (n : Nat) (m v : Word) (c : Ctx) : (setK n m v c).epoch = c.epoch := by unfold setK; split <;> rfl
@[simp] theorem setK_index (n : Nat) (m v : Word) (c : Ctx) : (setK n m v c).index = c.index := by unfold setK; split <;> rfl
@[simp] theorem setK_seq (n : Nat) (m v : Word) (c : Ctx) : (setK n m v c).seq = c.seq := by unfold setK; split <;> rfl
@[simp] theorem setK_aside (n : Nat) (m v : Word) (c : Ctx) : (setK n m v c).aside = c.aside := by unfold setK; split <;> rfl
@[simp] theorem setK_g (n : Nat) (m v : Word) (c : Ctx) : (setK n m v c).g = c.g := by unfold setK; split <;> rfl
@[simp] theorem setK_p (n : Nat) (m v : Word) (c : Ctx) : (setK n m v c).p = c.p := by unfold setK; split <;> rfl
@[simp] theorem setK_h (n : Nat) (m v : Word) (c : Ctx) : (setK n m v c).h = c.h := by unfold setK; split <;> rfl
@[simp] theorem setK_bt (n : Nat) (m v : Word) (c : Ctx) : (setK n m v c).bt = c.bt := by unfold setK; split <;> rfl
@[simp] theorem setK_m (n : Nat) (m v : Word) (c : Ctx) : (setK n m v c).m = c.m := by unfold setK; split <;> rfl
@[simp] theorem setK_tiles (n : Nat) (m v : Word) (c : Ctx) : (setK n m v c).tiles = c.tiles := by unfold setK; split <;> rfl
@[simp] theorem setK_fslots (n : Nat) (m v : Word) (c : Ctx) : (setK n m v c).fslots = c.fslots := by unfold setK; split <;> rfl
@[simp] theorem setK_rba (n : Nat) (m v : Word) (c : Ctx) : (setK n m v c).rba = c.rba := by unfold setK; split <;> rfl
@[simp] theorem setK_rbb (n : Nat) (m v : Word) (c : Ctx) : (setK n m v c).rbb = c.rbb := by unfold setK; split <;> rfl
@[simp] theorem setK_rwin (n : Nat) (m v : Word) (c : Ctx) : (setK n m v c).rwin = c.rwin := by unfold setK; split <;> rfl
@[simp] theorem setK_fflags (n : Nat) (m v : Word) (c : Ctx) : (setK n m v c).fflags = c.fflags := by unfold setK; split <;> rfl
@[simp] theorem setK_fmode (n : Nat) (m v : Word) (c : Ctx) : (setK n m v c).fmode = c.fmode := by unfold setK; split <;> rfl
@[simp] theorem setK_srng (n : Nat) (m v : Word) (c : Ctx) : (setK n m v c).srng = c.srng := by unfold setK; split <;> rfl
@[simp] theorem setK_icfg (n : Nat) (m v : Word) (c : Ctx) : (setK n m v c).icfg = c.icfg := by unfold setK; split <;> rfl
@[simp] theorem setK_scyc (n : Nat) (m v : Word) (c : Ctx) : (setK n m v c).scyc = c.scyc := by unfold setK; split <;> rfl
@[simp] theorem setK_tcause (n : Nat) (m v : Word) (c : Ctx) : (setK n m v c).tcause = c.tcause := by unfold setK; split <;> rfl
@[simp] theorem setK_tval (n : Nat) (m v : Word) (c : Ctx) : (setK n m v c).tval = c.tval := by unfold setK; split <;> rfl
@[simp] theorem setK_epc (n : Nat) (m v : Word) (c : Ctx) : (setK n m v c).epc = c.epc := by unfold setK; split <;> rfl
@[simp] theorem setK_hvec (n : Nat) (m v : Word) (c : Ctx) : (setK n m v c).hvec = c.hvec := by unfold setK; split <;> rfl
@[simp] theorem setK_tstat (n : Nat) (m v : Word) (c : Ctx) : (setK n m v c).tstat = c.tstat := by unfold setK; split <;> rfl
@[simp] theorem setK_tpbt (n : Nat) (m v : Word) (c : Ctx) : (setK n m v c).tpbt = c.tpbt := by unfold setK; split <;> rfl
@[simp] theorem setK_tscr (n : Nat) (m v : Word) (c : Ctx) : (setK n m v c).tscr = c.tscr := by unfold setK; split <;> rfl
@[simp] theorem setK_ehome (n : Nat) (m v : Word) (c : Ctx) : (setK n m v c).ehome = c.ehome := by unfold setK; split <;> rfl
@[simp] theorem setK_reports (n : Nat) (m v : Word) (c : Ctx) : (setK n m v c).reports = c.reports := by unfold setK; split <;> rfl
@[simp] theorem setK_deferred (n : Nat) (m v : Word) (c : Ctx) : (setK n m v c).deferred = c.deferred := by unfold setK; split <;> rfl
@[simp] theorem setK_latch (n : Nat) (m v : Word) (c : Ctx) : (setK n m v c).latch = c.latch := by unfold setK; split <;> rfl
@[simp] theorem setK_flights (n : Nat) (m v : Word) (c : Ctx) : (setK n m v c).flights = c.flights := by unfold setK; split <;> rfl
@[simp] theorem setK_dec (n : Nat) (m v : Word) (c : Ctx) : (setK n m v c).dec = c.dec := by unfold setK; split <;> rfl
@[simp] theorem setK_atts (n : Nat) (m v : Word) (c : Ctx) : (setK n m v c).atts = c.atts := by unfold setK; split <;> rfl
@[simp] theorem setK_own (n : Nat) (m v : Word) (c : Ctx) : (setK n m v c).own = c.own := by unfold setK; split <;> rfl
@[simp] theorem setK_seen (n : Nat) (m v : Word) (c : Ctx) : (setK n m v c).seen = c.seen := by unfold setK; split <;> rfl
@[simp] theorem setK_ask (n : Nat) (m v : Word) (c : Ctx) : (setK n m v c).ask = c.ask := by unfold setK; split <;> rfl
@[simp] theorem setK_drift (n : Nat) (m v : Word) (c : Ctx) : (setK n m v c).drift = c.drift := by unfold setK; split <;> rfl
@[simp] theorem setK_trace (n : Nat) (m v : Word) (c : Ctx) : (setK n m v c).trace = c.trace := by unfold setK; split <;> rfl
@[simp] theorem setK_measured (n : Nat) (m v : Word) (c : Ctx) : (setK n m v c).measured = c.measured := by unfold setK; split <;> rfl
@[simp] theorem setK_firstCyc (n : Nat) (m v : Word) (c : Ctx) : (setK n m v c).firstCyc = c.firstCyc := by unfold setK; split <;> rfl
@[simp] theorem setK_stall (n : Nat) (m v : Word) (c : Ctx) : (setK n m v c).stall = c.stall := by unfold setK; split <;> rfl
@[simp] theorem setK_log0 (n : Nat) (m v : Word) (c : Ctx) : (setK n m v c).log0 = c.log0 := by unfold setK; split <;> rfl
@[simp] theorem setK_bkps (n : Nat) (m v : Word) (c : Ctx) : (setK n m v c).bkps = c.bkps := by unfold setK; split <;> rfl
@[simp] theorem setK_bkpa (n : Nat) (m v : Word) (c : Ctx) : (setK n m v c).bkpa = c.bkpa := by unfold setK; split <;> rfl
@[simp] theorem setK_wpinfo (n : Nat) (m v : Word) (c : Ctx) : (setK n m v c).wpinfo = c.wpinfo := by unfold setK; split <;> rfl
@[simp] theorem setK_skipWatch (n : Nat) (m v : Word) (c : Ctx) : (setK n m v c).skipWatch = c.skipWatch := by unfold setK; split <;> rfl
@[simp] theorem setK_skipBreak (n : Nat) (m v : Word) (c : Ctx) : (setK n m v c).skipBreak = c.skipBreak := by unfold setK; split <;> rfl

/-! ### setH -/

@[simp] theorem setH_life (n : Nat) (v : Word128) (c : Ctx) : (setH n v c).life = c.life := rfl
@[simp] theorem setH_swapped (n : Nat) (v : Word128) (c : Ctx) : (setH n v c).swapped = c.swapped := rfl
@[simp] theorem setH_part (n : Nat) (v : Word128) (c : Ctx) : (setH n v c).part = c.part := rfl
@[simp] theorem setH_pasid (n : Nat) (v : Word128) (c : Ctx) : (setH n v c).pasid = c.pasid := rfl
@[simp] theorem setH_kernel (n : Nat) (v : Word128) (c : Ctx) : (setH n v c).kernel = c.kernel := rfl
@[simp] theorem setH_fresh (n : Nat) (v : Word128) (c : Ctx) : (setH n v c).fresh = c.fresh := rfl
@[simp] theorem setH_ordinal (n : Nat) (v : Word128) (c : Ctx) : (setH n v c).ordinal = c.ordinal := rfl
@[simp] theorem setH_epoch (n : Nat) (v : Word128) (c : Ctx) : (setH n v c).epoch = c.epoch := rfl
@[simp] theorem setH_index (n : Nat) (v : Word128) (c : Ctx) : (setH n v c).index = c.index := rfl
@[simp] theorem setH_seq (n : Nat) (v : Word128) (c : Ctx) : (setH n v c).seq = c.seq := rfl
@[simp] theorem setH_aside (n : Nat) (v : Word128) (c : Ctx) : (setH n v c).aside = c.aside := rfl
@[simp] theorem setH_g (n : Nat) (v : Word128) (c : Ctx) : (setH n v c).g = c.g := rfl
@[simp] theorem setH_p (n : Nat) (v : Word128) (c : Ctx) : (setH n v c).p = c.p := rfl
@[simp] theorem setH_k (n : Nat) (v : Word128) (c : Ctx) : (setH n v c).k = c.k := rfl
@[simp] theorem setH_bt (n : Nat) (v : Word128) (c : Ctx) : (setH n v c).bt = c.bt := rfl
@[simp] theorem setH_m (n : Nat) (v : Word128) (c : Ctx) : (setH n v c).m = c.m := rfl
@[simp] theorem setH_tiles (n : Nat) (v : Word128) (c : Ctx) : (setH n v c).tiles = c.tiles := rfl
@[simp] theorem setH_fslots (n : Nat) (v : Word128) (c : Ctx) : (setH n v c).fslots = c.fslots := rfl
@[simp] theorem setH_rba (n : Nat) (v : Word128) (c : Ctx) : (setH n v c).rba = c.rba := rfl
@[simp] theorem setH_rbb (n : Nat) (v : Word128) (c : Ctx) : (setH n v c).rbb = c.rbb := rfl
@[simp] theorem setH_rwin (n : Nat) (v : Word128) (c : Ctx) : (setH n v c).rwin = c.rwin := rfl
@[simp] theorem setH_fflags (n : Nat) (v : Word128) (c : Ctx) : (setH n v c).fflags = c.fflags := rfl
@[simp] theorem setH_fmode (n : Nat) (v : Word128) (c : Ctx) : (setH n v c).fmode = c.fmode := rfl
@[simp] theorem setH_srng (n : Nat) (v : Word128) (c : Ctx) : (setH n v c).srng = c.srng := rfl
@[simp] theorem setH_icfg (n : Nat) (v : Word128) (c : Ctx) : (setH n v c).icfg = c.icfg := rfl
@[simp] theorem setH_scyc (n : Nat) (v : Word128) (c : Ctx) : (setH n v c).scyc = c.scyc := rfl
@[simp] theorem setH_tcause (n : Nat) (v : Word128) (c : Ctx) : (setH n v c).tcause = c.tcause := rfl
@[simp] theorem setH_tval (n : Nat) (v : Word128) (c : Ctx) : (setH n v c).tval = c.tval := rfl
@[simp] theorem setH_epc (n : Nat) (v : Word128) (c : Ctx) : (setH n v c).epc = c.epc := rfl
@[simp] theorem setH_hvec (n : Nat) (v : Word128) (c : Ctx) : (setH n v c).hvec = c.hvec := rfl
@[simp] theorem setH_tstat (n : Nat) (v : Word128) (c : Ctx) : (setH n v c).tstat = c.tstat := rfl
@[simp] theorem setH_tpbt (n : Nat) (v : Word128) (c : Ctx) : (setH n v c).tpbt = c.tpbt := rfl
@[simp] theorem setH_tscr (n : Nat) (v : Word128) (c : Ctx) : (setH n v c).tscr = c.tscr := rfl
@[simp] theorem setH_ehome (n : Nat) (v : Word128) (c : Ctx) : (setH n v c).ehome = c.ehome := rfl
@[simp] theorem setH_reports (n : Nat) (v : Word128) (c : Ctx) : (setH n v c).reports = c.reports := rfl
@[simp] theorem setH_deferred (n : Nat) (v : Word128) (c : Ctx) : (setH n v c).deferred = c.deferred := rfl
@[simp] theorem setH_latch (n : Nat) (v : Word128) (c : Ctx) : (setH n v c).latch = c.latch := rfl
@[simp] theorem setH_flights (n : Nat) (v : Word128) (c : Ctx) : (setH n v c).flights = c.flights := rfl
@[simp] theorem setH_dec (n : Nat) (v : Word128) (c : Ctx) : (setH n v c).dec = c.dec := rfl
@[simp] theorem setH_atts (n : Nat) (v : Word128) (c : Ctx) : (setH n v c).atts = c.atts := rfl
@[simp] theorem setH_own (n : Nat) (v : Word128) (c : Ctx) : (setH n v c).own = c.own := rfl
@[simp] theorem setH_seen (n : Nat) (v : Word128) (c : Ctx) : (setH n v c).seen = c.seen := rfl
@[simp] theorem setH_ask (n : Nat) (v : Word128) (c : Ctx) : (setH n v c).ask = c.ask := rfl
@[simp] theorem setH_drift (n : Nat) (v : Word128) (c : Ctx) : (setH n v c).drift = c.drift := rfl
@[simp] theorem setH_trace (n : Nat) (v : Word128) (c : Ctx) : (setH n v c).trace = c.trace := rfl
@[simp] theorem setH_measured (n : Nat) (v : Word128) (c : Ctx) : (setH n v c).measured = c.measured := rfl
@[simp] theorem setH_firstCyc (n : Nat) (v : Word128) (c : Ctx) : (setH n v c).firstCyc = c.firstCyc := rfl
@[simp] theorem setH_stall (n : Nat) (v : Word128) (c : Ctx) : (setH n v c).stall = c.stall := rfl
@[simp] theorem setH_log0 (n : Nat) (v : Word128) (c : Ctx) : (setH n v c).log0 = c.log0 := rfl
@[simp] theorem setH_bkps (n : Nat) (v : Word128) (c : Ctx) : (setH n v c).bkps = c.bkps := rfl
@[simp] theorem setH_bkpa (n : Nat) (v : Word128) (c : Ctx) : (setH n v c).bkpa = c.bkpa := rfl
@[simp] theorem setH_wpinfo (n : Nat) (v : Word128) (c : Ctx) : (setH n v c).wpinfo = c.wpinfo := rfl
@[simp] theorem setH_skipWatch (n : Nat) (v : Word128) (c : Ctx) : (setH n v c).skipWatch = c.skipWatch := rfl
@[simp] theorem setH_skipBreak (n : Nat) (v : Word128) (c : Ctx) : (setH n v c).skipBreak = c.skipBreak := rfl
@[simp] theorem setH_traces (n : Nat) (v : Word128) (c : Ctx) : (setH n v c).traces = c.traces := rfl
@[simp] theorem setH_starting (n : Nat) (v : Word128) (c : Ctx) : (setH n v c).starting = c.starting := rfl
@[simp] theorem setH_strand (n : Nat) (v : Word128) (c : Ctx) : (setH n v c).strand = c.strand := rfl
@[simp] theorem setH_ticked (n : Nat) (v : Word128) (c : Ctx) : (setH n v c).ticked = c.ticked := rfl

/-! ### setLanes -/

@[simp] theorem setLanes_life (o : MOp) (m : Word) (v : Nat → Unit32) (c : Ctx) : (setLanes o m v c).life = c.life := rfl
@[simp] theorem setLanes_swapped (o : MOp) (m : Word) (v : Nat → Unit32) (c : Ctx) : (setLanes o m v c).swapped = c.swapped := rfl
@[simp] theorem setLanes_part (o : MOp) (m : Word) (v : Nat → Unit32) (c : Ctx) : (setLanes o m v c).part = c.part := rfl
@[simp] theorem setLanes_pasid (o : MOp) (m : Word) (v : Nat → Unit32) (c : Ctx) : (setLanes o m v c).pasid = c.pasid := rfl
@[simp] theorem setLanes_kernel (o : MOp) (m : Word) (v : Nat → Unit32) (c : Ctx) : (setLanes o m v c).kernel = c.kernel := rfl
@[simp] theorem setLanes_fresh (o : MOp) (m : Word) (v : Nat → Unit32) (c : Ctx) : (setLanes o m v c).fresh = c.fresh := rfl
@[simp] theorem setLanes_ordinal (o : MOp) (m : Word) (v : Nat → Unit32) (c : Ctx) : (setLanes o m v c).ordinal = c.ordinal := rfl
@[simp] theorem setLanes_epoch (o : MOp) (m : Word) (v : Nat → Unit32) (c : Ctx) : (setLanes o m v c).epoch = c.epoch := rfl
@[simp] theorem setLanes_index (o : MOp) (m : Word) (v : Nat → Unit32) (c : Ctx) : (setLanes o m v c).index = c.index := rfl
@[simp] theorem setLanes_seq (o : MOp) (m : Word) (v : Nat → Unit32) (c : Ctx) : (setLanes o m v c).seq = c.seq := rfl
@[simp] theorem setLanes_aside (o : MOp) (m : Word) (v : Nat → Unit32) (c : Ctx) : (setLanes o m v c).aside = c.aside := rfl
@[simp] theorem setLanes_g (o : MOp) (m : Word) (v : Nat → Unit32) (c : Ctx) : (setLanes o m v c).g = c.g := rfl
@[simp] theorem setLanes_p (o : MOp) (m : Word) (v : Nat → Unit32) (c : Ctx) : (setLanes o m v c).p = c.p := rfl
@[simp] theorem setLanes_k (o : MOp) (m : Word) (v : Nat → Unit32) (c : Ctx) : (setLanes o m v c).k = c.k := rfl
@[simp] theorem setLanes_h (o : MOp) (m : Word) (v : Nat → Unit32) (c : Ctx) : (setLanes o m v c).h = c.h := rfl
@[simp] theorem setLanes_bt (o : MOp) (m : Word) (v : Nat → Unit32) (c : Ctx) : (setLanes o m v c).bt = c.bt := rfl
@[simp] theorem setLanes_tiles (o : MOp) (m : Word) (v : Nat → Unit32) (c : Ctx) : (setLanes o m v c).tiles = c.tiles := rfl
@[simp] theorem setLanes_fslots (o : MOp) (m : Word) (v : Nat → Unit32) (c : Ctx) : (setLanes o m v c).fslots = c.fslots := rfl
@[simp] theorem setLanes_rba (o : MOp) (m : Word) (v : Nat → Unit32) (c : Ctx) : (setLanes o m v c).rba = c.rba := rfl
@[simp] theorem setLanes_rbb (o : MOp) (m : Word) (v : Nat → Unit32) (c : Ctx) : (setLanes o m v c).rbb = c.rbb := rfl
@[simp] theorem setLanes_rwin (o : MOp) (m : Word) (v : Nat → Unit32) (c : Ctx) : (setLanes o m v c).rwin = c.rwin := rfl
@[simp] theorem setLanes_fflags (o : MOp) (m : Word) (v : Nat → Unit32) (c : Ctx) : (setLanes o m v c).fflags = c.fflags := rfl
@[simp] theorem setLanes_fmode (o : MOp) (m : Word) (v : Nat → Unit32) (c : Ctx) : (setLanes o m v c).fmode = c.fmode := rfl
@[simp] theorem setLanes_srng (o : MOp) (m : Word) (v : Nat → Unit32) (c : Ctx) : (setLanes o m v c).srng = c.srng := rfl
@[simp] theorem setLanes_icfg (o : MOp) (m : Word) (v : Nat → Unit32) (c : Ctx) : (setLanes o m v c).icfg = c.icfg := rfl
@[simp] theorem setLanes_scyc (o : MOp) (m : Word) (v : Nat → Unit32) (c : Ctx) : (setLanes o m v c).scyc = c.scyc := rfl
@[simp] theorem setLanes_tcause (o : MOp) (m : Word) (v : Nat → Unit32) (c : Ctx) : (setLanes o m v c).tcause = c.tcause := rfl
@[simp] theorem setLanes_tval (o : MOp) (m : Word) (v : Nat → Unit32) (c : Ctx) : (setLanes o m v c).tval = c.tval := rfl
@[simp] theorem setLanes_epc (o : MOp) (m : Word) (v : Nat → Unit32) (c : Ctx) : (setLanes o m v c).epc = c.epc := rfl
@[simp] theorem setLanes_hvec (o : MOp) (m : Word) (v : Nat → Unit32) (c : Ctx) : (setLanes o m v c).hvec = c.hvec := rfl
@[simp] theorem setLanes_tstat (o : MOp) (m : Word) (v : Nat → Unit32) (c : Ctx) : (setLanes o m v c).tstat = c.tstat := rfl
@[simp] theorem setLanes_tpbt (o : MOp) (m : Word) (v : Nat → Unit32) (c : Ctx) : (setLanes o m v c).tpbt = c.tpbt := rfl
@[simp] theorem setLanes_tscr (o : MOp) (m : Word) (v : Nat → Unit32) (c : Ctx) : (setLanes o m v c).tscr = c.tscr := rfl
@[simp] theorem setLanes_ehome (o : MOp) (m : Word) (v : Nat → Unit32) (c : Ctx) : (setLanes o m v c).ehome = c.ehome := rfl
@[simp] theorem setLanes_reports (o : MOp) (m : Word) (v : Nat → Unit32) (c : Ctx) : (setLanes o m v c).reports = c.reports := rfl
@[simp] theorem setLanes_deferred (o : MOp) (m : Word) (v : Nat → Unit32) (c : Ctx) : (setLanes o m v c).deferred = c.deferred := rfl
@[simp] theorem setLanes_latch (o : MOp) (m : Word) (v : Nat → Unit32) (c : Ctx) : (setLanes o m v c).latch = c.latch := rfl
@[simp] theorem setLanes_flights (o : MOp) (m : Word) (v : Nat → Unit32) (c : Ctx) : (setLanes o m v c).flights = c.flights := rfl
@[simp] theorem setLanes_dec (o : MOp) (m : Word) (v : Nat → Unit32) (c : Ctx) : (setLanes o m v c).dec = c.dec := rfl
@[simp] theorem setLanes_atts (o : MOp) (m : Word) (v : Nat → Unit32) (c : Ctx) : (setLanes o m v c).atts = c.atts := rfl
@[simp] theorem setLanes_own (o : MOp) (m : Word) (v : Nat → Unit32) (c : Ctx) : (setLanes o m v c).own = c.own := rfl
@[simp] theorem setLanes_seen (o : MOp) (m : Word) (v : Nat → Unit32) (c : Ctx) : (setLanes o m v c).seen = c.seen := rfl
@[simp] theorem setLanes_ask (o : MOp) (m : Word) (v : Nat → Unit32) (c : Ctx) : (setLanes o m v c).ask = c.ask := rfl
@[simp] theorem setLanes_drift (o : MOp) (m : Word) (v : Nat → Unit32) (c : Ctx) : (setLanes o m v c).drift = c.drift := rfl
@[simp] theorem setLanes_trace (o : MOp) (m : Word) (v : Nat → Unit32) (c : Ctx) : (setLanes o m v c).trace = c.trace := rfl
@[simp] theorem setLanes_measured (o : MOp) (m : Word) (v : Nat → Unit32) (c : Ctx) : (setLanes o m v c).measured = c.measured := rfl
@[simp] theorem setLanes_firstCyc (o : MOp) (m : Word) (v : Nat → Unit32) (c : Ctx) : (setLanes o m v c).firstCyc = c.firstCyc := rfl
@[simp] theorem setLanes_stall (o : MOp) (m : Word) (v : Nat → Unit32) (c : Ctx) : (setLanes o m v c).stall = c.stall := rfl
@[simp] theorem setLanes_log0 (o : MOp) (m : Word) (v : Nat → Unit32) (c : Ctx) : (setLanes o m v c).log0 = c.log0 := rfl
@[simp] theorem setLanes_bkps (o : MOp) (m : Word) (v : Nat → Unit32) (c : Ctx) : (setLanes o m v c).bkps = c.bkps := rfl
@[simp] theorem setLanes_bkpa (o : MOp) (m : Word) (v : Nat → Unit32) (c : Ctx) : (setLanes o m v c).bkpa = c.bkpa := rfl
@[simp] theorem setLanes_wpinfo (o : MOp) (m : Word) (v : Nat → Unit32) (c : Ctx) : (setLanes o m v c).wpinfo = c.wpinfo := rfl
@[simp] theorem setLanes_skipWatch (o : MOp) (m : Word) (v : Nat → Unit32) (c : Ctx) : (setLanes o m v c).skipWatch = c.skipWatch := rfl
@[simp] theorem setLanes_skipBreak (o : MOp) (m : Word) (v : Nat → Unit32) (c : Ctx) : (setLanes o m v c).skipBreak = c.skipBreak := rfl
@[simp] theorem setLanes_traces (o : MOp) (m : Word) (v : Nat → Unit32) (c : Ctx) : (setLanes o m v c).traces = c.traces := rfl
@[simp] theorem setLanes_starting (o : MOp) (m : Word) (v : Nat → Unit32) (c : Ctx) : (setLanes o m v c).starting = c.starting := rfl
@[simp] theorem setLanes_strand (o : MOp) (m : Word) (v : Nat → Unit32) (c : Ctx) : (setLanes o m v c).strand = c.strand := rfl
@[simp] theorem setLanes_ticked (o : MOp) (m : Word) (v : Nat → Unit32) (c : Ctx) : (setLanes o m v c).ticked = c.ticked := rfl

/-! ### setFlags -/

@[simp] theorem setFlags_life (g n : Nat) (c : Ctx) : (setFlags g n c).life = c.life := rfl
@[simp] theorem setFlags_swapped (g n : Nat) (c : Ctx) : (setFlags g n c).swapped = c.swapped := rfl
@[simp] theorem setFlags_part (g n : Nat) (c : Ctx) : (setFlags g n c).part = c.part := rfl
@[simp] theorem setFlags_pasid (g n : Nat) (c : Ctx) : (setFlags g n c).pasid = c.pasid := rfl
@[simp] theorem setFlags_kernel (g n : Nat) (c : Ctx) : (setFlags g n c).kernel = c.kernel := rfl
@[simp] theorem setFlags_fresh (g n : Nat) (c : Ctx) : (setFlags g n c).fresh = c.fresh := rfl
@[simp] theorem setFlags_ordinal (g n : Nat) (c : Ctx) : (setFlags g n c).ordinal = c.ordinal := rfl
@[simp] theorem setFlags_epoch (g n : Nat) (c : Ctx) : (setFlags g n c).epoch = c.epoch := rfl
@[simp] theorem setFlags_index (g n : Nat) (c : Ctx) : (setFlags g n c).index = c.index := rfl
@[simp] theorem setFlags_seq (g n : Nat) (c : Ctx) : (setFlags g n c).seq = c.seq := rfl
@[simp] theorem setFlags_aside (g n : Nat) (c : Ctx) : (setFlags g n c).aside = c.aside := rfl
@[simp] theorem setFlags_g (g n : Nat) (c : Ctx) : (setFlags g n c).g = c.g := rfl
@[simp] theorem setFlags_p (g n : Nat) (c : Ctx) : (setFlags g n c).p = c.p := rfl
@[simp] theorem setFlags_k (g n : Nat) (c : Ctx) : (setFlags g n c).k = c.k := rfl
@[simp] theorem setFlags_h (g n : Nat) (c : Ctx) : (setFlags g n c).h = c.h := rfl
@[simp] theorem setFlags_bt (g n : Nat) (c : Ctx) : (setFlags g n c).bt = c.bt := rfl
@[simp] theorem setFlags_m (g n : Nat) (c : Ctx) : (setFlags g n c).m = c.m := rfl
@[simp] theorem setFlags_tiles (g n : Nat) (c : Ctx) : (setFlags g n c).tiles = c.tiles := rfl
@[simp] theorem setFlags_fslots (g n : Nat) (c : Ctx) : (setFlags g n c).fslots = c.fslots := rfl
@[simp] theorem setFlags_rba (g n : Nat) (c : Ctx) : (setFlags g n c).rba = c.rba := rfl
@[simp] theorem setFlags_rbb (g n : Nat) (c : Ctx) : (setFlags g n c).rbb = c.rbb := rfl
@[simp] theorem setFlags_rwin (g n : Nat) (c : Ctx) : (setFlags g n c).rwin = c.rwin := rfl
@[simp] theorem setFlags_fmode (g n : Nat) (c : Ctx) : (setFlags g n c).fmode = c.fmode := rfl
@[simp] theorem setFlags_srng (g n : Nat) (c : Ctx) : (setFlags g n c).srng = c.srng := rfl
@[simp] theorem setFlags_icfg (g n : Nat) (c : Ctx) : (setFlags g n c).icfg = c.icfg := rfl
@[simp] theorem setFlags_scyc (g n : Nat) (c : Ctx) : (setFlags g n c).scyc = c.scyc := rfl
@[simp] theorem setFlags_tcause (g n : Nat) (c : Ctx) : (setFlags g n c).tcause = c.tcause := rfl
@[simp] theorem setFlags_tval (g n : Nat) (c : Ctx) : (setFlags g n c).tval = c.tval := rfl
@[simp] theorem setFlags_epc (g n : Nat) (c : Ctx) : (setFlags g n c).epc = c.epc := rfl
@[simp] theorem setFlags_hvec (g n : Nat) (c : Ctx) : (setFlags g n c).hvec = c.hvec := rfl
@[simp] theorem setFlags_tstat (g n : Nat) (c : Ctx) : (setFlags g n c).tstat = c.tstat := rfl
@[simp] theorem setFlags_tpbt (g n : Nat) (c : Ctx) : (setFlags g n c).tpbt = c.tpbt := rfl
@[simp] theorem setFlags_tscr (g n : Nat) (c : Ctx) : (setFlags g n c).tscr = c.tscr := rfl
@[simp] theorem setFlags_ehome (g n : Nat) (c : Ctx) : (setFlags g n c).ehome = c.ehome := rfl
@[simp] theorem setFlags_reports (g n : Nat) (c : Ctx) : (setFlags g n c).reports = c.reports := rfl
@[simp] theorem setFlags_deferred (g n : Nat) (c : Ctx) : (setFlags g n c).deferred = c.deferred := rfl
@[simp] theorem setFlags_latch (g n : Nat) (c : Ctx) : (setFlags g n c).latch = c.latch := rfl
@[simp] theorem setFlags_flights (g n : Nat) (c : Ctx) : (setFlags g n c).flights = c.flights := rfl
@[simp] theorem setFlags_dec (g n : Nat) (c : Ctx) : (setFlags g n c).dec = c.dec := rfl
@[simp] theorem setFlags_atts (g n : Nat) (c : Ctx) : (setFlags g n c).atts = c.atts := rfl
@[simp] theorem setFlags_own (g n : Nat) (c : Ctx) : (setFlags g n c).own = c.own := rfl
@[simp] theorem setFlags_seen (g n : Nat) (c : Ctx) : (setFlags g n c).seen = c.seen := rfl
@[simp] theorem setFlags_ask (g n : Nat) (c : Ctx) : (setFlags g n c).ask = c.ask := rfl
@[simp] theorem setFlags_drift (g n : Nat) (c : Ctx) : (setFlags g n c).drift = c.drift := rfl
@[simp] theorem setFlags_trace (g n : Nat) (c : Ctx) : (setFlags g n c).trace = c.trace := rfl
@[simp] theorem setFlags_measured (g n : Nat) (c : Ctx) : (setFlags g n c).measured = c.measured := rfl
@[simp] theorem setFlags_firstCyc (g n : Nat) (c : Ctx) : (setFlags g n c).firstCyc = c.firstCyc := rfl
@[simp] theorem setFlags_stall (g n : Nat) (c : Ctx) : (setFlags g n c).stall = c.stall := rfl
@[simp] theorem setFlags_log0 (g n : Nat) (c : Ctx) : (setFlags g n c).log0 = c.log0 := rfl
@[simp] theorem setFlags_bkps (g n : Nat) (c : Ctx) : (setFlags g n c).bkps = c.bkps := rfl
@[simp] theorem setFlags_bkpa (g n : Nat) (c : Ctx) : (setFlags g n c).bkpa = c.bkpa := rfl
@[simp] theorem setFlags_wpinfo (g n : Nat) (c : Ctx) : (setFlags g n c).wpinfo = c.wpinfo := rfl
@[simp] theorem setFlags_skipWatch (g n : Nat) (c : Ctx) : (setFlags g n c).skipWatch = c.skipWatch := rfl
@[simp] theorem setFlags_skipBreak (g n : Nat) (c : Ctx) : (setFlags g n c).skipBreak = c.skipBreak := rfl
@[simp] theorem setFlags_traces (g n : Nat) (c : Ctx) : (setFlags g n c).traces = c.traces := rfl
@[simp] theorem setFlags_starting (g n : Nat) (c : Ctx) : (setFlags g n c).starting = c.starting := rfl
@[simp] theorem setFlags_strand (g n : Nat) (c : Ctx) : (setFlags g n c).strand = c.strand := rfl
@[simp] theorem setFlags_ticked (g n : Nat) (c : Ctx) : (setFlags g n c).ticked = c.ticked := rfl

/-! ### What a change of a register writes -/

theorem setG_reads (n : Nat) (v : Word) (c : Ctx) (h : n ≠ 0) : tgetD (setG n v c).g n 0 = v := by simp [setG, h]
theorem setP_reads (n : Nat) (v : Bool) (c : Ctx) (h : n ≠ 0) : tgetD (setP n v c).p n false = v := by simp [setP, h]
theorem setH_reads (n : Nat) (v : Word128) (c : Ctx) : tgetD (setH n v c).h n 0 = v := by simp [setH]
theorem setG_others (n m : Nat) (v : Word) (c : Ctx) (h : m ≠ n) : tgetD (setG n v c).g m 0 = tgetD c.g m 0 := by
  unfold setG; split
  · rfl
  · exact tgetD_tset_other c.g v 0 h

/-- A write to g0 is discarded (R139). -/
@[simp] theorem setG_zero (v : Word) (c : Ctx) : setG 0 v c = c := rfl
@[simp] theorem setG_traces (n : Nat) (v : Word) (c : Ctx) : (setG n v c).traces = c.traces := by unfold setG; split <;> rfl
@[simp] theorem setG_starting (n : Nat) (v : Word) (c : Ctx) : (setG n v c).starting = c.starting := by unfold setG; split <;> rfl
@[simp] theorem setG_strand (n : Nat) (v : Word) (c : Ctx) : (setG n v c).strand = c.strand := by unfold setG; split <;> rfl
@[simp] theorem setG_ticked (n : Nat) (v : Word) (c : Ctx) : (setG n v c).ticked = c.ticked := by unfold setG; split <;> rfl
@[simp] theorem setP_zero (v : Bool) (c : Ctx) : setP 0 v c = c := rfl
@[simp] theorem setP_traces (n : Nat) (v : Bool) (c : Ctx) : (setP n v c).traces = c.traces := by unfold setP; split <;> rfl
@[simp] theorem setP_starting (n : Nat) (v : Bool) (c : Ctx) : (setP n v c).starting = c.starting := by unfold setP; split <;> rfl
@[simp] theorem setP_strand (n : Nat) (v : Bool) (c : Ctx) : (setP n v c).strand = c.strand := by unfold setP; split <;> rfl
@[simp] theorem setP_ticked (n : Nat) (v : Bool) (c : Ctx) : (setP n v c).ticked = c.ticked := by unfold setP; split <;> rfl
@[simp] theorem setK_zero (m v : Word) (c : Ctx) : setK 0 m v c = c := rfl
@[simp] theorem setK_traces (n : Nat) (m v : Word) (c : Ctx) : (setK n m v c).traces = c.traces := by unfold setK; split <;> rfl
@[simp] theorem setK_starting (n : Nat) (m v : Word) (c : Ctx) : (setK n m v c).starting = c.starting := by unfold setK; split <;> rfl
@[simp] theorem setK_strand (n : Nat) (m v : Word) (c : Ctx) : (setK n m v c).strand = c.strand := by unfold setK; split <;> rfl
@[simp] theorem setK_ticked (n : Nat) (m v : Word) (c : Ctx) : (setK n m v c).ticked = c.ticked := by unfold setK; split <;> rfl
@[simp] theorem when_true (f : Ctx → Ctx) : when_ true f = f := rfl
@[simp] theorem when_false (f : Ctx → Ctx) : when_ false f = id := rfl

end Sys2Proof.Laws
end

