-- ==== Sys2Proof/Laws/Landing.lean ====
section
/-! SUPPORT. The shared operations in one lemma each: a store that lands in a scratchpad, and a fixed-latency result that is put in flight by a context
with nothing in flight and lands when it is due. -/
namespace Sys2Proof.Laws
open Sys2Proof.Machine

/-! ### Stores -/

/-- A store into a core's scratchpad keeps the canonical form. -/
theorem wf_spStore (c : Core) (bs : List (Nat × Byte)) (h : c.sp.wf = true) : (spStore c bs).sp.wf = true := by
  simp only [spStore]
  exact wf_foldl_poke bs c.sp h

/-- Bytes that land in a scratchpad are read back, the last of those for an address, and every other byte reads as before (R207). -/
theorem peek_landSp (s : State) (core bank a : Nat) (bs : List (Nat × Byte)) (h : (coreAt s core).sp.wf = true) :
    peek (coreAt (landSp s core bank bs) core).sp a =
      (((bs.filter (fun e => e.1 == a)).getLast?).map (fun e => e.2)).getD (peek (coreAt s core).sp a) := by
  simp only [landSp, coreAt_setCore_same, spStore]
  exact peek_foldl_poke bs (coreAt s core).sp a h

/-- A store keeps the canonical form of the scratchpad. -/
theorem wf_landSp (s : State) (core bank : Nat) (bs : List (Nat × Byte)) (h : (coreAt s core).sp.wf = true) :
    (coreAt (landSp s core bank bs) core).sp.wf = true := by
  simp only [landSp, coreAt_setCore_same, spStore]
  exact wf_foldl_poke bs (coreAt s core).sp h

/-- A store leaves the other cores alone. -/
theorem landSp_other (s : State) {c core : Nat} (bank : Nat) (bs : List (Nat × Byte)) (h : c ≠ core) : coreAt (landSp s core bank bs) c = coreAt s c :=
  coreAt_setCore_other s _ h

/-! ### A result in flight -/

/-- The acting context has one result in flight, `k` cycles old. -/
def inFlight (s : State) (f : Flight) (k : Nat) : State :=
  modMe { s with nextId := s.nextId + 1 } (fun x => { x with flights := [{ f with age := k }] })

/-- A fixed-latency result: its writes land together when it is due, and nothing of it is read on the way. -/
structure Plain (f : Flight) : Prop where
  age  : f.age = 0
  late : f.late = .none
  var  : f.var = false
  own  : f.buffered = false
  due  : ∀ e ∈ f.writes, e.1 = f.last

theorem setCtx_nextId_flights (s : State) (h : (me s).flights = []) :
    (me { s with nextId := s.nextId + 1 }).flights = [] := h

/-- Putting a result in flight, by a context with nothing in flight. -/
theorem push_inFlight (s : State) (f : Flight) (hq : Quiet s) (hf : f.age = 0) : push s f = inFlight s f 0 := by
  have h : (me s).flights = [] := hq.2 s.cur.bank hq.1
  have e : { f with age := 0 } = f := by rw [← hf]
  simp only [push, inFlight, e, modMe, setCtx_nextId_flights s h, List.nil_append]

/-- The flights of the core while the acting context has its one result in flight. -/
theorem flights_inFlight (s : State) (f : Flight) (k b : Nat) (hq : Quiet s) (hb : b < 3) :
    (ctxAt (inFlight s f k) s.cur.core b).flights = if b = s.cur.bank then [{ f with age := k }] else [] := by
  split
  · rename_i h
    subst h
    simp [inFlight, modMe, setMe]
  · rename_i h
    have := ctxAt_setCtx_bank { s with nextId := s.nextId + 1 } s.cur.core
      { me { s with nextId := s.nextId + 1 } with flights := [{ f with age := k }] } hb hq.1 h
    simp only [inFlight, modMe, setMe, this]
    exact hq.2 b hb

/-- The banks of the core with something in flight. -/
theorem busy_inFlight (s : State) (f : Flight) (k : Nat) (hq : Quiet s) :
    [0, 1, 2].filter (fun b => !(ctxAt (inFlight s f k) s.cur.core b).flights.isEmpty) = [s.cur.bank] := by
  have h0 := flights_inFlight s f k 0 hq (by omega)
  have h1 := flights_inFlight s f k 1 hq (by omega)
  have h2 := flights_inFlight s f k 2 hq (by omega)
  obtain ⟨hb, -⟩ := hq
  generalize s.cur.bank = n at *
  match n, hb with
  | 0, _ | 1, _ | 2, _ => simp [h0, h1, h2]

/-- The state in which the acting context has no result in flight and one more has been counted. -/
def counted (s : State) : State := { s with nextId := s.nextId + 1 }

theorem inFlight_eq (s : State) (f : Flight) (k : Nat) :
    inFlight s f k = modCtx (counted s) s.cur.core s.cur.bank (fun x => { x with flights := [{ f with age := k }] }) := rfl

/-- A context left with one result that is not read on the way: it goes when it has landed everything. -/
theorem close_one (s : State) (core bank n : Nat) (g : Flight) (u : Ctx → Ctx) (hn : n = g.id) (hg : g.late = .none)
    (hu : ∀ x, (u x).flights = [g]) :
    closeCycle (modCtx s core bank u) core bank [n] =
      modCtx s core bank (fun x => { u x with flights := if landed g then [] else [g] }) := by
  subst hn
  simp only [closeCycle, modCtx_modCtx]
  congr 1
  funext x
  by_cases h : landed g = true <;> simp [hu, beat, hg, h]

/-- A cycle of the core's pipelines in which the results of the acting bank advance: the result is one cycle older, and lands what is due then. -/
theorem tick_inFlight (s : State) (f : Flight) (k : Nat) (hq : Quiet s) (hp : Plain f) :
    tickCore (inFlight s f k) s.cur.core (fun b _ => b == s.cur.bank) =
      (let g : Flight := { f with age := k + 1 }
       let u := modCtx (inFlight s f k) s.cur.core s.cur.bank (fun x => { x with flights := [g] })
       closeCycle (landDue (landDue u s.cur.core s.cur.bank true g) s.cur.core s.cur.bank false g) s.cur.core s.cur.bank [f.id]) := by
  have hf := flights_inFlight s f k s.cur.bank hq hq.1
  simp only [if_true] at hf
  simp [tickCore, busy_inFlight s f k hq, hf, ageFlights, older, hp.var, landPhase]

/-- Nothing lands before its due cycle. -/
theorem landDue_early (u : State) (core bank : Nat) (first : Bool) (f : Flight) (k : Nat) (hp : Plain f) (hk : k < f.last) :
    landDue u core bank first { f with age := k } = u := by
  have h : f.writes.filter (fun e => e.1 == k && landsFirst e.2 == first) = [] := by
    rw [List.filter_eq_nil_iff]
    intro e he
    have := hp.due e he
    simp only [Bool.and_eq_true, beq_iff_eq, not_and]
    omega
  simp [landDue, hp.late, h]

/-- Before it is due a result only grows older. -/
theorem tick_waits (s : State) (f : Flight) (k : Nat) (hq : Quiet s) (hp : Plain f) (hk : k + 1 < f.last) :
    tickCore (inFlight s f k) s.cur.core (fun b _ => b == s.cur.bank) = inFlight s f (k + 1) := by
  rw [tick_inFlight s f k hq hp]
  simp only [landDue_early _ _ _ _ f (k + 1) hp hk]
  have hl : landed { f with age := k + 1 } = false := by simp [landed, hp.var]; omega
  rw [inFlight_eq, modCtx_modCtx]
  rw [close_one _ _ _ _ { f with age := k + 1 } _ rfl hp.late (fun _ => rfl), hl]
  rfl

/-- What the landings of a result leave: those that come first in a cycle, then the others. -/
def landAll (s : State) (core bank : Nat) (ws : List Write) : State :=
  let s := (ws.filter (fun w => landsFirst w)).foldl (fun s w => landWrite s core bank w) s
  (ws.filter (fun w => !landsFirst w)).foldl (fun s w => landWrite s core bank w) s

/-- A result that the landing buffer does not hold lands whole. -/
theorem keptWrite_own (f : Flight) (w : Write) (h : f.buffered = false) : keptWrite f w = some w := by
  cases w <;> simp [keptWrite, stillWrites, h]

theorem landDue_due (u : State) (core bank : Nat) (first : Bool) (f : Flight) (hp : Plain f) :
    landDue u core bank first { f with age := f.last } =
      ((f.writes.map (fun e => e.2)).filter (fun w => landsFirst w == first)).foldl (fun s w => landWrite s core bank w) u := by
  have h : f.writes.filter (fun e => e.1 == f.last && landsFirst e.2 == first) = f.writes.filter (fun e => landsFirst e.2 == first) := by
    apply List.filter_congr
    intro e he
    simp [hp.due e he]
  simp [landDue, hp.late, h, keptWrite_own, hp.own, List.foldl_map, List.filter_map, Function.comp_def]

/-- In its due cycle a result lands, and nothing of the acting context is in flight any more. -/
theorem tick_lands (s : State) (f : Flight) (k : Nat) (hq : Quiet s) (hp : Plain f) (hk : k + 1 = f.last) :
    tickCore (inFlight s f k) s.cur.core (fun b _ => b == s.cur.bank) =
      closeCycle (landAll (inFlight s f f.last) s.cur.core s.cur.bank (f.writes.map (fun e => e.2))) s.cur.core s.cur.bank [f.id] := by
  rw [tick_inFlight s f k hq hp]
  simp only [hk, landDue_due _ _ _ _ f hp]
  rw [inFlight_eq, modCtx_modCtx]
  simp [landAll, inFlight_eq]

/-- After `k` cycles that are not its last a result is `k` cycles old. -/
theorem settle_waits (s : State) (f : Flight) (hq : Quiet s) (hp : Plain f) (n k : Nat) (hk : k + n < f.last) :
    settle n (inFlight s f k) s.cur.core s.cur.bank = inFlight s f (k + n) := by
  induction n generalizing k with
  | zero => rfl
  | succ n ih =>
    rw [settle, tick_waits s f k hq hp (by omega), ih (k + 1) (by omega)]
    congr 1
    omega

theorem settle_succ (n : Nat) (s : State) (core bank : Nat) :
    settle (n + 1) s core bank = tickCore (settle n s core bank) core (fun b _ => b == bank) := by
  induction n generalizing s with
  | zero => rfl
  | succ n ih => rw [settle, ih, settle]

@[simp] theorem inFlight_cur (s : State) (f : Flight) (k : Nat) : (inFlight s f k).cur = s.cur := rfl

/-- THE LANDING OF A RESULT: a fixed-latency result of a context with nothing in flight has landed when it is due, and everything else the context
put in flight is over. -/
theorem after_push (s : State) (f : Flight) (hq : Quiet s) (hp : Plain f) (hl : 1 ≤ f.last) :
    after f.last (push s f) =
      closeCycle (landAll (inFlight s f f.last) s.cur.core s.cur.bank (f.writes.map (fun e => e.2))) s.cur.core s.cur.bank [f.id] := by
  obtain ⟨k, hk⟩ : ∃ k, f.last = k + 1 := ⟨f.last - 1, by omega⟩
  rw [push_inFlight s f hq hp.age]
  have h := settle_waits s f hq hp k 0 (by omega)
  rw [Nat.zero_add] at h
  rw [after, inFlight_cur]
  conv => lhs; rw [hk]
  rw [settle_succ, h, tick_lands s f k hq hp hk.symm]

/-! ### Results to registers -/

/-- A result whose landing changes the acting context by `u`, and not its flights: once it has landed nothing else of the state has changed. -/
theorem after_push_modMe (s : State) (f : Flight) (u : Ctx → Ctx) (hq : Quiet s) (hp : Plain f) (hl : 1 ≤ f.last)
    (hw : landAll (inFlight s f f.last) s.cur.core s.cur.bank (f.writes.map (fun e => e.2)) = modCtx (inFlight s f f.last) s.cur.core s.cur.bank u)
    (hu : ∀ x l, u { x with flights := l } = { u x with flights := l }) :
    after f.last (push s f) = modMe (counted s) u := by
  rw [after_push s f hq hp hl, hw, inFlight_eq, modCtx_modCtx]
  have hn : (ctxAt (counted s) s.cur.core s.cur.bank).flights = [] := hq.2 s.cur.bank hq.1
  have hd : landed { f with age := f.last } = true := by simp [landed, hp.var]
  rw [close_one _ _ _ _ { f with age := f.last } _ rfl hp.late (fun x => by rw [hu]), hd]
  have key : ∀ x : Ctx, x.flights = [] → { u { x with flights := [{ f with age := f.last }] } with flights := [] } = u x := by
    intro x hx
    have h1 := hu x []
    have h2 : ({ x with flights := [] } : Ctx) = x := by rw [← hx]
    rw [h2] at h1
    rw [hu]
    exact h1.symm
  rw [modMe_eq_modCtx]
  simp only [modCtx, if_true]
  exact congrArg (setCtx (counted s) s.cur.core s.cur.bank) (key _ hn)

/-- A result to g[n] lands when it is due, under its guard; one for g0 is discarded (R139). -/
theorem after_toG (s : State) (on : Bool) (n due occ : Nat) (v : Word) (hq : Quiet s) (hd : 1 ≤ due) :
    after due (toG s on n due occ v) = modMe (counted s) (when_ on (setG n v)) := by
  have hp : ∀ ws ds, (∀ e ∈ ws, e.1 = due) → Plain { newFlight s due with occ := occ, dests := ds, writes := ws } :=
    fun ws ds h => ⟨rfl, rfl, rfl, rfl, h⟩
  refine after_push_modMe s _ _ hq (hp _ _ ?_) hd ?_ ?_
  · intro e he
    by_cases hon : on = true <;> by_cases hn : n = 0 <;> simp_all [gWrite]
  · rw [inFlight_eq]
    by_cases hon : on = true <;> by_cases hn : n = 0 <;> simp [hon, hn, gWrite, landAll, landsFirst, landWrite, setG, when_]
  · intro x l
    by_cases hon : on = true <;> by_cases hn : n = 0 <;> simp [hon, hn, setG, when_]

/-- A result to p[n] lands when it is due, under its guard; one for p0 is discarded (R139). -/
theorem after_toP (s : State) (on : Bool) (n due : Nat) (v : Bool) (hq : Quiet s) (hd : 1 ≤ due) :
    after due (toP s on n due v) = modMe (counted s) (when_ on (setP n v)) := by
  have hp : ∀ ws ds, (∀ e ∈ ws, e.1 = due) → Plain { newFlight s due with dests := ds, writes := ws } := fun ws ds h => ⟨rfl, rfl, rfl, rfl, h⟩
  refine after_push_modMe s _ _ hq (hp _ _ ?_) hd ?_ ?_
  · intro e he
    by_cases hon : on = true <;> by_cases hn : n = 0 <;> simp_all
  · rw [inFlight_eq]
    by_cases hon : on = true <;> by_cases hn : n = 0 <;> simp [hon, hn, landAll, landsFirst, landWrite, setP, when_]
  · intro x l
    by_cases hon : on = true <;> by_cases hn : n = 0 <;> simp [hon, hn, setP, when_]

/-- An instruction that only occupies its slot leaves nothing behind. -/
theorem after_occupy (s : State) (occ : Nat) (hq : Quiet s) (ho : 1 ≤ occ) : after occ (occupy s occ) = modMe (counted s) id := by
  refine after_push_modMe s { newFlight s occ with occ := occ } id hq ⟨rfl, rfl, rfl, rfl, by simp [newFlight]⟩ ho ?_ (fun _ _ => rfl)
  rw [inFlight_eq]
  simp [newFlight, landAll]

end Sys2Proof.Laws
end

