-- ==== Sys2Proof/Laws/Reads.lean ====
section
/-! SUPPORT. What an instruction reads when its context has nothing in flight: the stored value of every register (R130, R131), and its guard. -/
namespace Sys2Proof.Laws
open Sys2Proof.Machine

/-- The acting context's flights of a core with nothing in flight. -/
theorem flights_quiet {s : State} (hq : Quiet s) : (me s).flights = [] := hq.2 s.cur.bank hq.1

@[simp] theorem regG_zero (s : State) : regG s 0 = 0 := rfl
@[simp] theorem regP_zero (s : State) : regP s 0 = true := rfl
@[simp] theorem regK_zero (s : State) : regK s 0 = BitVec.allOnes 64 := rfl

theorem regG_quiet {s : State} (hq : Quiet s) (n : Nat) : regG s n = heldG s n := by
  simp [regG, heldG, flying, flights_quiet hq, window]

theorem regP_quiet {s : State} (hq : Quiet s) (n : Nat) : regP s n = heldP s n := by
  simp [regP, heldP, flying, flights_quiet hq, window]

theorem regK_quiet {s : State} (hq : Quiet s) (n : Nat) : regK s n = heldK s n := by
  simp [regK, heldK, flying, flights_quiet hq, window]

theorem regH_quiet {s : State} (hq : Quiet s) (n : Nat) : regH s n = heldH s n := by
  simp [regH, heldH, flying, flights_quiet hq, window]

theorem readEl_quiet {s : State} (hq : Quiet s) (file idx : Nat) : readEl s file idx = storedEl (me s) file idx := by
  simp [readEl, storedEl, flyingEls, flying, flights_quiet hq, window]

theorem readOp_quiet {s : State} (hq : Quiet s) (o : MOp) : readOp s o = lanes.map (fun i => storedEl (me s) o.file (laneEl o i)) := by
  simp [readOp, readEl_quiet hq]

theorem guardOn_quiet {s : State} (hq : Quiet s) (x : Mod) : guardOn s x = guardHeld s x := by
  simp [guardOn, guardHeld, regP_quiet hq]

/-- The guard p0, not negated, is always true. -/
theorem guardHeld_p0 (s : State) (p : Option Pfx) : guardHeld s { pfx := p, neg := false, pred := 0 } = true := rfl

end Sys2Proof.Laws
end

