-- ==== Sys2Proof/Laws/Traps.lean ====
section
/-! SUPPORT. Taking a trap, blocking and ending a kernel: what each always leaves behind. -/
namespace Sys2Proof.Laws
open Sys2Proof.Machine

/-- A trap of the running instruction ends its bundle (R346). -/
@[simp] theorem trap_out (s : State) (cause : Nat) (v : Word) : (trap s cause v).cur.out = .trapped := rfl
@[simp] theorem trapLeaf_out (s : State) (cause : Nat) (v : Word) (w : Option Wait) : (trapLeaf s cause v w).cur.out = .trapped := rfl

/-- A blocked instruction changes nothing but how its bundle came out (R288). -/
@[simp] theorem block_out (s : State) : (block s).cur.out = .blocked := rfl
@[simp] theorem block_cores (s : State) : (block s).cores = s.cores := rfl
@[simp] theorem block_parts (s : State) : (block s).parts = s.parts := rfl
@[simp] theorem block_hist (s : State) : (block s).hist = s.hist := rfl
@[simp] theorem block_nextId (s : State) : (block s).nextId = s.nextId := rfl

/-- A context with nothing in flight and no atomic on its way has nothing to drain. -/
theorem drain_empty (s : State) (core bank : Nat) (h : (ctxAt s core bank).flights = []) (ha : atomicsOf s core bank = []) :
    drain s core bank = s := by simp [drain, h, ha]

/-- The end of a kernel leaves a report where none stood, and asks for the pre-emption of the partition's other contexts (R354, R356). -/
theorem endPart_kernel (s : State) (part : Nat) (r : List Byte) (k : Kernel) (hk : (partAt s part).kernel = some k) (hr : k.report = none) :
    (partAt (endPart s part r) part).kernel = some { k with report := some r } := by
  simp [endPart, hk, hr]

theorem endPart_halt (s : State) (part : Nat) (r : List Byte) (h : (partAt s part).halt = .none) :
    (partAt (endPart s part r) part).halt = .preempting := by
  simp [endPart, h]

/-- What the return from a trap restores (R364). -/
theorem returnFromTrap_me (s : State) : (me (returnFromTrap s)).aside = none ∧ (me (returnFromTrap s)).tstat = (me s).tstat &&& ~~~0x101 := by
  have h : ∀ f, me { modMe s f with cur := { (modMe s f).cur with moved := true } } = f (me s) := fun f => me_modMe s f
  simp only [returnFromTrap, h, and_self]

end Sys2Proof.Laws
end

