-- ==== Sys2Proof/Tests/Slice0.lean ====
section
/-! SUPPORT. Tests: ill-formed terms that are refused, one word of each family written out bit by bit from the spec's encoding, worked values of the
spec, and for every statement with hypotheses a state and operands that meet them. -/
set_option Elab.async false
namespace Sys2Proof.Tests
open Sys2Proof Sys2Proof.Machine Sys2Proof.Claims

/-! ### Ill-formed terms (R89 to R105) -/

def sr (d a b : BitVec 6) : SR := { d := d, a := a, b := b }
def si (d a b : BitVec 6) (imm : BitVec 32) : SI := { d := d, a := a, b := b, imm := imm }
def bx (d : BitVec 6) (aux anchor : BitVec 6) (page : BitVec 20) : BX := { d := d, a := 0, b := 0, aux := aux, anchor := anchor, page := page }
def vv (d a b c : BitVec 10) : VV := { d := d, a := a, b := b, c := c, k := 0, sub := 0, dfile := 0 }
def mem (t : BitVec 10) (a b : BitVec 6) (h : BitVec 5) (mod : BitVec 8) (imm : BitVec 12) : MEM :=
  { t := t, cl := false, a := a, b := b, k := 0, h := h, mod := mod, imm := imm }
def mxw (t : BitVec 2) (a b : BitVec 6) : MXW :=
  { t := t, a := a, fa := false, b := b, bs := 0, cellop := 0, last := false, discard := false, sub := 0, imm := 0 }
def enw (d a b : BitVec 6) (tag : BitVec 6) (c : BitVec 6) (sub : BitVec 10) : ENW :=
  { d := d, a := a, b := b, tag := tag, scope := 0, acq := false, rel := false, cmp := false, sealed := false, wait := false, signal := false,
    nofill := false, c := c, sub := sub }
def lkw (d a b : BitVec 6) (port : BitVec 4) (c : BitVec 6) (sub : BitVec 16) : LKW := { d := d, a := a, b := b, port := port, c := c, sub := sub }

/-- A prefix in front of a word. -/
def withPfx (ext : BitVec 16) (nfl sat : Bool) (rnd : BitVec 3) : Mod := { plainMod with pfx := some { ext := ext, nfl := nfl, sat := sat, rnd := rnd } }

theorem test_add_wellFormed : Instr.WellFormed (.add plainMod (sr 3 1 2)) := by unfold Instr.WellFormed; decide
theorem test_clz_unused_b : ¬ Instr.WellFormed (.clz plainMod (sr 3 1 2)) := by unfold Instr.WellFormed; decide
theorem test_cmp_p16 : ¬ Instr.WellFormed (.cmpEq plainMod (sr 16 1 2)) := by unfold Instr.WellFormed; decide
theorem test_pand_guarded : ¬ Instr.WellFormed (.pand { plainMod with pred := 1 } (sr 3 1 2)) := by unfold Instr.WellFormed; decide
theorem test_bext_reserved : ¬ Instr.WellFormed (.bext plainMod (si 3 1 0 0x40)) := by unfold Instr.WellFormed; decide
theorem test_br_guarded : ¬ Instr.WellFormed (.br { plainMod with neg := true } (bx 0 0 1 0)) := by unfold Instr.WellFormed; decide
theorem test_bt_field : ¬ Instr.WellFormed (.bt plainMod (sr 0 4 0)) := by unfold Instr.WellFormed; decide
theorem test_vadd_dfile : ¬ Instr.WellFormed (.vadd plainMod { vv 0 1 2 0 with dfile := 1 }) := by unfold Instr.WellFormed; decide
theorem test_fcmp_unsigned : ¬ Instr.WellFormed (.fcmp plainMod { vv 0 1 2 0 with sub := 3 }) := by unfold Instr.WellFormed; decide
theorem test_lds_handle : ¬ Instr.WellFormed (.lds plainMod (mem 5 1 0 1 3 0)) := by unfold Instr.WellFormed; decide
theorem test_aadd_fp_width : ¬ Instr.WellFormed (.aadd plainMod (mem 5 1 2 0 0x20 0)) := by unfold Instr.WellFormed; decide
theorem test_xlt_h32 : ¬ Instr.WellFormed (.xlt plainMod (sr 32 1 0)) := by unfold Instr.WellFormed; decide
theorem test_xpack_part : ¬ Instr.WellFormed (.xpack plainMod (vv 0 0x10 1 0x43)) := by unfold Instr.WellFormed; decide
theorem test_tcfg_type : ¬ Instr.WellFormed (.tcfg plainMod { mxw 0 0 0 with sub := 3, imm := 0x0101 }) := by unfold Instr.WellFormed; decide
theorem test_mma_last_of_nothing : ¬ Instr.WellFormed (.mma plainMod { mxw 0 1 2 with last := true }) := by unfold Instr.WellFormed; decide
theorem test_phase_scope : ¬ Instr.WellFormed (.phase plainMod (enw 0 0 0 0 0 0)) := by unfold Instr.WellFormed; decide
theorem test_lclk_port : ¬ Instr.WellFormed (.lclk plainMod (lkw 1 0 0 1 0 0)) := by unfold Instr.WellFormed; decide
theorem test_logctl_log6 : ¬ Instr.WellFormed (.logctlMark plainMod (si 0 1 0 0x106)) := by unfold Instr.WellFormed; decide
theorem test_prefix_not_honoured : ¬ Instr.WellFormed (.and (withPfx 0 false true 0) (sr 3 1 2)) := by unfold Instr.WellFormed; decide
theorem test_prefix_mode_7 : ¬ Instr.WellFormed (.fadd (withPfx 0 false false 7) (vv 0 1 2 0)) := by unfold Instr.WellFormed; decide
theorem test_prefix_honoured : Instr.WellFormed (.fadd (withPfx 0 true true 6) (vv 0x002 0x012 0x022 0)) := by unfold Instr.WellFormed; decide
theorem test_event_core : ¬ Instr.WellFormed (.iterationRetire 96 0) := by unfold Instr.WellFormed; decide

/-! ### One word of each family (R97 to R119), its fields written from the highest bit down -/

theorem test_word_scalar : StandsFor .s1 false 0b0_0_0000_000010_000001_000011_000000_00 (.add plainMod (sr 3 1 2)) := by
  unfold StandsFor; decide
theorem test_word_immediate :
    StandsFor .s0 true 0b11111111111111111111111111111001_0_0_0000_000000_000101_000010_110010_01 (.cmpiLt plainMod (si 2 5 0 0xFFFFFFF9)) := by
  unfold StandsFor; decide
theorem test_word_muldiv : StandsFor .sm false 0b0_1_0101_000011_000010_000110_000011_00 (.div { plainMod with neg := true, pred := 5 } (sr 6 2 3)) := by
  unfold StandsFor; decide
theorem test_word_branch : StandsFor .br true 0b11111111111111111111_000011_000101_0_0_0000_000000_000000_111110_000011_01 (.call plainMod (bx 62 5 3 0xFFFFF)) := by
  unfold StandsFor; decide
theorem test_word_vector : StandsFor .vb true 0b0000_0000_0_0000_010_0001000110_0001000101_0001000100_0100010010_011011_01
    (.fma plainMod { vv 0x112 0x044 0x045 0x046 with k := 2 }) := by
  unfold StandsFor; decide
theorem test_word_xmove : StandsFor .xm true 0b0000_0001_0_0000_000_0000000111_0000000000_0000010010_0000100011_000001_01
    (.mvxm plainMod { vv 0x023 0x012 0 7 with sub := 1 }) := by
  unfold StandsFor; decide
theorem test_word_scratch : StandsFor .ls true 0b111111110000_00000011_00000_000_0_0000_000000_111111_0_0000000101_000001_01
    (.sts plainMod (mem 5 63 0 0 3 0xFF0)) := by
  unfold StandsFor; decide
theorem test_word_global : StandsFor .lg true 0b000100000000_00000000_00100_000_0_0000_000000_001010_1_0000110001_000010_01
    (.ldgv plainMod { mem 0x031 10 0 4 0 0x100 with cl := true }) := by
  unfold StandsFor; decide
theorem test_word_atomic : StandsFor .la true 0b000000000000_0_10_1_0_011_00010_000_0_0000_000100_000011_0_0000000111_000000_01
    (.aadd plainMod (mem 7 3 4 2 0x53 0)) := by
  unfold StandsFor; decide
theorem test_word_translate : StandsFor .xl false 0b0_0_0000_000000_010100_000011_000000_00 (.xlt plainMod (sr 3 20 0)) := by
  unfold StandsFor; decide
theorem test_word_transform : StandsFor .tf true 0b0000_0000_0_0000_000_0000110011_0000000110_0000010000_0000100010_000011_01
    (.xpack plainMod (vv 0x022 0x010 6 0x33)) := by
  unfold StandsFor; decide
theorem test_word_matrix : StandsFor .mx true 0b01000000_01000000_00000001_0_0_0_0000_00000000_00_000000_0_000000_00_000000_01
    (.tcfg plainMod { mxw 0 0 0 with sub := 1, imm := 0x4040 }) := by
  unfold StandsFor; decide
theorem test_word_multiply : StandsFor .mx true 0b0000000000000000_00000000_0_1_0_0000_00000000_01_000010_1_000001_01_000100_01
    (.mma plainMod { mxw 1 1 2 with fa := true, bs := 1, last := true }) := by
  unfold StandsFor; decide
theorem test_word_engine : StandsFor .en true 0b0100000101_000000_0_0_0_0_0_1_0_011_000000_0_0_0000_000101_000100_000000_000111_01
    (.semsig plainMod { enw 0 4 5 0 0 0x105 with rel := true, scope := 3 }) := by
  unfold StandsFor; decide
theorem test_word_system : StandsFor .sy true 0b00000000000000000000000000000010_0_0_0000_000000_000000_000101_000000_01 (.csrr plainMod (si 5 0 0 2)) := by
  unfold StandsFor; decide
theorem test_word_link : StandsFor .lk true 0b0000001000000111_000000_000011_0010_0_0_0000_000010_000001_000000_000000_01
    (.lsend plainMod (lkw 0 1 2 2 3 0x207)) := by
  unfold StandsFor; decide
/-- The name a refused word is refused under. -/
def refusal (r : Except Reject Instr) : Option Reject := match r with | .error e => some e | .ok _ => none

/-- An unassigned opcode and a reserved bit are refused by name. -/
theorem test_words_refused :
    refusal (decodeWord .s0 allFeatures none false 0b0_0_0000_000000_000000_000000_010110_00) = some .unassigned ∧
    refusal (decodeWord .s0 allFeatures none false 0b1_0_0000_000010_000001_000011_000000_00) = some .reserved ∧
    refusal (decodeWord .sm allFeatures none false 0b0_0_0000_000000_000000_000000_000111_00) = some .unassigned := by decide

/-! ### Small states -/

/-- A running context in bank 0 of core 0. -/
def live (f : Ctx → Ctx) : State := modCtx State.reset 0 0 (fun x => f { x with life := .ready })

/-- A guard that is false: p1 reads false. -/
def never : Mod := { plainMod with pred := 1 }

/-- g registers with values. -/
def withG (l : List (Nat × Word)) : State := live (fun x => { x with g := l })

/-- Partition 0 has core 0 with a window of 128 KiB, 32 KiB of it segments; partition 1 has core 3. The stacks and the bridge are trained. -/
def divided (s : State) : State :=
  { s with ready := 2 ^ 52 + 0xFFF, conf := { s.conf with
      hbmStacks := 0xFFF, parts := [(0, { cores := [0, 1], spSize := 0x20000, segArea := 0x8000, watchdog := 5 }), (1, { cores := [3], spSize := 0x20000, segArea := 0x8000, watchdog := 5 })] } }

/-- A page of 20 one-unit bundles at 0x10000: tag, anchors 0 (entry), 1 (loop start) and 2 (return point). -/
def pageBytesOf (tag : Nat) : Memory :=
  let m := (List.range 20).foldl (fun m i => pokeNat m (4 * i) 4 (3 + 16)) ([] : Memory)
  let m := pokeNat (pokeNat (pokeNat (pokeNat m 3840 4 0x47503951) 3844 1 tag) 3846 1 3) 3848 2 80
  pokeNat (pokeNat (pokeNat m 3864 2 0) 3866 2 0x1004) 3868 2 0x2008

def codeAt (va tag : Nat) : CodePage := { pasid := 0, va := va, src := .native 0, present := true, checked := true, bytes := pageBytesOf tag, next := none }

/-- The context issues a bundle at an offset of that page. -/
def inPage (off : Nat) (gelxis : Bool) (pend : Option Pend) (loops : List LoopEntry) (s : State) : State :=
  let s := { s with
    code := [codeAt 0x10000 (if gelxis then 0x31 else 0x00)]
    cur := { s.cur with page := 0x10000, home := 0x10000, off := off, size := 4, gelxis := gelxis, pend0 := pend } }
  modMe s (fun c => { c with seq := { c.seq with page := 0x10000, home := 0x10000, off := off + 4, loops := loops, pend := pend, entering := false } })

/-! ### Scalar and predicate instructions -/

theorem witness_RegisterFormsCompute :
    let s := withG [(1, 0x7FFFFFFFFFFFFFFF), (2, 1)]
    Quiet s ∧ registerForm (.add (withPfx 0 false true 0) (sr 3 1 2)) = some (withPfx 0 false true 0, sr 3 1 2) ∧
    registerValue (withPfx 0 false true 0) 2 (heldG s 1) (heldG s 2) (.add (withPfx 0 false true 0) (sr 3 1 2)) = some 0x7FFFFFFFFFFFFFFF := by
  refine ⟨⟨by decide, by decide⟩, rfl, by decide⟩

theorem witness_RegisterFormsCompute_unused : Instr.WellFormed (.clz plainMod (sr 3 1 0)) := by unfold Instr.WellFormed; decide

theorem witness_ImmediateFormsCompute :
    let s := withG [(1, 0x1), (2, 0x8000000000000000), (3, 1)]
    let i : Instr := .fshl plainMod (si 4 1 2 0x340)
    Quiet s ∧ immediateForm i = some (plainMod, si 4 1 2 0x340) ∧
    immediateValue s plainMod 0x340 (immExt plainMod 32 0x340) (heldG s 1) (heldG s 2) i = some 3 := by
  refine ⟨⟨by decide, by decide⟩, rfl, by decide⟩

theorem witness_MultiplyAndDivideCompute :
    let s := withG [(1, 7)]
    Quiet s ∧ multiplyForm (.div plainMod (sr 3 1 2)) = some (plainMod, sr 3 1 2) ∧
    multiplyValue (heldG s 1) (heldG s 2) (.div plainMod (sr 3 1 2)) = some (14, BitVec.allOnes 64) := by
  refine ⟨⟨by decide, by decide⟩, rfl, by decide⟩

theorem witness_SelectAndCompare :
    let s := withG [(1, 0xFFFFFFFFFFFFFFFF), (2, 1)]
    let i : Instr := .cmpLt plainMod (sr 15 1 2)
    Quiet s ∧ i.WellFormed ∧ compareForm s i = some (plainMod, 15, 0xFFFFFFFFFFFFFFFF, 1) ∧ relation 0xFFFFFFFFFFFFFFFF 1 i = some true := by
  refine ⟨⟨by decide, by decide⟩, by unfold Instr.WellFormed; decide, by decide, by decide⟩

theorem witness_PredicateLogic :
    let s := live (fun x => { x with p := [(1, true)] })
    let i : Instr := .pxor plainMod (sr 15 1 2)
    Quiet s ∧ i.WellFormed ∧ predicateValue s i = some (plainMod, sr 15 1 2, true) ∧ Instr.WellFormed (.pnot plainMod (sr 15 1 0)) := by
  refine ⟨⟨by decide, by decide⟩, by unfold Instr.WellFormed; decide, by decide, by unfold Instr.WellFormed; decide⟩

/-! ### Control flow -/

theorem witness_TargetResolution :
    let s := inPage 0 true none [] (live id)
    canonical (BitVec.ofInt 64 (0x10000 + (0 : BitVec 20).toInt * 4096)) ∧ codePage s 0 0x10000 = some (codeAt 0x10000 0x31)
      ∧ isBlf (codeAt 0x10000 0x31) = false ∧ bit (pageFlags (pageBytesOf 0x31)) 0 = false
      ∧ (checkTarget s 0 0x10000 0 2 [2]).toOption = some 0x10080 ∧ (checkTarget s 0 0x10000 0 3 [2]).toOption = none
      ∧ codePage s 0 0x11000 = none ∧ canonical (BitVec.ofInt 64 ((2 ^ 57 : Int) + (0 : BitVec 20).toInt * 4096)) = false := by decide +kernel

theorem witness_TargetResolution_bad_page :
    let s := { live id with code := [{ codeAt 0x10000 0x31 with checked := false, bytes := [] }] }
    trailerOk s 0 { codeAt 0x10000 0x31 with checked := false, bytes := [] } false = false := by decide +kernel

theorem witness_BranchesPend :
    let s := inPage 0 true none [⟨0, 9, 0, 20⟩] (live id)
    Quiet s ∧ MayTransfer s ∧ NotNearEnd s ∧ (branchOf s (.br plainMod (bx 0 0 0 0))).map (fun b => (b.1, b.2.toOption)) = some (true, some 0x10000) := by
  refine ⟨⟨by decide, by decide +kernel⟩, ⟨rfl, rfl, by decide +kernel⟩, ?_, by decide +kernel⟩
  unfold NotNearEnd; decide +kernel

theorem witness_CallsLink :
    let s := inPage 0 true none [] (live id)
    Quiet s ∧ MayTransfer s ∧ (me s).seq.loops = [] ∧ (callOf s (.call plainMod (bx 62 2 0 0))).map (fun b => (b.1, b.2.1, b.2.2.toOption)) = some (62, 2, some 0x10000)
      ∧ codePage s 0 0x10000 = some (codeAt 0x10000 0x31) ∧ kindOf (codeAt 0x10000 0x31) 2 = some 2 := by
  refine ⟨⟨by decide, by decide +kernel⟩, ⟨rfl, rfl, by decide +kernel⟩, by decide +kernel, by decide +kernel, by decide +kernel, by decide +kernel⟩

theorem witness_LoopsStartAndExit :
    let s := inPage 0 true none [] (live id)
    let t := inPage 8 true none [⟨0, 9, 0, 6⟩] (live id)
    (Quiet s ∧ MayLoop s 3 ∧ loopOf s (.loop plainMod (bx 0 2 0 0)) = some (0, 3) ∧ loopOf s (.loop plainMod (bx 0 2 5 0)) = some (5, 3))
      ∧ Quiet t ∧ guardHeld t plainMod = true ∧ guardHeld t never = false ∧ (me t).seq.loops = [⟨0, 9, 0, 6⟩] := by
  refine ⟨⟨⟨by decide, by decide +kernel⟩, ⟨rfl, by decide +kernel, by decide +kernel, by decide +kernel⟩, by decide +kernel, by decide +kernel⟩, ⟨by decide, by decide +kernel⟩, ?_⟩
  decide +kernel

theorem witness_LoopBackRotates :
    let s := inPage 12 true none [⟨0, 9, 0, 4⟩] (live id)
    s.cur.pend0 = none ∧ s.cur.moved = false ∧ (me s).seq.loops = [⟨0, 9, 0, 4⟩] ∧ s.cur.off = skipBundles (curBytes s) 0 3
      ∧ s.cur.off ≠ skipBundles (curBytes s) 0 4 := by decide +kernel

theorem witness_PrepareAndTransfer :
    let s := modMe (inPage 0 false none [] (live id)) (fun x => { x with bt := [(1, 0x10000)] })
    Quiet s ∧ s.cur.pend0 = none ∧ s.cur.gelxis = false ∧ (prepareOf s (.pbt plainMod (bx 1 0 0 0))).map (fun b => (b.1, b.2.toOption)) = some (1, some 0x10000)
      ∧ guardHeld s plainMod = true ∧ guardHeld s never = false ∧ regBt s 1 ≠ 0
      ∧ (withLoopStart s (checkPointer s (me s).pasid (regBt s 1)) [0, 1, 2]).toOption = some 0x10000 := by
  refine ⟨⟨by decide, by decide +kernel⟩, rfl, rfl, ?_⟩
  decide +kernel

theorem witness_ControlOutOfPlaceTraps :
    let s := inPage 0 true (some ⟨0x10000, 2⟩) [] (live id)
    let t := inPage 0 false none [] (withG [(1, 0x4000000)])
    let u := inPage 0 true none [] (withG [(1, 0x4000000)])
    (Settled s ∧ OutOfPlace s (.br plainMod (bx 0 0 0 0))) ∧ (Settled u ∧ MayLoop u 3 ∧ 2 ^ 26 ≤ (heldG u 1).toNat)
      ∧ Settled t ∧ t.cur.pend0 = none ∧ t.cur.gelxis = false ∧ guardHeld t plainMod = true ∧ regBt t 0 = 0 := by
  refine ⟨⟨⟨⟨by decide, by decide +kernel⟩, by decide +kernel⟩, ?_⟩, ⟨⟨⟨by decide, by decide +kernel⟩, by decide +kernel⟩, ⟨rfl, by decide +kernel, by decide +kernel, by decide +kernel⟩, by decide +kernel⟩,
    ⟨⟨by decide, by decide +kernel⟩, by decide +kernel⟩, rfl, rfl, ?_⟩
  · exact fun h => by simp [MayTransfer, inPage, modMe, setMe, setCtx, setCore] at h
  · decide +kernel

/-! ### Vector instructions -/

/-- Row operand 0 of matrix 0, 1 and 2. -/
def abc : VV := vv 0x000 0x001 0x002 0x003

theorem witness_LaneInstructionsCompute :
    let s := live id
    Quiet s ∧ (laneResult s (.vadd plainMod abc)).map (fun r => (r.1, r.2.1, r.2.2.1, r.2.2.2 63)) = some (plainMod, abc, 2, 0) := by
  refine ⟨⟨by decide, by decide⟩, by decide +kernel⟩

theorem witness_FloatInstructionsCompute :
    let s := live id
    Quiet s ∧ (fpForm s (.fdiv never abc)).map (fun F => (F.x, F.o, F.due)) = some (never, abc, 14) ∧ guardHeld s never = false ∧ guardHeld s plainMod = true := by
  refine ⟨⟨by decide, by decide⟩, by decide +kernel⟩

theorem witness_ComparesAndReductionsCompute :
    let s := live id
    Quiet s ∧ (compareLanes s (.fcmp plainMod { abc with dfile := 2, sub := 8 })).map (fun r => (r.1, r.2.2.1, r.2.2.2.1 0)) = some (plainMod, 4, true)
      ∧ (reduction s (.vredadd plainMod abc)).map (fun r => (r.1, r.2.2.1)) = some (plainMod, 0) := by
  refine ⟨⟨by decide, by decide⟩, by decide +kernel⟩

theorem witness_RegisterMovesCompute :
    let s := live id
    Quiet s ∧ (registerMove s (.kpopc plainMod { vv 3 1 0 0 with dfile := 1 })).map (fun r => (r.1, r.2.1)) = some (plainMod, 1)
      ∧ Instr.WellFormed (.mvxm plainMod { vv 0x023 0x012 0 63 with sub := 1 }) := by
  refine ⟨⟨by decide, by decide⟩, by decide +kernel, by unfold Instr.WellFormed; decide⟩

/-- R189: an operand of `MVXM` moves one index on each cycle, past 63 to 0. -/
theorem test_mvxm_index_wraps : (advance (matOp Ctx.reset 0 0x3F0) 1).idx = 0 := by decide

/-! ### Memory -/

/-- A valid handle of the 64 KiB page at 0x40000, mapped at 0x10000, with permissions R, W and A. -/
def aHandle : Word128 := mkHandle 7 0 false 0 0x40000 0x10000 0 1 0

/-- g1 = 0x100, g2 = 0x18000 (a clean segment with one writer), g3 = 4, g4 = 300, g5 = 0x20000; h1 is valid, h2 faulted. -/
def memLive : State :=
  let s := divided (live (fun x => { x with
    g := [(1, 0x100), (2, 0x18000), (3, 4), (4, 300), (5, 0x20000)], h := [(1, aHandle), (2, mkHandle 0 0 false 0x0A 0 0x20000 0 3 0)] }))
  let d : DirEntry := { name := 1, owner := 0, off := 0x18000, size := 4096, state := .clean, version := 0, attach := 1, writers := 1, stamp := 0, dirty := [] }
  modMyCore s (fun c => { c with dir := [d] })

theorem quiet_memLive : Quiet memLive := ⟨by decide, by decide +kernel⟩
/-- Every stack and the bridge have their bits in the ready word, and nothing has failed. -/
theorem trained_of (s : State) (hc : s.conf.hbmStacks = 0xFFF) (hf : s.failed = 0) (hr : ∀ n, n < 12 → s.ready.getLsbD n = true)
    (hb : s.ready.getLsbD 52 = true) : Trained s := by
  refine ⟨hb, by simp [hf], fun n hn => ?_⟩
  rw [hc] at hn
  have h12 : n < 12 := by
    rcases Nat.lt_or_ge n 12 with h | h
    · exact h
    · rw [Nat.div_eq_of_lt (Nat.lt_of_lt_of_le (by decide) (Nat.pow_le_pow_right (by decide) h))] at hn
      exact absurd hn (by decide)
  exact ⟨hr n h12, by simp [hf]⟩
theorem trained_memLive : Trained memLive := trained_of _ rfl rfl (by decide +kernel) (by decide +kernel)
theorem settled_memLive : Settled memLive := ⟨quiet_memLive, by decide +kernel⟩
theorem unlogged_memLive : Unlogged memLive memLive.cur.core memLive.cur.bank := ⟨by decide +kernel, by decide +kernel⟩

/-- A range in the program area, one in a copy that allows stores, and the last bytes of the program area. -/
theorem witness_ScratchLoadsAndStoresAct :
    Quiet memLive ∧ SpSettled memLive ∧ guardHeld memLive plainMod = true ∧ guardHeld memLive never = false
      ∧ (scratchLoad memLive (.lds plainMod (mem 5 1 0 0 3 0))).map (fun r => (r.2.1.ranges, r.2.2.1)) = some ([(0x100, 8)], 5)
      ∧ SpAllowed memLive ⟨[(0x100, 8)], false, 1⟩ ∧ SpAllowed memLive ⟨[(0x17FF8, 8)], true, 1⟩
      ∧ (scratchStore memLive (.stsv plainMod (mem 0 2 0 0 0 0))).map (fun r => (r.2.1.ranges, r.2.2.1)) = some ([(0x18000, 256)], 1)
      ∧ SpAllowed memLive ⟨[(0x18000, 256)], true, 256⟩ := by
  refine ⟨quiet_memLive, by unfold SpSettled; decide +kernel, by decide +kernel, by decide +kernel, by decide +kernel, ?_, ?_, by decide +kernel, ?_⟩
  · intro r hr
    obtain rfl : r = (0x100, 8) := by simpa using hr
    exact ⟨by decide, by decide +kernel, by decide, .inr (.inl (by decide +kernel))⟩
  · intro r hr
    obtain rfl : r = (0x17FF8, 8) := by simpa using hr
    exact ⟨by decide, by decide +kernel, by decide, .inr (.inl (by decide +kernel))⟩
  · intro r hr
    obtain rfl : r = (0x18000, 256) := by simpa using hr
    exact ⟨by decide, by decide +kernel, by decide, .inr (.inr ⟨_, rfl, by decide +kernel, by decide +kernel⟩)⟩

/-- The last eight bytes of the page; homes that have trained, that are in training, and that have failed. -/
theorem witness_GlobalLoadsArrive :
    let s := memLive
    let o := mem 5 0 0 1 3 0
    (Quiet s ∧ NoStrayAtomic s ∧ pageAccess s (.ldg plainMod o) = some (plainMod, o, 8, 1, 0) ∧ (globalLoad s 0x40000 (.ldg plainMod o)).isSome = true
      ∧ PageAllows (heldH s 1) 0xFFF8 8 1 0 ∧ PageAllows (heldH s 1) (offOf s plainMod o) 8 1 0)
      ∧ Trained s ∧ homeReached { s with ready := 0 } 0 0x40000 = false ∧ homeReached { s with ready := 0, failed := 1 } 0 0x40000 = true
      ∧ homeFailed { s with ready := 0, failed := 1 } 0 0x40000 = true ∧ (me s).deferred = [] := by
  refine ⟨⟨quiet_memLive, by unfold NoStrayAtomic; decide +kernel, by decide +kernel, by decide +kernel, ?_, ?_⟩, trained_memLive, by decide +kernel, by decide +kernel,
    by decide +kernel, by decide +kernel⟩ <;> unfold PageAllows <;> decide +kernel

theorem witness_GlobalStoresStayPrivate :
    let s := memLive
    let o := mem 5 1 0 1 3 0
    Quiet s ∧ pageAccess s (.stg plainMod o) = some (plainMod, o, 8, 1, 1) ∧ (globalStore s 0x40100 (.stg plainMod o)).isSome = true
      ∧ guardHeld s plainMod = true ∧ guardHeld s never = false ∧ PageAllows (heldH s 1) (offOf s plainMod o) 8 1 1
      ∧ hState (heldH s 1) = 1 ∧ heldG s 0 = 0 := by
  refine ⟨quiet_memLive, by decide +kernel, by decide +kernel, by decide +kernel, by decide +kernel, by unfold PageAllows; decide +kernel, by decide +kernel, rfl⟩

/-- The window, the alignment and the segment area of R206 in turn; the 257th byte of `STSVM`; the state, the range and a faulted handle of R199. -/
theorem witness_AccessRefusalsTrap :
    Settled memLive ∧ guardHeld memLive plainMod = true
      ∧ spRefusal memLive ⟨[(0x20000, 8)], false, 1⟩ = some (0x0C, 0x20000 + 1 * 2 ^ 57)
      ∧ spRefusal memLive ⟨[(0x1FFFF, 1), (0x101, 256)], false, 256⟩ = some (0x0C, 0x1FFFF + 3 * 2 ^ 57)
      ∧ spRefusal memLive ⟨[(0x17FF9, 8)], false, 1⟩ = some (0x0C, 0x17FF9 + 2 * 2 ^ 57)
      ∧ (scratchLoad memLive (.lds plainMod (mem 6 5 0 0 3 0))).map (fun r => r.2.1.ranges) = some [(0x20000, 8)]
      ∧ 256 < (heldG memLive 4).toNat
      ∧ pageRefusal (heldH memLive 3) 3 0 8 1 0 = some (0x08, 3) ∧ pageRefusal aHandle 1 0xFFF9 8 1 0 = some (0x09, 0x1FFF9)
      ∧ pageRefusal (heldH memLive 2) 2 0 8 1 0 = some (0x0A, 0x20002)
      ∧ pageRefusal aHandle 1 2 4 4 2 = some (0x0C, 0x600000000010002) := by
  refine ⟨settled_memLive, ?_⟩
  decide +kernel

theorem witness_HintsAndReleases :
    Quiet memLive ∧ guardHeld memLive plainMod = true ∧ PageAllows (heldH memLive 1) 0xFFFF 1 1 0
      ∧ PageAllows (heldH memLive 1) (offOf memLive plainMod (mem 0 0 0 1 0 0)) 1 1 0 := by
  refine ⟨quiet_memLive, by decide +kernel, ?_, ?_⟩ <;> unfold PageAllows <;> decide +kernel

/-- A page that is mapped and the device's, one that is the host's, a code page, and an address out of canonical form. -/
theorem witness_TranslationsFormHandles :
    let m : DataMap := { pasid := 0, va := 0x10000, pa := 0x40000, perms := 7, size := 0, host := false }
    let s := { memLive with maps := [m, { m with va := 0x20000, pa := 0x50000, host := true }], code := [codeAt 0x40000 0] }
    Quiet s ∧ NoStrayAtomic s ∧ guardHeld s plainMod = true ∧ guardHeld s never = false ∧ (heldG s 3).toNat / 32 % 8 = 0
      ∧ canonical 0x10000 = true ∧ findMap s 0 0x1FFFF = some m ∧ (findMap s 0 0x20000).map (fun m => m.host) = some true ∧ findMap s 0 0x30000 = none
      ∧ codePage s 0 0x30000 = none ∧ findMap s 0 0x40FFF = none ∧ codePage s 0 0x40000 = some (codeAt 0x40000 0)
      ∧ canonical 0x100000000000000 = false ∧ m.pa % 2 ^ 16 = 0 ∧ m.pa < 2 ^ 52 ∧ m.perms < 32 ∧ m.size < 3 ∧ 3 &&& m.perms = 3 ∧ 8 &&& m.perms ≠ 8 := by
  refine ⟨⟨by decide, by decide +kernel⟩, by unfold NoStrayAtomic; decide +kernel, ?_⟩
  decide +kernel

theorem witness_AtomicsSetOut :
    let o := mem 7 0 3 1 0x43 0
    Quiet memLive ∧ Unlogged memLive memLive.cur.core memLive.cur.bank ∧ atomicOp (.aadd plainMod o) = some (plainMod, o, 0)
      ∧ PageAllows (heldH memLive 1) (offOf memLive plainMod o) 4 4 2 ∧ PageAllows (heldH memLive 1) 0xFF00 256 4 2 ∧ MayBound memLive := by
  refine ⟨quiet_memLive, unlogged_memLive, rfl, ?_, ?_, ?_⟩ <;> first | (unfold PageAllows; decide +kernel) | (unfold MayBound; decide +kernel)

/-- An atomic add of 32 bits, at its home slice with nothing in its way. -/
def anAtomic : Atomic :=
  { id := 9, core := 0, bank := 0, kernel := 0, op := 0, pa := 0x40000, width := 32, operand := 1, swap := 0, dest := 5, flight := 8, acq := false, scope := 3,
    epoch := 0, ordinal := 0, index := 0, sub := 0, rnd := 0, va := 0x10000, refused := false }

theorem witness_AtomicsArePerformed :
    let s := { memLive with atomics := [anAtomic] }
    s.atomics.find? (fun b => b.id == anAtomic.id) = some anAtomic ∧ mayPerform s anAtomic = true ∧ anAtomic.width = 32 ∧ anAtomic.bank < 3
      ∧ behindRefused s anAtomic = false ∧ Unlogged s anAtomic.core anAtomic.bank ∧ Unwatched s
      ∧ (isReduction anAtomic && holdsReductions s (ctxAt s anAtomic.core anAtomic.bank).part) = false
      ∧ homeFailed s 0 anAtomic.pa = false ∧ homeReached { s with ready := 0 } 0 anAtomic.pa = false
      ∧ mayPerform { s with failed := 1 } anAtomic = true ∧ homeFailed { s with failed := 1 } 0 anAtomic.pa = true := by
  refine ⟨by decide +kernel, by decide +kernel, rfl, by decide, by decide +kernel, ⟨by decide +kernel, by decide +kernel⟩, by unfold Unwatched; decide +kernel, by decide +kernel, by decide +kernel, by decide +kernel, by decide +kernel, by decide +kernel⟩

/-! ### Transforms and the matrix unit -/

def zeroRow : Row := { bytes := List.replicate 128 0, scales := [], bands := [] }
def loaded (rows : Nat) (sparse : Nat) : FSlot := { FSlot.reset with state := .loaded, rows := rows, format := 2, sparse := sparse, staged := List.replicate rows zeroRow }

/-- Tile 0 is one FP32 cell, its scratchpad form at 0x100 (g1); slots 0 to 2 hold a dense BF16 row, slot 3 a sparse one; a descriptor of one row of BF16
weights stands at 0x4000 (g2), the tile it fills at 0x1000 (g3), a decoder stream of one repeated word at 0; the page of h1 may be fetched (g4 its shape). -/
def mxLive : State :=
  let s := divided (live (fun x => { x with
    g := [(1, 0x1010100000100), (2, 0x4000), (3, 0x2400100001000), (4, 0x2008001), (5, 0x102010001), (6, 8), (7, 0x2400100018000), (8, 0x18000)]
    h := [(1, mkHandle 15 0 false 0 0x40000 0x10000 0 1 0)]
    tiles := [(0, { rows := 1, cols := 1, type := 1, live := false, bytes := [] })]
    fslots := [(0, loaded 1 0), (1, loaded 1 0), (2, loaded 1 0), (3, loaded 1 32)]
    dec := some { off := 0, len := 8, ratio := 1, next := 0, since := 0, first := false, got := bytesOf 8 3 } }))
  let d : DirEntry := { name := 1, owner := 0, off := 0x18000, size := 4096, state := .frozen, version := 0, attach := 1, writers := 0, stamp := 0, dirty := [] }
  modMyCore s (fun c => { c with
    sp := [(0, 3), (0x4000, 1), (0x4008, 1), (0x4009, 2), (0x400A, 64), (0x400C, 1), (0x18000, 1), (0x18008, 1), (0x18009, 2), (0x1800A, 64), (0x1800C, 1)], dir := [d] })

theorem quiet_mxLive : Quiet mxLive := ⟨by decide, by decide +kernel⟩
theorem settled_mxLive : Settled mxLive := ⟨quiet_mxLive, by decide +kernel⟩
theorem spSettled_mxLive : SpSettled mxLive := by unfold SpSettled; decide +kernel

theorem witness_TransformsCompute :
    Quiet mxLive ∧ guardHeld mxLive plainMod = true ∧ guardHeld mxLive never = false
      ∧ (transformChange mxLive (.xpack plainMod (vv 0x022 0x010 6 0x33))).map (fun r => (r.1, r.2.1)) = some (plainMod, 5)
      ∧ (transformChange mxLive (.xpose never (vv 0x022 0x010 0 3))).map (fun r => (r.1, r.2.1)) = some (never, 11)
      ∧ (heldG mxLive 0).toNat % 8 = 0 ∧ (heldG mxLive 6).toNat % 8 = 0 ∧ SpAllowed mxLive ⟨[(0, 8)], false, 1⟩ := by
  refine ⟨quiet_mxLive, by decide +kernel, by decide +kernel, by decide +kernel, by decide +kernel, by decide +kernel, by decide +kernel, ?_⟩
  intro r hr
  obtain rfl : r = (0, 8) := by simpa using hr
  exact ⟨by decide, by decide +kernel, by decide, .inr (.inl (by decide +kernel))⟩

/-- A block that is whole, and the four ways in which one is not: no header left, a header that R213 does not allow, a ratio above the bound, no payload left. -/
theorem witness_TransformsCompute_decoder :
    let d : DecStream := { off := 0, len := 8, ratio := 1, next := 0, since := 0, first := false, got := bytesOf 8 3 }
    Settled mxLive ∧ SpSettled mxLive ∧ guardHeld mxLive plainMod = true ∧ (me mxLive).dec = some d ∧ bit (me mxLive).icfg.toNat 0 = false
      ∧ d.got = peeks (spHeld mxLive) (d.off + d.next) (min 264 (d.len - d.next))
      ∧ d.next + 8 + 8 * (hpkHead 3).w ≤ d.len ∧ natOfBytes (d.got.take 8) = 3 ∧ hpkOk 3 = true ∧ 1 + (hpkHead 3).w ≤ d.ratio
      ∧ (me (live id)).dec = none ∧ hpkOk 0 = false ∧ hpkOk 0x2000 = true ∧ (hpkHead 0x2000).w = 32 := by
  refine ⟨settled_mxLive, spSettled_mxLive, by decide +kernel, by decide +kernel, by decide +kernel, by decide +kernel, ?_⟩
  decide +kernel

theorem witness_TilesConfigureMoveAndStore :
    let i : Instr := .tcfg plainMod { mxw 0 0 0 with sub := 1, imm := 0x4040 }
    Quiet mxLive ∧ SpSettled mxLive ∧ guardHeld mxLive plainMod = true ∧ guardHeld mxLive never = false
      ∧ (matrixChecks mxLive i).map (fun r => (r.1, failures r.2)) = some (plainMod, []) ∧ (tileChange mxLive i).map (fun r => r.1) = some 2
      ∧ (matrixChecks mxLive (.tld plainMod (mxw 0 1 0))).map (fun r => failures r.2) = some [] ∧ (tileChange mxLive (.tld plainMod (mxw 0 1 0))).map (fun r => r.1) = some 5
      ∧ (matrixChecks mxLive (.tvrow plainMod (mxw 0 0 0))).map (fun r => failures r.2) = some []
      ∧ (matrixChecks mxLive (.tst plainMod (mxw 0 1 0))).map (fun r => (r.1, failures r.2)) = some (plainMod, []) := by
  refine ⟨quiet_mxLive, spSettled_mxLive, ?_⟩
  decide +kernel

theorem witness_MultipliesAccumulate :
    let i : Instr := .mma plainMod { mxw 0 0 1 with fa := true, bs := 1, last := true }
    let j : Instr := .mmas plainMod { mxw 0 3 0 with fa := true, bs := 1, sub := 32 }
    let k : Instr := .mmac plainMod { mxw 0 0 8 with fa := true, bs := 2 }
    Quiet mxLive ∧ SpSettled mxLive ∧ (∀ n, (tgetD (me mxLive).fslots n FSlot.reset).state ≠ .fetching)
      ∧ (matrixChecks mxLive i).map (fun r => (r.1, failures r.2)) = some (plainMod, []) ∧ (multiplyJob mxLive i).map (fun r => (r.1, r.2.2.1, r.2.2.2.1)) = some (0, [0, 1], true)
      ∧ (matrixChecks mxLive j).map (fun r => failures r.2) = some [] ∧ (multiplyJob mxLive j).map (fun r => r.1) = some 0
      ∧ (matrixChecks mxLive k).map (fun r => failures r.2) = some [] ∧ (multiplyJob mxLive k).map (fun r => r.1) = some 0 := by
  refine ⟨quiet_mxLive, spSettled_mxLive, ?_, by decide +kernel, by decide +kernel, by decide +kernel, by decide +kernel, by decide +kernel, by decide +kernel⟩
  intro n
  show (tgetD [(0, loaded 1 0), (1, loaded 1 0), (2, loaded 1 0), (3, loaded 1 32)] n FSlot.reset).state ≠ .fetching
  unfold tgetD tget tget tget tget tget
  repeat' split
  all_goals decide

/-- A fetch that stages its row, and one whose row has no legal mask. -/
theorem witness_TileFetchesArrive :
    let h := heldH mxLive 1
    Quiet mxLive ∧ NoStrayAtomic mxLive ∧ Trained mxLive ∧ failures (fetchChecks h 1 0 (heldG mxLive 4)) = [] ∧ (stageTile mxLive 0 0 (fetchJob mxLive h 0 (heldG mxLive 4))).toOption.isSome = true
      ∧ failures (fetchChecks h 1 0 (heldG mxLive 5)) = [] ∧ (stageTile mxLive 0 0 (fetchJob mxLive h 0 (heldG mxLive 5))).toOption = none ∧ (me mxLive).deferred = [] := by
  refine ⟨quiet_mxLive, by unfold NoStrayAtomic; decide +kernel, trained_of _ rfl rfl (by decide +kernel) (by decide +kernel), ?_⟩
  decide +kernel

theorem witness_AccordInstructionsWrite :
    let i : Instr := .agen plainMod (mxw 0 3 2)
    Quiet mxLive ∧ SpSettled mxLive ∧ (matrixChecks mxLive i).map (fun r => (r.1, failures r.2)) = some (plainMod, [])
      ∧ (accordForm mxLive i).map (fun r => (r.1, r.2.2.1)) = some (plainMod, .gen)
      ∧ (matrixChecks mxLive (.aproj plainMod (mxw 0 3 2))).map (fun r => failures r.2) = some []
      ∧ (matrixChecks mxLive (.aseek plainMod (mxw 0 3 2))).map (fun r => failures r.2) = some [] := by
  refine ⟨quiet_mxLive, spSettled_mxLive, ?_⟩
  decide +kernel

/-! ### Engines, tags, semaphores, segments -/

/-- g1 = an offset of 0x100 in the page of h1, g2 = 16 bytes at near offset 0x200, g3 = 0x200 and g4 = 256 for a link transfer at gclk 1000 (g5), g6 = tag 0's
bit, g7 = 5 for semaphore 0 that holds 9, g8 = core 1, g9 the name of an attached segment, g10 the size and g11 the image of one to create, g13 a name that
nothing has; port 2 is trained; gclk is 0. -/
def enLive : State :=
  let s := divided (live (fun x => { x with
    g := [(1, 0x100), (2, 0x1000000200), (3, 0x200), (4, 256), (5, 1000), (6, 1), (7, 5), (8, 1), (9, 7), (10, 4096), (11, 0x10000), (12, 0x8), (13, 99)]
    h := [(1, aHandle)], atts := [{ name := 7, owner := 0, write := true }], latch := true }))
  let d : DirEntry := { name := 7, owner := 0, off := 0x18000, size := 4096, state := .clean, version := 0, attach := 1, writers := 1, stamp := 0, dirty := [] }
  let s := modMyCore s (fun c => { c with dir := [d], sems := [(0, 9)], ctb := 1 })
  { s with
    segs := [{ name := 7, owner := 0, cls := 1, size := 4096, image := 0x10000, pages := [0x40000], frozen := false, version := 0, cores := [0], kernel := 0, lost := false }]
    maps := [{ pasid := 0, va := 0x10000, pa := 0x40000, perms := 7, size := 0, host := false }]
    ports := [(2, { Port.reset with delay := 3 })] }

theorem quiet_enLive : Quiet enLive := ⟨by decide, by decide +kernel⟩
theorem settled_enLive : Settled enLive := ⟨quiet_enLive, by decide +kernel⟩
theorem unlogged_enLive : Unlogged enLive enLive.cur.core enLive.cur.bank := ⟨by decide +kernel, by decide +kernel⟩

/-- Each of the five commands, and each direction of a copy, with all its checks passed. -/
theorem witness_CommandsAreAccepted :
    let ok := fun (i : Instr) => (commandForm enLive i).map (fun F => (F.x, failures F.checks)) = some (plainMod, [])
    Quiet enLive ∧ ok (.cpy plainMod (enw 1 1 2 5 0 0)) ∧ ok (.cpy plainMod (enw 1 1 2 5 0 1)) ∧ ok (.cpy plainMod (enw 0 1 2 5 0 2))
      ∧ ok (.cpyt plainMod (enw 1 1 2 5 0 0)) ∧ ok (.cfill plainMod (enw 0 0 2 5 0 0)) ∧ ok (.cfill plainMod (enw 1 0 2 5 0 1))
      ∧ ok (.lsend plainMod (lkw 0 3 4 2 5 5)) ∧ ok (.lrecv plainMod (lkw 0 3 4 2 5 5)) ∧ guardHeld enLive plainMod = true ∧ guardHeld enLive never = false := by
  refine ⟨quiet_enLive, ?_⟩
  decide +kernel

/-- A tile that is not configured, and a copy through an empty handle register. -/
theorem witness_MatrixAndCommandRefusalsTrap :
    Settled enLive ∧ guardHeld enLive plainMod = true
      ∧ (matrixChecks enLive (.tzero plainMod (mxw 0 0 0))).map (fun r => failures r.2) = some [tileBad 3]
      ∧ (commandForm enLive (.cpy plainMod (enw 3 1 2 5 0 0))).map (fun F => (failures F.checks).head?.map (fun b => b.cause)) = some (some 0x08) := by
  refine ⟨settled_enLive, ?_⟩
  decide +kernel

theorem witness_WaitsGoOnOrBlock :
    let w := fun (i : Instr) => (waitOf enLive i).map (fun r => r.2)
    Quiet enLive ∧ w (.ctwall plainMod (enw 0 6 0 0 0 0)) = some true ∧ w (.ctwany plainMod (enw 0 12 0 0 0 0)) = some false
      ∧ w (.semwait plainMod (enw 0 7 0 0 0 0)) = some true ∧ w (.semwait plainMod (enw 0 10 0 0 0 0)) = some false
      ∧ w (.lwait plainMod (lkw 0 5 0 0 0 0)) = some false ∧ w (.efence plainMod (enw 0 0 0 0 0 0)) = some true := by
  refine ⟨quiet_enLive, ?_⟩
  decide +kernel

/-- `CTWANY` of no tag; a `SEMWAIT` with `.acq` whose semaphore is there, exactly at its value, and one whose semaphore is not. -/
theorem witness_WaitsGoOnOrBlock_acquire :
    let o := { enw 0 7 0 0 0 0 with acq := true, scope := 1 }
    Settled enLive ∧ Unlogged enLive enLive.cur.core enLive.cur.bank ∧ MayBound enLive ∧ guardHeld enLive plainMod = true ∧ heldG enLive 0 = 0 ∧ o.acq = true
      ∧ semValue enLive o ≤ semHeld enLive o ∧ semHeld enLive (enw 0 10 0 0 0 0) < semValue enLive (enw 0 10 0 0 0 0) := by
  refine ⟨settled_enLive, unlogged_enLive, ?_⟩
  unfold MayBound
  decide +kernel

theorem witness_ResultsReadLiveValues :
    let r := fun (i : Instr) => (resultOf enLive i).map (fun r => r.2)
    Quiet enLive ∧ Unlogged enLive enLive.cur.core enLive.cur.bank ∧ r (.ctffr plainMod (enw 5 6 0 0 0 0)) = some (5, 2, 0)
      ∧ r (.ctffr plainMod (enw 5 12 0 0 0 0)) = some (5, 2, 64) ∧ r (.semrd plainMod (enw 5 0 0 0 0 0)) = some (5, 2, 9)
      ∧ (r (.squery plainMod (enw 5 9 0 0 0 0))).map (fun r => r.2.1) = some 4 ∧ r (.lclk plainMod (lkw 5 0 0 0 0 0)) = some (5, 1, 0) := by
  refine ⟨quiet_enLive, unlogged_enLive, ?_⟩
  decide +kernel

/-- A signal to the own core whose sum is 2^32 - 1, one that passes it by one, the remote form to core 1 of the partition, to the own core, and to core 3, which
is not of the partition. -/
theorem witness_SignalsAndTagClears :
    let s := modMe enLive (fun x => { x with g := [(1, 0xFFFFFFF6), (2, 0xFFFFFFF7), (3, 1), (4, 3)] })
    Quiet enLive ∧ Settled s ∧ Unlogged s s.cur.core s.cur.bank ∧ guardHeld s plainMod = true
      ∧ semHeld s (enw 0 1 0 0 0 0) + semValue s (enw 0 1 0 0 0 0) = 2 ^ 32 - 1 ∧ semHeld s (enw 0 2 0 0 0 0) + semValue s (enw 0 2 0 0 0 0) = 2 ^ 32
      ∧ (0x100 : BitVec 10).getLsbD 8 = true ∧ (heldG s 3).toNat % 128 ∈ coresOf s (me s).part ∧ (heldG s 3).toNat % 128 ≠ s.cur.core
      ∧ (heldG s 0).toNat % 128 = s.cur.core ∧ s.cur.core ∈ coresOf s (me s).part ∧ (heldG s 4).toNat % 128 ∉ coresOf s (me s).part := by
  refine ⟨quiet_enLive, ⟨⟨by decide, by decide +kernel⟩, by decide +kernel⟩, ⟨by decide +kernel, by decide +kernel⟩, ?_⟩
  decide +kernel

/-- A copy that can be attached, a missing one, a frozen one; an attachment to release, one with a copy pending into it, none. -/
theorem witness_SegmentsAttachAndDetach :
    let d : DirEntry := { name := 7, owner := 0, off := 0x18000, size := 4096, state := .clean, version := 0, attach := 1, writers := 1, stamp := 0, dirty := [] }
    let cold := modMyCore enLive (fun c => { c with dir := [{ d with state := .frozen }] })
    Settled enLive ∧ guardHeld enLive plainMod = true ∧ dirOf enLive 0 0 7 = some d ∧ copyHit d = true ∧ d.state ≠ .frozen
      ∧ dirOf enLive 0 0 99 = none ∧ (dirOf cold 0 0 7).map (fun d => (copyHit d, d.state)) = some (true, .frozen)
      ∧ myCopy enLive 7 = some ({ name := 7, owner := 0, write := true }, d) ∧ copyPending enLive d = false ∧ (∀ a ∈ (me enLive).atts, a.name ≠ 99) := by
  refine ⟨settled_enLive, ?_⟩
  decide +kernel

/-- A copy command into an attached segment. -/
def busy : State :=
  let s := enLive
  match exec (.cfill plainMod { enw 0 0 2 5 0 0 with b := 14 }) (modMe s (fun x => { x with g := x.g ++ [(14, 0x1000018000)] })) with
  | .next t => t
  | _ => s

theorem witness_SegmentsAttachAndDetach_pending :
    (dirOf busy 0 0 7).map (fun d => copyPending busy d) = some true := by decide +kernel

def asking (r : Request) (reason : Nat) (s : State) : State := modMe s (fun c => { c with ask := .answered r reason })

/-- A creation with room, a size of 0 that is refused, a segment to freeze, one that nothing holds to drop. -/
theorem witness_SegmentRequestsWaitForTheirAnswer :
    let s := asking (.create 99 4096) 0 enLive
    Settled enLive ∧ guardHeld enLive plainMod = true ∧ guardHeld enLive never = false ∧ (me enLive).ask = .none
      ∧ createBad enLive 99 4096 0x10000 = false ∧ createBad enLive 99 0 0x10000 = true ∧ freezeOk enLive 7 = true ∧ freezeOk enLive 99 = false
      ∧ Settled s ∧ createBad s 99 4096 0x10000 = false ∧ (me s).ask = .answered (.create 99 4096) 0
      ∧ (let v := modMe { s with nextId := s.nextId + 1 } (fun c => { c with ask := .none })
        judgeCreate v 0 99 = none ∧ spaceFor v 0 4096 = some 0x19000
          ∧ (dirOf (createAt v 99 4096 0x10000 0 0x19000 false) 0 0 99).isSome = true) := by
  refine ⟨settled_enLive, by decide +kernel, by decide +kernel, by decide +kernel, by decide +kernel, by decide +kernel, by decide +kernel, by decide +kernel, ?_⟩
  exact ⟨⟨⟨by decide, by decide +kernel⟩, by decide +kernel⟩, by decide +kernel, by decide +kernel, by decide +kernel⟩

theorem witness_SegmentRequestsWaitForTheirAnswer_drop :
    let g : Segment := { name := 99, owner := 0, cls := 1, size := 4096, image := 0x10000, pages := [0x40000], frozen := false, version := 0, cores := [], kernel := 0, lost := false }
    let s := asking (.drop 99) 0 { enLive with segs := [g] }
    let t := asking (.freeze 7) 0 enLive
    Settled s ∧ (me s).ask = .answered (.drop 99) 0 ∧ (judgeDrop s 0 99).toOption = some g ∧ Settled t ∧ freezeOk t 7 = true ∧ (myCopy t 7).isSome = true
      ∧ (me t).ask = .answered (.freeze 7) 0 ∧ (dirOf t 0 0 7).isSome = true := by
  refine ⟨⟨⟨by decide, by decide +kernel⟩, by decide +kernel⟩, by decide +kernel, by decide +kernel, ⟨⟨by decide, by decide +kernel⟩, by decide +kernel⟩, ?_⟩
  decide +kernel

theorem witness_PhasePublishesAndRefreshes :
    Settled enLive ∧ Unlogged enLive enLive.cur.core enLive.cur.bank ∧ guardHeld enLive plainMod = true ∧ guardHeld enLive never = false
      ∧ MayBound enLive ∧ gclkMoves { enLive with holdNow := 1 } = false ∧ Trained enLive
      ∧ (let s := modMe { enLive with ready := 0 } (fun x => { x with own := [⟨0, [(6 * 2 ^ 36, 7)]⟩] })
         guardHeld s plainMod = true ∧ (me s).own.any (fun w => w.bytes.any (fun b => b.1 / 2 ^ 36 / 6 != s.cur.core / 48 && s.conf.hbmStacks / 2 ^ (b.1 / 2 ^ 36) % 2 == 1)) = true) := by
  refine ⟨settled_enLive, unlogged_enLive, by decide +kernel, by decide +kernel, by unfold MayBound; decide +kernel, by decide +kernel,
    trained_of _ rfl rfl (by decide +kernel) (by decide +kernel), by decide +kernel⟩

/-! ### Traps, special registers, watches, the SY slot -/

/-- A neutral page at 0x10000 whose entry is the handler of the running context. -/
def handled (tstat : Word) (s : State) : State := modMe (inPage 0 false none [] s) (fun x => { x with hvec := 0x10000, tstat := tstat })

theorem witness_TrapsEnterHandlerOrEndKernel :
    let s := handled 0 (live id)
    let t := handled 1 (live id)
    (ctxAt s 0 0).flights = [] ∧ atomicsOf s 0 0 = [] ∧ inhibited (ctxAt s 0 0) = false ∧ handlerPlace s (ctxAt s 0 0) = some (0x10000, 0, 0x10000)
      ∧ (ctxAt t 0 0).flights = [] ∧ inhibited (ctxAt t 0 0) = true ∧ handlerPlace (live id) (ctxAt (live id) 0 0) = none := by decide +kernel

def anAside : Aside := { pend := none, loops := [], measured := true, skipWatch := true, skipBreak := false, ticked := true, traces := [] }

/-- `TRAP` with a handler; `RFE` in a neutral handler and out of one. -/
theorem witness_TrapAndReturn :
    let s := handled 0 (live id)
    let t := modMe (inPage 0 false none [] (live id)) (fun x => { x with tstat := 1, aside := some anAside })
    Settled s ∧ guardHeld s plainMod = true ∧ guardHeld s never = false ∧ inhibited (me s) = false ∧ handlerPlace s (me s) = some (0x10000, 0, 0x10000)
      ∧ s.cur.slot < 32 ∧ Settled t ∧ t.cur.gelxis = false ∧ (me t).tstat.getLsbD 0 = true
      ∧ (me t).aside = some anAside ∧ (me s).tstat.getLsbD 0 = false := by
  refine ⟨⟨⟨by decide, by decide +kernel⟩, by decide +kernel⟩, by decide +kernel, by decide +kernel, by decide +kernel, by decide +kernel, by decide,
    ⟨⟨by decide, by decide +kernel⟩, by decide +kernel⟩, rfl, by decide +kernel, by decide +kernel, by decide +kernel⟩

/-- Registers that exist and do not, one that may not be written, a write that passes its checks, a primary's register on the secondary stream. -/
theorem witness_SpecialRegistersReadAndWrite :
    Settled (live id) ∧ csrExists 0x002 = true ∧ csrExists 0x017 = false ∧ primaryCsr 0x013 = true ∧ csrWritable 0x000 = false ∧ csrExists 0x000 = true
      ∧ (csrNew (live id) (.csrw plainMod (si 0 1 0 0x003))).map (fun r => r.2.2) = some 0 ∧ failures (csrWriteChecks (live id) 0x003 0) = []
      ∧ ¬ ((live id).cur.bank = 2 ∧ primaryCsr 0x002 = true) := by
  refine ⟨⟨⟨by decide, by decide +kernel⟩, by decide +kernel⟩, ?_⟩
  decide +kernel

/-- What lands: a defined and the reserved mode, a window that is free, one that another partition holds. -/
theorem witness_SpecialRegistersReadAndWrite_landing :
    let s := { live id with windows := [(1, { Window.reset with base := 0x850 })] }
    (5 : Word).toNat % 8 < 6 ∧ (0xF : Word).toNat % 8 = 7
      ∧ (windowAt s (dieOf 0) 1).base.toNat / 2 ^ 11 % 2 = 1 ∧ (windowAt s (dieOf 0) 1).base.toNat / 2 ^ 4 % 32 ≠ (ctxAt s 0 0).part
      ∧ ¬ ((windowAt s (dieOf 0) 2).base.toNat / 2 ^ 11 % 2 = 1 ∧ (windowAt s (dieOf 0) 2).base.toNat / 2 ^ 4 % 32 ≠ (ctxAt s 0 0).part) := by decide +kernel

/-- A held window, nothing of the context in flight: a handler that serves its trap, and no handler with no window write that waits. -/
theorem witness_SpecialRegistersReadAndWrite_held :
    let s := { handled 0 (live id) with windows := [(1, { Window.reset with base := 0x850 })] }
    let t := { live id with windows := [(1, { Window.reset with base := 0x850 })] }
    (ctxAt s 0 0).flights = [] ∧ atomicsOf s 0 0 = [] ∧ inhibited (ctxAt s 0 0) = false ∧ (handlerPlace s (ctxAt s 0 0)).isSome = true
      ∧ (ctxAt t 0 0).flights = [] ∧ atomicsOf t 0 0 = [] ∧ t.winPend = []
      ∧ (windowAt s (dieOf 0) 1).base.toNat / 2 ^ 11 % 2 = 1 ∧ (windowAt s (dieOf 0) 1).base.toNat / 2 ^ 4 % 32 ≠ (ctxAt s 0 0).part
      ∧ (6 : Word).toNat % 8 = 6 := by decide +kernel

/-- A scratchpad watch that ends with the window; a global one that ends with its page, unanswered and answered. -/
theorem witness_WatchesInstallAndClear :
    let s := modMe enLive (fun x => { x with g := [(1, 0x1FFF0), (2, 0xFFF0)] })
    let t := modMe s (fun x => { x with ask := .answered (.watch 1) 0 })
    let sp : SI := si 3 0 1 0x5000F
    let gl : SI := si 3 1 2 0x1000F
    Quiet s ∧ s.sliceWatches = [] ∧ sp.imm.toNat % 2 ^ 16 ≠ 0 ∧ sp.imm.getLsbD 18 = true ∧ (heldG s 1).toNat % 16 = 0 ∧ (heldG s 1).toNat + 16 ≤ windowOf s s.cur.core
      ∧ gl.imm.getLsbD 18 = false ∧ gl.imm.toNat / 2 ^ 16 % 4 = 1 ∧ hState (heldH s 1) = 1 ∧ (heldG s 2).toNat % 16 = 0
      ∧ (heldG s 2).toNat + 16 ≤ pageBytes (hSize (heldH s 1)) ∧ (me s).ask = .none ∧ Quiet t ∧ (me t).ask = .answered (.watch 1) 0 := by
  refine ⟨⟨by decide, by decide +kernel⟩, by decide +kernel, by decide, by decide, by decide +kernel, by decide +kernel, by decide, by decide, by decide +kernel, by decide +kernel,
    by decide +kernel, by decide +kernel, ⟨by decide, by decide +kernel⟩, by decide +kernel⟩

theorem witness_SystemInstructionsAct :
    Quiet enLive ∧ (me enLive).latch = true ∧ (me (live id)).latch = false ∧ replaying enLive (me enLive).part = false
      ∧ (systemChange enLive (.logctlHw plainMod (si 5 0 0 0x000))).map (fun r => r.2.1) = some 2
      ∧ (systemChange enLive (.dstop plainMod (sr 0 0 0))).map (fun r => r.2.1) = some 1 := by
  refine ⟨quiet_enLive, ?_⟩
  decide +kernel

/-- A kernel that runs an iteration without a report. -/
def aKernel : Kernel :=
  { id := 5, pasid := 0, queue := 0, index := 0, slot := 0, ordered := false, record := false, replay := false, recBytes := [], next := 0, patience := none,
    running := [0], closed := 0, report := none }

/-- A pointer to an entry with the secondary empty and busy, and on the secondary stream. -/
theorem witness_SystemInstructionsAct_strands :
    let s := inPage 0 true none [] (withG [(1, 0x10000)])
    let busy := modCtx s 0 2 (fun x => { x with life := .ready })
    let k := modPart s 0 (fun p => { p with kernel := some aKernel })
    Settled s ∧ s.cur.bank ≠ 2 ∧ (checkPointer s (me s).pasid (heldG s 1) [0]).toOption = some 0x10000 ∧ (myCore s).sec.life = .empty
      ∧ (enterAt s (me s).pasid 0x10000).isSome = true ∧ (myCore busy).sec.life ≠ .empty ∧ Settled k
      ∧ (partAt k (me k).part).kernel = some aKernel := by
  refine ⟨⟨⟨by decide, by decide +kernel⟩, by decide +kernel⟩, by decide, by decide +kernel, by decide +kernel, by decide +kernel, by decide +kernel,
    ⟨⟨by decide, by decide +kernel⟩, by decide +kernel⟩, by decide +kernel⟩

theorem witness_SystemInstructionsAct_secondary :
    let s := { modCtx State.reset 0 2 (fun x => { x with life := .ready }) with cur := { Cur.reset with bank := 2 } }
    Settled s ∧ s.cur.bank = 2 ∧ guardHeld s plainMod = true := by
  refine ⟨⟨⟨by decide, by decide +kernel⟩, by decide +kernel⟩, rfl, by decide +kernel⟩

/-! ### The device around the work -/

/-- A configuration record: magic, version 1, a sequence number, 1,000 W, every stack, no partition. -/
def aRecord (seq : Nat) : List Byte :=
  peeks (pokeNat (pokeNat (pokeNat (pokeNat (pokeNat ([] : Memory) 0 4 0x46433951) 4 4 1) 8 4 seq) 12 2 1000) 14 2 0xFFF) 0 1024

/-- Everything of a record's validity but its signature, whose key the model leaves free (log entry 18). -/
theorem test_record_valid (h : recordSigned (aRecord 3) = true) : recordValid (aRecord 3) = true := by
  have e1 : ((aRecord 3).length == 1024) = true := by decide +kernel
  have e2 : recordZeros (aRecord 3) = true := by decide +kernel
  have e3 : mapOk (aRecord 3) = true := by decide +kernel
  unfold recordValid
  rw [e1, e2, e3, h]
  rfl

/-- The public key of RFC 8032, 7.1, test 1. -/
theorem test_ed25519_public :
    edPublic 0x607fae1c03ac3b701969327b69c54944c42cec92f44a84ba605afdef9db1619d = 0x1a5107f7681a02af2523a6daf372e10e3a0764c9d3fe4bd5b70ab18201985ad7 := by
  decide +kernel

/-- A record of no bytes is not valid. -/
theorem test_record_invalid : recordValid [] = false := rfl

def anImage (n : Nat) (ok : Bool) : FwImage := { stage := n, bytes := [1, 2, 3], valid := ok }
def aFlash : Flash := { recA := aRecord 3, recB := [], fwA := [anImage 1 true, anImage 2 true], fwB := [anImage 3 false], counters := [] }

/-- Given a signature under the free key, copy A is used for bring-up, which then starts stage after stage: one that passes, the last one failing, one absent. -/
theorem witness_DeviceComesUpAndServes (h : recordSigned (aRecord 3) = true) :
    let at_ := fun (n : Nat) => { State.reset with boot := .starting n, flash := aFlash }
    UsesRecord aFlash aFlash.recA ∧ Newer aFlash.recA aFlash.recB ∧ (∀ n, ¬ AtStage { State.reset with flash := aFlash } n)
      ∧ AtStage (at_ 1) 1 ∧ AtStage (at_ 3) 3 ∧ AtStage (at_ 4) 4
      ∧ (∀ n, n = 1 ∨ n = 2 ∨ n = 3 → ∃ f, (f ∈ aFlash.fwA ∨ f ∈ aFlash.fwB) ∧ f.stage = n)
      ∧ ∀ f, f ∈ aFlash.fwA ∨ f ∈ aFlash.fwB → f.stage ≠ 4 := by
  have hr : aFlash.recA = aRecord 3 := by simp only [aFlash]
  have hA : recordValid aFlash.recA = true := by rw [hr]; exact test_record_valid h
  have hB : recordValid aFlash.recB = false := test_record_invalid
  have hN : recordValid aFlash.recB = true → False := fun e => by rw [hB] at e; cases e
  refine ⟨Or.inl ⟨Eq.refl _, hA, fun e => (hN e).elim⟩, ⟨hA, fun e => (hN e).elim⟩, (fun n e => by cases e.2), ⟨rfl, rfl⟩, ⟨rfl, rfl⟩, ⟨rfl, rfl⟩, ?_, ?_⟩
  · rintro n (rfl | rfl | rfl) <;> simp [aFlash, anImage]
  · intro f e
    simp only [aFlash, anImage, List.mem_cons, List.not_mem_nil, or_false] at e
    rcases e with (rfl | rfl) | rfl <;> decide

/-- A draw of the module that is free, above and within the lesser of the record's limit and the last request. -/
theorem witness_DeviceComesUpAndServes_power (step : Nat) :
    let s := fun (limit : Nat) => { State.reset with conf := { State.reset.conf with host := some 7, power := limit } }
    ¬ TooMuch (s (Config.modulePower 0 step)) step ∧ (0 < Config.modulePower 0 step → TooMuch (s (Config.modulePower 0 step - 1)) step)
      ∧ (∀ n, n + 1 = Config.modulePower 0 step → TooMuch { s (n + 1) with powerReq := some n } step) := by
  refine ⟨?_, fun h => ⟨by simp, Or.inl ?_⟩, fun n h => ⟨by simp, Or.inr ⟨n, rfl, ?_⟩⟩⟩
  · rintro ⟨-, h | ⟨l, h, -⟩⟩
    · exact Nat.lt_irrefl _ h
    · cases h
  · exact Nat.sub_lt h Nat.one_pos
  · show n < Config.modulePower 0 step
    omega

/-- A message each way that returns a permit, and one that waits for it. -/
def aLink : FwLink :=
  { down := { permits := 0, sent := [{ bytes := [1], only := false }], waiting := [[7]] }, up := { permits := 0, sent := [{ bytes := [1], only := true }], waiting := [] } }

/-- A running device: a port has trained, a stack, a cluster and another port have yet to, the clock is at its slowest, a link has a message each way. -/
theorem witness_DeviceComesUpAndServes_running :
    let s := { divided (live id) with boot := .running, ready := 2 ^ 40, clockStep := 20, links := [(3, aLink)] }
    Managed s ∧ Untrained s 0 ∧ Untrained s 12 ∧ Untrained s 36 ∧ s.clockStep ≤ 20 ∧ recordValid [] = false ∧ s.flash.recA = [] ∧ s.flash.recB = []
      ∧ tget s.links 3 = some aLink ∧ s.powered = true := by
  refine ⟨⟨rfl, by decide, 40, by decide, by decide, by decide⟩, ⟨rfl, Or.inl rfl, by decide, by decide, by decide, by decide⟩,
    ⟨rfl, Or.inl rfl, by decide, by decide, by decide, by decide⟩, ⟨rfl, Or.inl rfl, by decide, by decide, by decide, by decide⟩, by decide, rfl, by decide +kernel, by decide +kernel, by decide +kernel, by decide +kernel⟩

/-! ### The mailbox -/

def aRequest (op : BitVec 8) (length : BitVec 24) (index : BitVec 16) (operand hi : BitVec 64) (payload : List Byte) : Req :=
  { source := 0, op := op, length := length, seq := 0, pasid := 0, index := index, resv := 0, operand := operand, hi := hi, payload := payload }

/-- A payload of zeros. -/
def zeroPayload (n : Nat) : List Byte := List.replicate n 0
theorem length_zeroPayload (n : Nat) : (zeroPayload n).length = n := List.length_replicate

/-- A running device with one page mapped, the host at endpoint 0. -/
def serving (host : Bool) : State :=
  { divided State.reset with
    boot := .running, gclk := 1, conf := { (divided State.reset).conf with host := some 0 }
    maps := [{ pasid := 0, va := 0x10000, pa := 0x40000, perms := 7, size := 0, host := host }] }

theorem inTurn_serving (host : Bool) (op : BitVec 8) (length : BitVec 24) (index : BitVec 16) (operand hi : BitVec 64) (payload : List Byte) :
    InTurn (serving host) (aRequest op length index operand hi payload) :=
  ⟨⟨rfl, rfl, rfl⟩, ⟨rfl, by cases host <;> decide, by cases host <;> decide +kernel⟩, by simp [NoArrivalLog, serving, divided, State.reset],
    trained_of _ rfl rfl (by cases host <;> decide +kernel) (by cases host <;> decide +kernel), rfl⟩

/-- A read in its turn of a stack in training, and of one that has failed. -/
theorem witness_MailboxServesInTurn_training :
    let r := aRequest 3 1 0 0xBFFFFFFFF 0 []
    let s := { serving false with ready := 0 }
    let f := { s with failed := 1 }
    MailboxOpen s ∧ NoArrivalLog s ∧ r.seq.toNat = tgetD s.mbox.expect r.source 0 ∧ GoodHeader r ∧ homeReached s 0 r.operand.toNat = false
      ∧ MailboxOpen f ∧ HostTurn f ∧ NoArrivalLog f ∧ homeReached f 0 r.operand.toNat = true ∧ homeFailed f 0 r.operand.toNat = true := by
  refine ⟨⟨rfl, rfl, rfl⟩, by simp [NoArrivalLog, serving, divided, State.reset], rfl, by unfold GoodHeader; decide, by decide +kernel, ⟨rfl, rfl, rfl⟩, ⟨rfl, by decide, by decide +kernel⟩,
    by simp [NoArrivalLog, serving, divided, State.reset], by decide +kernel, by decide +kernel⟩

/-- A request ahead of its turn; a write of one byte at the top of a stack, one past it, one without length; every control register; a chunk. -/
theorem witness_MailboxServesInTurn :
    let s := serving false
    (MailboxOpen s ∧ RequestRow (aRequest 3 1 0 0 0 []) (.dataRead (aRequest 3 1 0 0 0 [])) ∧ (9 : BitVec 32).toNat ≠ tgetD s.mbox.expect 0 0)
      ∧ InTurn s (aRequest 1 1 0 0xBFFFFFFFF 0 [7]) ∧ GoodHeader (aRequest 1 1 0 0xBFFFFFFFF 0 [7]) ∧ InMemory s 0xBFFFFFFFF 1 ∧ ¬ InCode s 0xBFFFFFFFF 1 ∧ ¬ InMemory s 0xBFFFFFFFF 2 ∧ Unwatched s
      ∧ InTurn s (aRequest 6 0 0x13F 5 0 []) ∧ GoodHeader (aRequest 6 0 0x13F 5 0 []) ∧ InTurn s (aRequest 4 4096 0 0 0 (zeroPayload 4112))
      ∧ (zeroPayload 4112).length = 4112 ∧ s.chunks = [] := by
  refine ⟨⟨⟨rfl, rfl, rfl⟩, by simp [RequestRow, aRequest], by decide⟩, inTurn_serving _ _ _ _ _ _ _, by unfold GoodHeader; decide, ?_, by simp [InCode, serving, divided, State.reset], ?_, ?_,
    inTurn_serving _ _ _ _ _ _ _, by unfold GoodHeader; decide, inTurn_serving _ _ _ _ _ _ _, length_zeroPayload _, rfl⟩
  · intro i hi
    obtain rfl : i = 0 := by omega
    decide
  · intro h
    exact absurd (h 1 (by decide)).2.1 (by decide)
  · simp [Unwatched, serving, divided, State.reset]

/-- A data write that covers the command word of a stopped partition, and one that ends before it. -/
theorem test_command_word_told :
    let s := modPart (serving false) 0 (fun p => { p with halt := .stopped 0 1 false, stdmpPa := 0x80000 })
    (partAt (told s 0x80000 8) 0).halt = .stopped 0 1 true ∧ (partAt (told s 0x7FFF9 14) 0).halt = .stopped 0 1 false := by decide +kernel

theorem witness_PagesFlipAndMap :
    let give := aRequest 8 0 0 0x10000 0x40000 (zeroPayload 65536)
    let map := aRequest 10 0 0x1C 0x20000 0x50000 []
    let m : DataMap := { pasid := 0, va := 0x10000, pa := 0x40000, perms := 7, size := 0, host := true }
    let s := serving true
    InTurn s give ∧ FlipFields s give ∧ FlipPlace s give ∧ NamesPage s give m ∧ give.payload.length = pageBytes m.size ∧ ¬ HoldsImage s m
      ∧ InTurn s map ∧ FlipFields s map ∧ FlipPlace s map ∧ InMemory s 0x50000 0x10000
      ∧ NamesPage (serving false) give { m with host := false } := by
  refine ⟨inTurn_serving _ _ _ _ _ _ _, ⟨rfl, by decide, rfl, by decide, by decide, rfl⟩, ⟨by decide, by decide, by decide, by decide +kernel, by simp [serving, divided, State.reset]⟩,
    by unfold NamesPage; decide +kernel, length_zeroPayload _, by simp [HoldsImage, serving, divided, State.reset], inTurn_serving _ _ _ _ _ _ _,
    ⟨rfl, by decide, rfl, by decide, by decide, rfl⟩, ⟨by decide, by decide, by decide, by decide +kernel, by simp [serving, divided, State.reset]⟩, ?_, by unfold NamesPage; decide +kernel⟩
  intro i hi
  have h1 : (0x50000 + i) / 2 ^ 36 = 0 := by omega
  have h2 : (0x50000 + i) % 2 ^ 36 < 48 * 2 ^ 30 := by omega
  exact ⟨by omega, h2, by rw [h1]; decide⟩

/-! ### Queues, launches, slots, kernels -/

/-- A ring of 16 commands at 0x90000 whose head is command 3. -/
def aQueue : Qcb :=
  { pasid := 0, queue := 1, addr := 0x80000, head := 3, tail := 4, base := 0x90000, order := 4, part := 0, cap := 7, state := 1, errSt := 0, errIx := 0 }

/-- A loop-nest record of one dimension that counts 0 to 3 by 1, patience 9. -/
def aNest : List Byte := bytesOf 4 0x4E4C3951 ++ bytesOf 2 1 ++ bytesOf 2 9 ++ bytesOf 12 0 ++ bytesOf 4 4 ++ bytesOf 4 1 ++ List.replicate 228 0

/-- A command: kind, slot, a pointer, an object's name. -/
def aCommand (kind slot ptr object : Nat) : List Byte :=
  bytesOf 1 kind ++ bytesOf 2 0 ++ bytesOf 1 slot ++ bytesOf 20 0 ++ bytesOf 8 ptr ++ bytesOf 32 object ++ List.replicate 64 0

/-- A running device whose queue 1 holds a command at its head (0x90180), with the nest at 0x40000 and slot 4 in some state. -/
def queued (kind slot ptr : Nat) (st : ModelState) : State :=
  let s := serving false
  { s with
    first := [(0x40000, 0x51), (0x40001, 0x39), (0x40002, 0x4C), (0x40003, 0x4E), (0x40004, 1), (0x40006, 9), (0x40014, 4), (0x40018, 1),
      (0x90180, BitVec.ofNat 8 kind), (0x90183, BitVec.ofNat 8 slot), (0x9019A, BitVec.ofNat 8 (ptr / 65536))]
    sched := { s.sched with cache := [aQueue] }
    slots := [(4, { ModelSlot.reset with state := st })] }

/-- A tail one past the ring and one at its end; a cached QCB and a missing one; a fetch that ends whole, short, and late. -/
theorem witness_QueuesTakeAndRunCommands :
    let s := queued 0 0 0 .free
    let f : Fetch := { id := 3, table := false, host := 0x999000, entry := 0x100, held := [] }
    let t := { s with sched := { s.sched with fetches := [f] } }
    NoneHeld s ∧ cachedQcb s 0 1 = some aQueue ∧ cachedQcb s 0 2 = none ∧ (20 + 2 ^ 32 - aQueue.head) % 2 ^ 32 = 2 ^ aQueue.order + 1 ∧ (19 + 2 ^ 32 - aQueue.head) % 2 ^ 32 = 2 ^ aQueue.order
      ∧ t.sched.fetches.find? (fun g => g.id == f.id) = some f ∧ poolFree t f.table = some (poolPlace false 0) ∧ s.sched.waiting = [] ∧ s.sched.wants = [] ∧ f.wants = []
      ∧ aQueue.state ≠ 3 ∧ aQueue.head ≠ aQueue.tail ∧ tableAt t f.entry = none := by
  refine ⟨⟨rfl, rfl, rfl⟩, by decide +kernel, by decide +kernel, by decide, by decide, by decide, ?_, rfl, rfl, rfl, by decide, by decide, by decide +kernel⟩
  have h : (List.range 4096).map (poolPlace false) = poolPlace false 0 :: (List.range 4095).map (fun n => poolPlace false (n + 1)) := by
    rw [List.range_succ_eq_map, List.map_cons, List.map_map]
    exact Eq.refl _
  show ((List.range 4096).map (poolPlace false)).find? (fun a => !(List.any ([] : List PoolObj) (fun o => o.addr == a))) = some (poolPlace false 0)
  rw [h, List.find?_cons_of_pos (by exact Eq.refl _)]

theorem witness_QueuesTakeAndRunCommands_requests :
    let s := queued 0 0 0 .free
    MailboxOpen s ∧ HostTurn s ∧ NoArrivalLog s ∧ (aRequest 2 0 1 19 0 []).seq.toNat = tgetD s.mbox.expect 0 0 ∧ GoodHeader (aRequest 2 0 1 19 0 []) := by
  refine ⟨⟨rfl, rfl, rfl⟩, ⟨rfl, by decide, by decide +kernel⟩, by simp [NoArrivalLog, queued, serving, divided, State.reset], rfl, by unfold GoodHeader; decide⟩

/-- A launch of a resident slot with its record, one of a free slot, a release of a resident and of a free slot, a no-operation. -/
theorem witness_QueuesTakeAndRunCommands_kinds :
    let b := aCommand 1 4 0x10000 0
    let s := queued 1 4 0x10000 .resident
    AtHead s 0 1 aQueue b ∧ NoneHeld s ∧ LaunchValid s aQueue b aNest ∧ ¬ ClustersReady { s with ready := 0xFFF ||| 2 ^ 52 } aQueue.part ∧ launchFault (queued 1 4 0x10000 .free) aQueue b = some 0x0004
      ∧ otherBad (aCommand 3 4 0 0) true false = false ∧ otherBad (aCommand 0 0 0 0) false false = false ∧ (loadSlot s aQueue (aCommand 2 4 0 0)).toOption = none := by
  refine ⟨⟨trained_of _ rfl rfl (by decide +kernel) (by decide +kernel), rfl, by decide, by decide, by simp [queued, serving, divided, State.reset], by decide +kernel, by decide +kernel⟩, ⟨rfl, rfl, rfl⟩,
    ⟨by decide +kernel, by decide +kernel, by decide +kernel, by decide +kernel, ⟨_, rfl⟩⟩, by decide +kernel, by decide +kernel, by decide +kernel, by decide +kernel, by decide +kernel⟩

/-- A launch that waits while its slot is released, loads again, and is there. -/
theorem witness_QueuesTakeAndRunCommands_waiting :
    let c : HeadCmd := { pasid := 0, queue := 1, index := 3, bytes := aCommand 1 4 0x10000 0, order := 0, record := aNest }
    let s := fun (st : ModelState) => { queued 1 4 0x10000 st with sched := { (queued 1 4 0x10000 st).sched with cmds := [c] } }
    NoneHeld (s .releasing) ∧ cachedQcb (s .releasing) 0 1 = some aQueue ∧ aQueue.state = 1
      ∧ (s .releasing).sched.cmds.find? (ofQueue 0 1) = some c ∧ natOfBytes (c.bytes.take 1) = 1 ∧ c.done = none
      ∧ (s .releasing).parts = [] ∧ (slotAt (s .releasing) (natOfBytes ((c.bytes.drop 3).take 1))).state = .releasing
      ∧ (slotAt (s .restoring) 4).state = .restoring ∧ (slotAt (s .resident) 4).state = .resident := by
  refine ⟨⟨rfl, rfl, rfl⟩, by decide +kernel, rfl, by decide +kernel, by decide +kernel, rfl, rfl, by decide +kernel, by decide +kernel, by decide +kernel⟩

/-- An object of one native page: its leaf is chunk 7, its root the node of that leaf, its head chunk (magic, version, one entry, the hash of the
entries) chunk 5. -/
def aRoot : BitVec 256 := 0x8767c0785eb3f79d57635cad65b9aa4e1397bb3b9d9f3afdb7b4b0b711f152a3#256
def aHead : Memory :=
  [(0, 81), (1, 57), (2, 67), (3, 79), (4, 1), (6, 1), (16, 97), (17, 78), (18, 217), (19, 144), (20, 116), (21, 181), (22, 138), (23, 214),
   (24, 10), (25, 109), (26, 183), (27, 35), (28, 101), (29, 45), (30, 50), (31, 85), (32, 187), (33, 230), (34, 25), (35, 201), (36, 149),
   (37, 114), (38, 180), (39, 209), (40, 98), (41, 139), (42, 244), (43, 182), (44, 4), (45, 161), (46, 5), (47, 22), (64, 49), (66, 1), (68, 1),
   (80, 163), (81, 82), (82, 241), (83, 17), (84, 183), (85, 176), (86, 180), (87, 183), (88, 253), (89, 58), (90, 159), (91, 157), (92, 59),
   (93, 187), (94, 151), (95, 19), (96, 78), (97, 170), (98, 185), (99, 101), (100, 173), (101, 92), (102, 99), (103, 87), (104, 157), (105, 247),
   (106, 179), (107, 94), (108, 120), (109, 192), (110, 103), (111, 135)]
def holding : State :=
  let chunk := fun (h : BitVec 256) m => ({ hash := h, bytes := m, refs := 1, verified := true } : Chunk)
  { queued 2 4 0 .free with
    first := [(0x90180, 2), (0x90183, 4), (0x901A0, 5)], chunks := [chunk 5 aHead, chunk 7 [], chunk aRoot [(0, 7)]] }

theorem test_head_chunk : (parseHead aHead).map (fun es => es.map (fun e => (e.tag, e.pages, e.root))) = some [(0x31, 1, aRoot)] := by decide +kernel
theorem test_root : nodeHash [7] = aRoot := by decide +kernel

/-- A slot load that succeeds. -/
theorem witness_QueuesTakeAndRunCommands_load :
    AtHead holding 0 1 aQueue (aCommand 2 4 0 5) ∧ (loadSlot holding aQueue (aCommand 2 4 0 5)).toOption.map (fun r => (r.2.1.length, r.2.2)) = some (1, []) := by
  refine ⟨⟨trained_of _ rfl rfl (by decide +kernel) (by decide +kernel), rfl, by decide, by decide, by simp [holding, queued, serving, divided, State.reset], by decide +kernel, by decide +kernel⟩, ?_⟩
  decide +kernel

/-- The published value of SHA-512/256 of "abc" (FIPS 180-4). -/
theorem test_sha512_256_abc : (sha256 [0x61, 0x62, 0x63]).take 8 = [0x53, 0x04, 0x8E, 0x26, 0x81, 0x94, 0x1E, 0xF9] := by decide +kernel

/-- Queue 1 has its launch under way in slot 4, its partition idle with its cluster ready. -/
def launching : State :=
  let s := queued 1 4 0x10000 .resident
  let c : HeadCmd := { pasid := 0, queue := 1, index := 3, bytes := aCommand 1 4 0x10000 0, order := 0, record := aNest }
  { s with ready := BitVec.ofNat 64 (2 ^ 53 - 1), sched := { s.sched with cmds := [c] } }

def ranKernel (report : Option (List Byte)) : Kernel := { aKernel with queue := 1, index := 3, slot := 4, recBytes := aNest, next := 4, running := [], report := report }

/-- A kernel whose four iterations have retired. -/
def ran (report : Option (List Byte)) : State := modPart launching 0 (fun p => { p with kernel := some (ranKernel report) })

theorem witness_KernelsStartAndComplete :
    (partAt launching 0).kernel = none ∧ (partAt launching 0).halt = .none ∧ (partMap launching 0).isSome = true
      ∧ ClustersReady launching 0 ∧ ¬ ClustersReady { launching with ready := 0 } 0 ∧ untakenLaunch { launching with ready := 0 } 0 = false
      ∧ (admitted { launching with ready := 0 } 0).isSome = true ∧ untakenLaunch launching 0 = false ∧ (admitted launching 0).isSome = true
      ∧ (partAt (ran none) 0).kernel = some (ranKernel none) ∧ (ran none).sched.waiting = [] ∧ (ran none).sched.wants = [] ∧ (ran none).sched.fetches = [] ∧ cachedQcb (ran none) 0 1 = some aQueue
      ∧ ((ran none).sched.cmds.find? (ofQueue 0 1)).isSome = true
      ∧ (ranKernel none).next = nestTotal (ranKernel none).recBytes ∧ (∀ core ∈ coresOf (ran none) 0, (ctxAt (ran none) core 2).life = .empty)
      ∧ (ran none).reds = [] ∧ (ran none).atomics = [] ∧ (∀ e ∈ contextsOf (ran (some [])) 0, (ctxAt (ran (some [])) e.1 e.2).life = .discarded)
      ∧ (partAt (ran (some [])) 0).kernel = some (ranKernel (some [])) := by decide +kernel

/-! ### Iterations, retirement, epochs -/

def runningKernel (ordered : Bool) (patience : Option Nat) : Kernel := { ranKernel none with ordered := ordered, next := 2, patience := patience }
def running (ordered : Bool) (patience : Option Nat) : State := modPart launching 0 (fun p => { p with kernel := some (runningKernel ordered patience) })

/-- Free cores, in either order of assignment, before and after the patience; a core that is the lowest-indexed. -/
theorem witness_IterationsAreAssigned :
    let s := running false (some 0)
    HeadIs s 0 (runningKernel false (some 0)) 2 ∧ HeadIs (running true none) 0 (runningKernel true none) 2 ∧ (∀ c ∈ coresOf s 0, (coreAt s c).active < 2)
      ∧ coresOf s 0 = [0, 1] ∧ FreeCore s 0 ∧ FreeCore s 1 ∧ namesOf aNest 2 = [] ∧ FirstFree s 0 0 (fun c => residents s 0 c [] = 0)
      ∧ FirstFree s 0 0 (fun c => ∀ d ∈ [0, 1], FreeCore s d → residents s 0 d [] ≤ residents s 0 c []) := by
  have f0 : FreeCore (running false (some 0)) 0 := ⟨by decide +kernel, by decide +kernel⟩
  refine ⟨⟨by decide +kernel, rfl, by decide +kernel, rfl, by decide +kernel, rfl, by decide +kernel⟩, ⟨by decide +kernel, rfl, by decide +kernel, rfl, by decide +kernel, rfl, by decide +kernel⟩,
    by decide +kernel, by decide +kernel, f0, ⟨by decide +kernel, by decide +kernel⟩, by decide +kernel, ⟨[], [1], by decide +kernel, f0, rfl, by simp⟩,
    ⟨[], [1], by decide +kernel, f0, fun d _ _ => Nat.le_refl 0, by simp⟩⟩

/-- No free core while both banks of both cores run. -/
theorem witness_IterationsAreAssigned_busy :
    let busy := fun (s : State) (e : Nat × Nat) => modCtx s e.1 e.2 (fun x => { x with life := .ready })
    let s := [(0, 0), (0, 1), (1, 0), (1, 1)].foldl busy (running false none)
    HeadIs s 0 (runningKernel false none) 2 ∧ (∀ c ∈ coresOf s 0, (coreAt s c).active < 2) ∧ (∀ core ∈ coresOf s 0, ¬ FreeCore s core) ∧ (runningKernel false none).patience = none
      ∧ HeadIs ([(0, 0), (0, 1), (1, 0), (1, 1)].foldl busy (running false (some 4))) 0 (runningKernel false (some 4)) 2 := by
  refine ⟨⟨by decide +kernel, rfl, by decide +kernel, rfl, by decide +kernel, rfl, by decide +kernel⟩, by decide +kernel, ?_, rfl,
    ⟨by decide +kernel, rfl, by decide +kernel, rfl, by decide +kernel, rfl, by decide +kernel⟩⟩
  unfold FreeCore
  decide +kernel

/-- A contribution of the running kernel that waits for its epoch. -/
def aRed (ordinal : Nat) : Atomic := { anAtomic with op := 11, kernel := 5, ordinal := ordinal, index := ordinal }

/-- A context at its end pointer with nothing in flight, one with a result in flight, and the secondary stream's. -/
theorem witness_StrandsRetireAndEpochsClose :
    let s := { modCtx (modCtx launching 0 0 (fun x => { x with life := .ending })) 0 2 (fun x => { x with life := .ending }) with turn := 1 }
    let t := modCtx s 0 0 (fun x => { x with flights := [newFlight s 3] })
    (coreAt t 0).frozen = false ∧ (∀ f ∈ (ctxAt t 0 0).flights, flightReached t 0 f = true) ∧
    Unlogged s 0 0 ∧ Unlogged s 0 2 ∧ (ctxAt s 0 0).trace = false ∧ ReadyToRetire s 0 0 ∧ ReadyToRetire s 0 2 ∧ (ctxAt t 0 0).life = .ending ∧ (ctxAt t 0 0).swapped = false ∧ (ctxAt t 0 0).flights ≠ [] := by
  refine ⟨by decide +kernel, by decide +kernel, ⟨by decide +kernel, by decide +kernel⟩, ⟨by decide +kernel, by decide +kernel⟩, by decide +kernel, by unfold ReadyToRetire; decide +kernel,
    by unfold ReadyToRetire; decide +kernel, by decide +kernel, by decide +kernel, by decide +kernel⟩

/-- A recording kernel past its last iteration with two contributions of epoch 0, the later ordinal first. -/
theorem witness_StrandsRetireAndEpochsClose_epoch :
    let k : Kernel := { ranKernel none with record := true }
    let s := { modPart launching 0 (fun p => { p with kernel := some k, rmode := 3 }) with reds := [aRed 2, aRed 1] }
    (partAt s 0).kernel = some k ∧ holdsReductions s 0 = true ∧ k.next = nestTotal k.recBytes
      ∧ (∀ e ∈ contextsOf s 0, e.2 ≠ 2 → (ctxAt s e.1 e.2).kernel = k.id → k.closed < (ctxAt s e.1 e.2).epoch)
      ∧ s.reds.filter (fun a => a.kernel == k.id && decide (a.epoch ≤ k.closed)) = [aRed 2, aRed 1] ∧ (aRed 1).ordinal < (aRed 2).ordinal
      ∧ [aRed 2].filter (fun a => a.kernel == k.id && decide (a.epoch ≤ k.closed)) = [aRed 2] := by decide +kernel

/-- An ordered kernel past its last iteration, whose one iteration has passed two boundaries: an epoch closes with the next boundary, and another is still to
close before it. -/
theorem witness_PhasePublishesAndRefreshes_epoch :
    let k : Kernel := { ranKernel none with ordered := true, running := [0] }
    let s := modMe { modPart launching 0 (fun p => { p with kernel := some k, rmode := 1 }) with cur := Cur.reset }
      (fun x => { x with life := .ready, kernel := 5, epoch := 2 })
    Settled s ∧ Unlogged s s.cur.core s.cur.bank ∧ EpochFirst s ∧ guardHeld s plainMod = true ∧ semValue s (enw 0 0 0 0 0 0) ≤ semHeld s (enw 0 0 0 0 0 0) := by
  refine ⟨⟨⟨by decide +kernel, by decide +kernel⟩, by decide +kernel⟩, ⟨by decide +kernel, by decide +kernel⟩, ?_⟩
  unfold EpochFirst
  decide +kernel

/-! ### The leaf controllers and the Still -/

def aSegment (lost frozen : Bool) : Segment :=
  { name := 7, owner := 0, cls := 1, size := 4096, image := 0, pages := [0x50000], frozen := frozen, version := 3, cores := [], kernel := 0, lost := lost }
def aCopy (st : CopyState) : DirEntry :=
  { name := 7, owner := 0, off := 0x18000, size := 4096, state := st, version := 0, attach := 0, writers := 0, stamp := 0, dirty := [] }

/-- Context 1 of core 0 is parked. -/
def parked (w : Wait) : State := modCtx (divided State.reset) 0 1 (fun x => { x with life := .parked w, tval := 0x1234, tcause := 0x0905 })

/-- An attach miss of a name without a segment, of a lost one, of one whose copy is there, of one to load with room and without. -/
theorem witness_LeafServesContexts :
    let s := parked (.attach 7 false)
    let t := { s with segs := [aSegment false false] }
    (ctxAt s 0 1).life = .parked (.attach 7 false) ∧ segOf s 0 7 = none ∧ segOf t 0 7 = some (aSegment false false)
      ∧ segOf { s with segs := [aSegment true false] } 0 7 = some (aSegment true false)
      ∧ copyOf (setCore t 0 { coreAt t 0 with dir := [aCopy .clean] }) 0 (aSegment false false) = some (aCopy .clean) ∧ copyOf t 0 (aSegment false false) = none
      ∧ (∀ e ∈ t.cores, e.1 ≠ 0 → e.2.dir.find? (fun d => d.owner == 0 && d.name == 7) = none)
      ∧ (roomFor t 0 4096).isSome = true ∧ (roomFor t 0 0x40000).isSome = false := by decide +kernel

/-- A handle whose page is unmapped, the host's, the device's; a code page without a mapping and with one; a log with and without room to spill. -/
theorem witness_LeafServesContexts_pages :
    let h := fun (s : State) => modCtx s 0 1 (fun x => { x with h := [(4, mkHandle 0 0 false 0x0A 0 0x10000 0 3 0)] })
    let m := fun (host : Bool) => ({ pasid := 0, va := 0x10000, pa := 0x40000, perms := 7, size := 0, host := host } : DataMap)
    let s := h (parked (.handle 4))
    let log := fun (lim : Word) =>
      let s := parked (.log 2 0 [5, 6])
      setLogRegs s 0 1 2 { logRegs s 0 1 2 with hw := 0x40, lim := 0x100, slim := lim, pa := 0x1000, spa := 0x9000 }
    (ctxAt s 0 1).life = .parked (.handle 4) ∧ hVa (tgetD (ctxAt s 0 1).h 4 0) = 0x10000 ∧ findMap s 0 0x10000 = none
      ∧ findMap { s with maps := [m true] } 0 0x10000 = some (m true) ∧ findMap { s with maps := [m false] } 0 0x10000 = some (m false)
      ∧ (ctxAt s 0 1).tcause.toNat % 256 = 0x05 ∧ (ctxAt (modCtx s 0 1 (fun x => { x with tcause := 0x90B })) 0 1).tcause.toNat % 256 = 0x0B
      ∧ codePage s 0 0x10000 = none ∧ codePage { s with code := [codeAt 0x10000 0] } 0 0x10000 = some (codeAt 0x10000 0)
      ∧ (spillLog (log 0) 0 1 2 [5, 6]).isSome = false ∧ (spillLog (log 0x1000) 0 1 2 [5, 6]).map (fun u => (ctxAt u 0 1).life) = some (.parked (.log 2 0 [5, 6])) := by
  decide +kernel

/-- A request of a blocked bundle; a drop of a name without a segment and a creation of one that exists; a load under way. -/
theorem witness_LeafServesContexts_requests :
    let asks := fun (r : Request) => modCtx (divided State.reset) 0 1 (fun x => { x with life := .ready, ask := .waiting r })
    let d := aCopy .loading
    let s := divided { State.reset with cores := [(0, { Core.reset with dir := [d] })], segs := [aSegment false false] }
    (ctxAt (asks (.drop 7)) 0 1).ask = .waiting (.drop 7) ∧ segOf (asks (.drop 7)) 0 7 = none ∧ segOwned { asks (.create 7 4096) with segs := [aSegment false false] } 0 7 ≠ none
      ∧ (coreAt s 0).sp.wf = true ∧ (coreAt s 0).dir.filter (fun e => e.name == d.name && e.state == .loading) = [d] ∧ (coreAt s 0).dir.Nodup
      ∧ d.owner < 24 ∧ d.size = (aSegment false false).size ∧ segOwned s d.owner d.name = some (aSegment false false) ∧ Trained s := by
  refine ⟨by decide +kernel, by decide +kernel, by decide +kernel, by decide +kernel, by decide +kernel, by decide +kernel, by decide +kernel, by decide +kernel,
    by decide +kernel, trained_of _ rfl rfl (by decide +kernel) (by decide +kernel)⟩

def aFlyReport : FlyReport := { id := 44, core := 0, bank := 1, landed := 0, report := { cause := 0x23, tval := 5, slot := 31, due := 0, wp := 0 } }

/-- A chunk that passes its check and one that does not; a page in use and one that is not; a collision count at its bound; a report on its way. -/
theorem witness_PagesReportsAndBubblesArrive :
    let c := { codeAt 0x10000 0 with src := .chunk 5, present := false }
    let s := { divided State.reset with code := [c] }
    let t := { s with chunks := [{ hash := 5, bytes := pageBytesOf 0, refs := 1, verified := true }] }
    let u := modCtx { divided State.reset with code := [codeAt 0x10000 0] } 0 0 (fun x => { x with life := .ready, seq := { x.seq with page := 0x10000, home := 0x10000, entering := false } })
    s.code.find? (fun c => c.pasid == 0 && c.va == 0x10000 && !c.present) = some c ∧ checkedChunk s 5 = none ∧ (checkedChunk t 5).isSome = true
      ∧ pageUsed u 0 0x10000 = true ∧ pageUsed s 0 0x10000 = false ∧ [aFlyReport].find? (fun e => e.id == aFlyReport.id) = some aFlyReport ∧ aFlyReport.report.cause ≠ 0x22 := by
  decide +kernel

/-- A foreign page with a context waiting for it, its rewriting in the overlay and not. -/
theorem witness_PagesReportsAndBubblesArrive_still :
    let c := { codeAt 0x10000 0x2A with src := .chunk 5 }
    let s := { parked (.still 0x10000) with code := [c] }
    let o : Overlay := { key := overlayKey c, leaves := [5], used := 0 }
    let t := { s with overlay := [o], chunks := [{ hash := 5, bytes := pageBytesOf 0, refs := 1, verified := true }] }
    codePage s 0 0x10000 = some c ∧ isForeign c = true ∧ t.overlay.find? (fun o => o.key == overlayKey c) = some o ∧ storedPages t o = some [(5, pageBytesOf 0)] ∧ storedPages { t with chunks := [] } o = none
      ∧ rising t.cores = true ∧ (ctxAt t 0 1).life = .parked (.still 0x10000) ∧ pageUsed t 0 0x10000 = false ∧ s.overlay = []
      ∧ stillWaiters s 0 0x10000 = [(0, 1)] := by
  decide +kernel

/-! ### Halts -/

/-- Partition 0 with a running kernel, a halt and an iteration of it on core 0. -/
def halted (h : Halt) (k : Option Kernel) (aside : Bool) : State :=
  let s := modCtx (divided State.reset) 0 1 (fun x => { x with life := .ready, swapped := aside })
  modPart s 0 (fun p => { p with kernel := k, halt := h, stdmpPa := 0x80000 })

/-- The command word of the dump area holds a value. -/
def wordAt (v : Byte) (s : State) : State := { s with first := [(0x80000, v)] }

/-- A flight that reads bad data in slot 7, which a machine check spoils. -/
def spoiled : Flight := { newFlight State.reset 3 with slot := 7, last := 3, reads := [(0x40, 8)] }

theorem witness_HaltsFreezeAndResume :
    let s := halted .none (some aKernel) false
    let p := halted .preempting (some aKernel) false
    let a := halted .preempting (some aKernel) true
    (partAt s 0).kernel.isSome = true ∧ (partAt s 0).halt = .none ∧ (partAt p 0).halt = .preempting ∧ allAside p 0 = false
      ∧ allAside a 0 = true ∧ endingKernel a 0 = false ∧ (partAt a 0).halt = .preempting
      ∧ endingKernel (halted .preempting (some { aKernel with report := some [] }) false) 0 = true ∧ Trained p := by
  refine ⟨by decide +kernel, by decide +kernel, by decide +kernel, by decide +kernel, by decide +kernel, by decide +kernel, by decide +kernel, by decide +kernel,
    trained_of _ rfl rfl (by decide +kernel) (by decide +kernel)⟩

/-- A scratchpad reader in flight; an address of each source that loses data; a cached line that own bytes hold, and one that they do not. -/
theorem witness_HaltsFreezeAndResume_check :
    let s := modCtx (halted .none (some aKernel) false) 0 1 (fun x => { x with flights := [spoiled], own := [⟨0, [(0x12345, 7)]⟩] })
    (ctxAt s 0 1).life ≠ .empty ∧ (ctxAt s 0 1).flights.find? (readsScratch ((0x40 : Word).toNat % 2 ^ 52)) = some spoiled
      ∧ spoiled.late = .none ∧ (ctxAt s 0 1).flights = [spoiled] ∧ (0x40 : Word).toNat / 2 ^ 60 = 0 ∧ (0x4000000000000000 : Word).toNat / 2 ^ 60 = 4
      ∧ (0x5000000000000000 : Word).toNat / 2 ^ 60 = 5 ∧ (0x1000000000012340 : Word).toNat / 2 ^ 60 = 1
      ∧ (ctxAt s 0 1).own.any (fun o => o.bytes.any (fun e => e.1 / 8 == (0x1000000000012340 : Word).toNat % 2 ^ 52 / 8)) = true
      ∧ (ctxAt s 0 1).own.any (fun o => o.bytes.any (fun e => e.1 / 8 == (0x1000000000012348 : Word).toNat % 2 ^ 52 / 8)) = false
      ∧ (ctxAt s 0 1).part = 0 ∧ (partAt s 0).kernel = some aKernel ∧ aKernel.report = none := by decide +kernel

/-- A dirty and a clean copy of a segment that stands. -/
theorem witness_HaltsFreezeAndResume_copy :
    let written := { aCopy .dirty with dirty := [0x40] }
    let s := fun (d : DirEntry) => setCore { halted .none none false with segs := [aSegment false false] } 0 { coreAt (divided State.reset) 0 with dir := [d] }
    (coreAt (s written) 0).dir.find? (fun d => d.name == 7 && d.state != .loading) = some written ∧ written.dirty ≠ []
      ∧ (coreAt (s (aCopy .clean)) 0).dir.find? (fun d => d.name == 7 && d.state != .loading) = some (aCopy .clean) ∧ (aCopy .clean).dirty = []
      ∧ (aCopy .clean).owner < 24 ∧ segOwned (s written) 0 7 = some (aSegment false false) := by decide +kernel

/-- A stop before and at its cycle; a stopped partition whose command word is 1, 2 and 0. -/
theorem witness_HaltsFreezeAndResume_stop :
    let s := halted (.stopping 100 0 1 2) (some aKernel) false
    let t := fun (v : Byte) => wordAt v (halted (.stopped 0 1 true) (some aKernel) true)
    (partAt s 0).halt = .stopping 100 0 1 2 ∧ { s with gclk := 299 }.gclk < 100 + 200 ∧ 100 + 200 ≤ { s with gclk := 300 }.gclk ∧ endingKernel s 0 = false
      ∧ (partAt (t 1) 0).halt = .stopped 0 1 true ∧ commandWord (t 1) 0 = 1 ∧ commandWord (t 2) 0 = 2 ∧ commandWord (t 0) 0 = 0
      ∧ (partAt (t 2) 0).kernel = some aKernel ∧ coresOf (t 2) 0 = [0, 1] ∧ (ctxAt (t 2) 0 1).part = 0 := by
  unfold commandWord
  decide +kernel

/-! ### Commands -/

def cmdOf (id : Nat) (k : CmdKind) : Cmd :=
  { id := id, bank := 1, tag := 5, kind := k, acq := false, rel := false, scope := 1, wait := none, signal := none, reads := [], writes := [], started := false,
    status := 0, failAt := 0, seen := { core := none, die := none, device := none }, near := [], alt := [], moved := 0, total := 0, part := 0, pasid := 0, kernel := 0, born := 0 }
def copyKind (dir near len base size far farCore : Nat) : CmdKind := .cpy dir near len base size far farCore 512 false false 0

/-- A core with four bytes of scratchpad written and a list of commands, its strand in bank 1. -/
def commanding (cs : List Cmd) : State :=
  let s := modCtx (divided State.reset) 0 1 (fun x => { x with life := .ready })
  setCore s 0 { coreAt s 0 with wcyc := 2, sp := [(0x100, 1), (0x101, 2), (0x103, 4)], cmds := cs }

def first8 : Cmd := cmdOf 9 (.cfill false 0 8 0)

/-- What keeps a command unstarted: a semaphore, an earlier command's range; and one that may start. -/
theorem witness_CommandsStartAndComplete :
    let c := cmdOf 8 (copyKind 0 0x100 4 0x10000 65536 0x40 0)
    let w := { c with wait := some (4, 3) }
    let r := { c with writes := [⟨0, 0, 0, 4⟩] }
    let o := { first8 with reads := [⟨0, 0, 3, 8⟩] }
    IsCommand (commanding [first8, c]) 0 c ∧ { c with born := 1 }.born + 2 > (coreAt (commanding [first8, c]) 0).wcyc.toNat ∧ mayStart (commanding [first8, c]) 0 c = true ∧ c.acq = false ∧ isLink c = false
      ∧ IsCommand (commanding [first8, w]) 0 w ∧ (tgetD (coreAt (commanding [first8, w]) 0).sems 4 0).toNat < 3
      ∧ IsCommand (commanding [o, r]) 0 r ∧ o ∈ earlier r (coreAt (commanding [o, r]) 0).cmds ∧ conflicts o r = true := by
  unfold IsCommand
  decide +kernel

/-- Started commands of each kind that moves without a wait, their core's bytes settled; the far core of a copy exists. -/
theorem witness_CommandsStartAndComplete_kinds :
    let run := fun (c : Cmd) => { c with started := true, near := [(0x100, 1), (0x101, 2), (0x103, 4)] }
    let ok := fun (c : Cmd) => IsCommand (commanding [run c]) 0 (run c) ∧ Plain (run c)
      ∧ (coreAt (commanding [run c]) 0).watches = [] ∧ Unwatched (commanding [run c]) ∧ (coreAt (commanding [run c]) 0).sp.wf = true
    ok (cmdOf 8 (copyKind 1 0x100 4 0x10000 65536 0x40 0)) ∧ ok (cmdOf 8 (copyKind 2 0x100 4 0 0 0x60 3)) ∧ ok (cmdOf 8 (.cfill false 0x100 5 0x1122334455667788))
      ∧ ok { cmdOf 8 (copyKind 0 0x100 2 0x10000 65536 0x40 0) with alt := [(0, 0x100, 7), (0, 0x101, 8)] }
      ∧ (let c := run (cmdOf 8 (copyKind 1 0x100 4 0x10000 65536 0x40 0)); NearSettled (commanding [c]) 0 c)
      ∧ (let c := { run (cmdOf 8 (copyKind 2 0x100 4 0 0 0x60 3)) with alt := [(3, 0x60, 1), (3, 0x61, 2), (3, 0x62, 0), (3, 0x63, 4)] }
         IsCommand (commanding [c]) 0 c ∧ (coreAt (commanding [c]) 3).sp.wf = true ∧ (coreAt (commanding [c]) 3).watches = [] ∧ c.alt.length = 4
           ∧ c.alt[3]? = some (3, 0x60 + 3, 4)) := by
  unfold IsCommand Plain NearSettled Unwatched
  decide +kernel

/-- A started fill of global memory whose stack is in training, and has failed; a device that has trained. -/
theorem witness_CommandsStartAndComplete_training :
    let c := { cmdOf 8 (.cfill true 0x40000 8 0) with started := true, writes := [⟨2, 0, 0x40000, 8⟩] }
    let s := { commanding [c] with ready := 0 }
    IsCommand s 0 c ∧ Plain c ∧ cmdReached s 0 c = false ∧ cmdReached { s with failed := 1 } 0 c = true ∧ (cmdHomes c).any (homeFailed { s with failed := 1 } 0) = true
      ∧ (let d := { cmdOf 8 (copyKind 2 0x100 4 0 0 0x60 48) with started := true, writes := [⟨1, 48, 0x60, 4⟩] }
         cmdReached { commanding [d] with ready := 0 } 0 d = false ∧ (cmdDies d).any (bridgeFailed { commanding [d] with failed := 2 ^ 52 } 0) = true)
      ∧ Trained (commanding [c]) := by
  refine ⟨by unfold IsCommand; decide +kernel, by unfold Plain; decide +kernel, by decide +kernel, by decide +kernel, by decide +kernel, by decide +kernel,
    trained_of _ rfl rfl (by decide +kernel) (by decide +kernel)⟩

/-- A transfer that failed and signals its own core, at the bound of a semaphore and below it, and another core. -/
theorem witness_CommandsStartAndComplete_links :
    let c := { cmdOf 8 (.lrecv 1 2 0x100 512 50) with status := 0x0B, failAt := 2, signal := some (false, 0, 4, 5) }
    let d := { c with signal := some (false, 3, 4, 5) }
    let s := fun (c : Cmd) (v : BitVec 32) => setCore (commanding [c]) 0 { coreAt (commanding [c]) 0 with sems := [(4, v)] }
    IsCommand (s c 1) 0 c ∧ isLink c = true ∧ c.total = 0 ∧ c.status ≠ 0 ∧ IsCommand (s d 1) 0 d ∧ NotOvertaken (s c 1) 0 4 5
      ∧ (tgetD (coreAt (s c 1) 0).sems 4 0).toNat + 5 < 2 ^ 32 ∧ 2 ^ 32 ≤ (tgetD (coreAt (s c 0xFFFFFFFB) 0).sems 4 0).toNat + 5 := by
  unfold IsCommand NotOvertaken
  decide +kernel

/-! ### Signals, peers, links -/

def aSignal : Signal := { id := 70, core := 0, bank := 1, target := 3, sem := 4, inc := 5 }

theorem witness_SignalsPeersAndLinksArrive :
    let s := fun (v : BitVec 32) => setCore { commanding [] with signals := [aSignal], boot := .running } 3 { coreAt (commanding []) 3 with sems := [(4, v)] }
    (s 1).signals.find? (fun e => e.id == aSignal.id) = some aSignal ∧ signalReady (s 1) aSignal = true
      ∧ bridgeFailed (s 1) (dieOf 0) (dieOf 3) = false ∧ bridgeFailed { s 1 with failed := 2 ^ 52 } (dieOf 0) (dieOf 48) = true
      ∧ (tgetD (coreAt (s 0xFFFFFFFA) 3).sems 4 0).toNat + 5 < 2 ^ 32 ∧ 2 ^ 32 ≤ (tgetD (coreAt (s 0xFFFFFFFB) 3).sems 4 0).toNat + 5
      ∧ (s 1).powered = true ∧ (s 1).boot = .running ∧ (s 1).peers = [] ∧ NoArrivalLog (s 1) ∧ partOfCore (s 1) 3 = some 1 ∧ partOfCore (s 1) 1 = some 0
      ∧ partOfCore (s 1) 5 = none ∧ partOfCore (s 1) 0 = some 0 ∧ 0x17FF8 + 8 ≤ programEnd (s 1) 3 ∧ ¬ (0x17FF8 + 9 ≤ programEnd (s 1) 3) ∧ (coreAt (s 1) 3).sp.wf = true := by
  unfold NoArrivalLog
  decide +kernel

/-- A send whose first flit misses its cycle, waits for it, and goes; a receive that takes a first flit, the last one and one past its length, and misses. -/
theorem witness_SignalsPeersAndLinksArrive_links :
    let c := { cmdOf 8 (.lsend 1 2 0x100 512 50) with started := true }
    let m := { c with moved := 1 }
    let r := { cmdOf 8 (.lrecv 1 2 0x100 512 50) with started := true }
    let q := { r with total := 3 }
    let s := fun (c : Cmd) (was now : Nat) => { commanding [c] with gclkWas := was, gclk := now }
    IsCommand (s c 50 60) 0 c ∧ c.moved < 512 / 256 ∧ 50 ≤ (s c 50 60).gclkWas ∧ (s c 10 49).gclk < 50 + 64 * c.moved / 75 ∧ 50 + 64 * c.moved / 75 ≤ (s c 10 50).gclk
      ∧ IsCommand (s m 60 60) 0 m ∧ m.moved ≠ 0 ∧ spView (s m 60 60) 0 m.bank 0 (16 + m.tag) = (coreAt (s m 60 60) 0).sp
      ∧ (receives (s r 40 50)).find? (fun e => takesFlit (s r 40 50) 1 2 0 e.1 e.2) = some (0, r) ∧ (receives (s q 50 51)).find? (fun e => takesFlit (s q 50 51) 1 2 2 e.1 e.2) = some (0, q)
      ∧ (∀ e ∈ (s r 10 49).cores, ∀ k ∈ e.2.cmds, takesFlit (s r 10 49) 1 2 0 e.1 k = false) ∧ IsCommand (s r 50 51) 0 r ∧ IsCommand (s q 50 51) 0 q
      ∧ (coreAt (s r 40 50) 0).sp.wf = true := by
  unfold IsCommand
  decide +kernel

/-! ### Steps and encodings -/

/-- The next step issues the bundle of a one-word instruction from a page of core 0. -/
def aboutTo (v : Nat) : State := modCtx (State.reset.withFetchWord 64 v) 0 0 (fun x => { x with g := [(1, 5), (2, 7), (4, 9)] })
def aboutPage : CodePage := (codePage (aboutTo 0x00204300) 0 (ctxAt (aboutTo 0x00204300) 0 0).seq.page).getD (codeAt 0 0)

def addWord : SlotWord := { slot := 0, off := 4, instr := .add plainMod (sr 3 1 2) }
def addBundle : Bundle := { size := 8, anchor := false, drain := false, marker := none, words := [addWord] }

/-- `ADD` g3, g1, g2 stands at the program counter of the context whose turn it is. -/
theorem witness_StepRunsDecoded :
    AboutToIssue (unscheduled (aboutTo 0x00204300) []) 0 0 aboutPage addBundle addWord ∧ (aboutTo 0x00204300).agenda = .bundleIssue 0 :: [] := by
  have hp : (parseBundle ⟨pageTag aboutPage.bytes == 0x31, false, (aboutTo 0x00204300).conf.features⟩ (unitAt aboutPage.bytes)
      (ctxAt (aboutTo 0x00204300) 0 0).seq.off).toOption = some addBundle := by decide +kernel
  refine ⟨⟨by decide +kernel, by decide +kernel, by decide +kernel, by decide +kernel, by decide +kernel, ?_, by unfold Unlogged; decide +kernel, by decide +kernel, by decide +kernel,
    by decide +kernel, by decide +kernel, by decide +kernel, by decide +kernel, by decide +kernel, by decide +kernel, ?_, rfl, Or.inl rfl⟩, by decide +kernel⟩
  · have h : (ctxAt (unscheduled (aboutTo 0x00204300) []) 0 0).dec = none := by decide +kernel
    intro d e
    rw [h] at e
    cases e
  · show parseBundle ⟨pageTag aboutPage.bytes == 0x31, false, (aboutTo 0x00204300).conf.features⟩ (unitAt aboutPage.bytes)
      (ctxAt (aboutTo 0x00204300) 0 0).seq.off = .ok addBundle
    revert hp
    cases parseBundle ⟨pageTag aboutPage.bytes == 0x31, false, (aboutTo 0x00204300).conf.features⟩ (unitAt aboutPage.bytes)
      (ctxAt (aboutTo 0x00204300) 0 0).seq.off with
    | error e => intro h; cases h
    | ok b => intro h; cases h; rfl

/-- An answer is a next state that a test accepts. -/
def answersIn (a : Answer) (f : State → Bool) : Bool := match a with | .next t => f t | _ => false

theorem answersIn_next {a : Answer} {f : State → Bool} (h : answersIn a f = true) : ∃ t, a = .next t ∧ f t = true := by
  cases a with
  | next t => exact ⟨t, rfl, h⟩
  | fault r => cases h
  | refused r => cases h

/-- `ADD` runs there. -/
theorem witness_StepRunsDecoded_runs :
    let t := latchedState (unscheduled (aboutTo 0x00204300) []) 0 0 aboutPage addBundle addWord
    isTrap addWord.instr = false ∧ fullLog t = none ∧ ∃ v, exec addWord.instr (aimed t addWord) = .next v ∧
      (v.cur.out == .ran && v.cur.hit == none && (coreAt (finishBundle t v) 0).sec.life == .empty && (List.range 3).all (fun n =>
        !recording (finishBundle t v) (ctxAt (finishBundle t v) 0 n).part && !replaying (finishBundle t v) (ctxAt (finishBundle t v) 0 n).part)) = true :=
  ⟨rfl, by decide +kernel, answersIn_next (by decide +kernel)⟩

/-- A scheduled device step that issues no bundle, one that the model chooses, and a device without supply. -/
theorem witness_StepRunsDecoded_events :
    let s := { State.reset with agenda := [.peerSignalArrival 7 9 0 3 4 5] }
    s.agenda = .peerSignalArrival 7 9 0 3 4 5 :: []
      ∧ (∃ t, happen (.peerSignalArrival 7 9 0 3 4 5) (unscheduled s []) = .next t ∧ (t.issued == false) = true)
      ∧ State.reset.agenda = [] ∧ State.reset.powered = true ∧ (∃ t, happen (nextEvent State.reset) State.reset = .next t ∧ (t.issued == false) = true)
      ∧ { State.reset with powered := false }.agenda = [] ∧ { State.reset with powered := false }.powered = false :=
  ⟨rfl, answersIn_next (by decide +kernel), rfl, rfl, answersIn_next (by decide +kernel), rfl, rfl⟩

/-- A word with a prefix, in each slot of its table. -/
theorem witness_EncodeThenDecode :
    let i : Instr := .add (withPfx 0 false true 0) (sr 3 1 2)
    i.WellFormed ∧ (wordOf i).map (fun e => e.1) = some (tableOf .s0) ∧ encode i ≠ [] := by
  unfold Instr.WellFormed
  decide +kernel

/-- What every step keeps holds at reset. -/
theorem inv_reset : State.reset.Inv := ⟨by decide, by decide, rfl, fun _ => rfl⟩

theorem witness_StepKeepsInvariant :
    State.reset.Inv ∧ ∃ t, step (aboutTo 0x00204300) = .next t ∧ (decide (t.turn < 96) && decide (t.clockStep ≤ 20)) = true :=
  ⟨inv_reset, answersIn_next (by decide +kernel)⟩

end Sys2Proof.Tests
end

section
/-! SUPPORT. What is read of a table in rising order, of a context after a change of any context of its core, and of the cores after a change of other
fields. -/
namespace Sys2Proof.Proofs
open Sys2Proof.Machine Sys2Proof.Laws

/-! ### Tables in rising order -/

variable {α : Type}

theorem le_of_mem_risingFrom (t : Machine.Table α) {lo k : Nat} {v : α} (h : risingFrom lo t = true) (hm : (k, v) ∈ t) : lo ≤ k := by
  induction t generalizing lo with
  | nil => simp at hm
  | cons e r ih =>
    obtain ⟨i, w⟩ := e
    simp only [risingFrom, Bool.and_eq_true, decide_eq_true_eq] at h
    obtain ⟨hlo, hr⟩ := h
    rcases List.mem_cons.mp hm with he | hm
    · obtain ⟨rfl, -⟩ := Prod.mk.inj he
      exact hlo
    · have := ih hr hm
      omega

/-- In a table in rising order every entry is the one that its key names. -/
theorem tget_of_mem_risingFrom (t : Machine.Table α) {lo k : Nat} {v : α} (h : risingFrom lo t = true) (hm : (k, v) ∈ t) : tget t k = some v := by
  induction t generalizing lo with
  | nil => simp at hm
  | cons e r ih =>
    obtain ⟨i, w⟩ := e
    simp only [risingFrom, Bool.and_eq_true, decide_eq_true_eq] at h
    obtain ⟨-, hr⟩ := h
    rcases List.mem_cons.mp hm with he | hm
    · obtain ⟨rfl, rfl⟩ := Prod.mk.inj he
      simp [tget]
    · have : i ≠ k := by
        have := le_of_mem_risingFrom r hr hm
        omega
      simp [tget, this, ih hr hm]

/-- A listed core of a table in rising order is an entry with what `coreAt` reads. -/
theorem mem_cores_coreAt {s : State} {core : Nat} (h : rising s.cores = true) (hm : core ∈ s.cores.map (fun e => e.1)) :
    (core, coreAt s core) ∈ s.cores := by
  obtain ⟨⟨n, c⟩, he, rfl⟩ := List.mem_map.mp hm
  have : tget s.cores n = some c := tget_of_mem_risingFrom s.cores h he
  simpa [coreAt, tgetD, this] using he

/-! ### Contexts -/

theorem mem_banks {b : Nat} : b ∈ [0, 1, 2] ↔ b < 3 := by
  simp only [List.mem_cons, List.not_mem_nil, or_false]
  omega

/-- What a context is after a change of one: changed when it is that one, and as before when it is another. -/
theorem ctxAt_modCtx (s : State) (c d : Nat) {a b : Nat} (f : Ctx → Ctx) (ha : a < 3) (hb : b < 3) :
    ctxAt (modCtx s d b f) c a = if c = d ∧ a = b then f (ctxAt s c a) else ctxAt s c a := by
  by_cases hc : c = d
  · subst hc
    by_cases hab : a = b
    · subst hab
      simp
    · simp [hab, modCtx, ctxAt_setCtx_bank s c _ ha hb hab]
  · simp [hc, modCtx, ctxAt_setCtx_core s a b _ hc]

/-- A context reads the same in two states with the same cores. -/
theorem ctxAt_of_cores {s t : State} (h : t.cores = s.cores) (core bank : Nat) : ctxAt t core bank = ctxAt s core bank := by
  simp [ctxAt, coreAt, h]

end Sys2Proof.Proofs
end

section
/-! PROOF. Code pages: paging in and replacing (R11, R70, R83). -/
namespace Sys2Proof.Proofs
open Sys2Proof.Machine Sys2Proof.Laws Sys2Proof.Claims

/-! ### Paging in (R11, R70) -/

theorem exec_codePageInDone (pasid page : Nat) (s : State) : exec (.codePageInDone pasid page) s = execCodePageInDone pasid page s := rfl

/-- Paging in changes the mappings of the page and wakes the contexts that wait for it. -/
theorem pageIn_eq_wakeReaders (s : State) (pasid page : Nat) (m : Memory) :
    pageIn s pasid page m = wakeReaders { s with code := s.code.map (fun e =>
      if e.pasid = pasid ∧ e.va = page then { e with present := true, checked := false, bytes := m } else e) } pasid page := by
  have hgo (x : Ctx) : (if (x.pasid == pasid || page ≥ endPage) = true then
      (if (x.life == .parked (.codePage page)) = true then { x with life := .ready } else x) else x) =
      if (x.pasid = pasid ∨ endPage ≤ page) ∧ x.life = .parked (.codePage page) then { x with life := .ready } else x := by
    by_cases hp : x.pasid = pasid ∨ endPage ≤ page <;> simp [hp]
  simp only [pageIn, wakeReaders, hgo]
  simp only [Bool.and_eq_true, beq_iff_eq]

theorem pageInFrom_checked {s : State} {c : CodePage} {h : BitVec 256} {m : Memory} (hs : c.src = .chunk h) (hm : checkedChunk s h = some m) :
    pageInFrom s c = pageIn (markVerified s [h]) c.pasid c.va m := by
  simp [pageInFrom, pageChunk, hs, hm]

theorem pageInFrom_unchecked {s : State} {c : CodePage} {h : BitVec 256} (hs : c.src = .chunk h) (hm : checkedChunk s h = none) :
    pageInFrom s c = s := by
  simp [pageInFrom, pageChunk, hs, hm]

/-- A page that stands for a chunk of its image is no native page, so no entry of the overlay is judged: it is paged in from its chunk. -/
theorem execCodePageInDone_chunk {s : State} {pasid page : Nat} {c : CodePage} {h : BitVec 256}
    (hf : s.code.find? (fun c => c.pasid == pasid && c.va == page && !c.present) = some c) (hs : c.src = .chunk h) :
    execCodePageInDone pasid page s = .next (pageInFrom s c) := by
  have hn : isNative c = false := by simp [isNative, hs]
  have ho : ((pageChunk c).bind (fun h => if (checkedChunk s h).isSome then none
      else s.overlay.find? (fun o => isNative c && o.leaves.contains h))) = none := by
    simp [pageChunk, hs, hn]
  simp only [execCodePageInDone, hf, ho]

/-- What a search for a page that is not there finds is a mapping of that page. -/
theorem place_of_find_absent {l : List CodePage} {pasid page : Nat} {c : CodePage}
    (hf : l.find? (fun c => c.pasid == pasid && c.va == page && !c.present) = some c) : c.pasid = pasid ∧ c.va = page := by
  have hc := List.find?_some hf
  simp only [Bool.and_eq_true, beq_iff_eq] at hc
  exact hc.1

/-! ### Replacing (R83) -/

theorem exec_pageReplace (pasid page : Nat) (s : State) : exec (.pageReplace pasid page) s = execPageReplace pasid page s := rfl

/-- What the firmware makes of a mapping whose page nothing uses (R83): its pending change takes effect, or it goes from device memory. -/
def replaced (pasid page : Nat) (c : CodePage) : CodePage :=
  match c.next with
  | some (src, m) => if c.pasid = pasid ∧ c.va = page then
      { c with src := src, bytes := m, checked := false, next := none, origin := if isNative c then c.origin else some (c.src, c.bytes) } else c
  | none => if c.pasid = pasid ∧ c.va = page ∧ reclaimable c = true then { c with present := false, checked := false } else c

theorem execPageReplace_used {s : State} {pasid page : Nat} (h : pageUsed s pasid page = true) : execPageReplace pasid page s = .next s := by
  simp [execPageReplace, h]

theorem execPageReplace_free {s : State} {pasid page : Nat} (h : pageUsed s pasid page = false) :
    execPageReplace pasid page s = .next { s with code := s.code.map (replaced pasid page) } := by
  have hfix (c : CodePage) : (if (c.pasid != pasid || c.va != page) = true then c
      else if c.next.isSome = true then takeChange c
      else if reclaimable c = true then { c with present := false, checked := false } else c) = replaced pasid page c := by
    by_cases hp : c.pasid = pasid
    · by_cases hv : c.va = page
      · cases hn : c.next <;> simp [replaced, takeChange, hp, hv, hn]
      · cases hn : c.next <;> simp [replaced, hp, hv, hn]
    · cases hn : c.next <;> simp [replaced, hp, hn]
  simp only [execPageReplace, h, hfix, Bool.false_eq_true, if_false]

end Sys2Proof.Proofs
end

section
/-! PROOF. The Still: what installing a native page leaves of the page's mapping, which contexts go on, and whose kernels end (R75 to R83). -/
namespace Sys2Proof.Proofs
open Sys2Proof.Machine Sys2Proof.Laws Sys2Proof.Claims

theorem exec_stillRewriteDone (pasid page : Nat) (s : State) : exec (.stillRewriteDone pasid page) s = execStillRewriteDone pasid page s := rfl

/-! ### The contexts that wait (R75) -/

/-- A context waits for the Still at an entry of the page. -/
def WaitsAt (x : Ctx) (page : Nat) : Prop := ∃ entry, x.life = .parked (.still entry) ∧ entry.toNat / 4096 * 4096 = page

/-- A context goes on at its saved entry: it is ready and enters the page anew. -/
def Enters (x : Ctx) : Prop := x.life = .ready ∧ x.seq.entering = true

theorem stillWaiters_of_cores {s t : State} (h : t.cores = s.cores) (pasid page : Nat) : stillWaiters t pasid page = stillWaiters s pasid page := by
  simp only [stillWaiters, h]

theorem mem_stillWaiters {s : State} {pasid page core bank : Nat} (hr : rising s.cores = true) (hb : bank < 3)
    (hc : core ∈ s.cores.map (fun e => e.1)) (hp : (ctxAt s core bank).pasid = pasid) (hw : WaitsAt (ctxAt s core bank) page) :
    (core, bank) ∈ stillWaiters s pasid page := by
  obtain ⟨entry, hl, he⟩ := hw
  refine List.mem_flatMap.mpr ⟨(core, coreAt s core), mem_cores_coreAt hr hc, ?_⟩
  refine List.mem_map.mpr ⟨bank, List.mem_filter.mpr ⟨mem_banks.mpr hb, ?_⟩, rfl⟩
  have hl' : (ctxIn (coreAt s core) bank).life = .parked (.still entry) := hl
  have hp' : (ctxIn (coreAt s core) bank).pasid = pasid := hp
  simp [hl', hp', he]

theorem bank_of_mem_stillWaiters {s : State} {pasid page : Nat} {w : Nat × Nat} (h : w ∈ stillWaiters s pasid page) : w.2 < 3 := by
  obtain ⟨e, -, he⟩ := List.mem_flatMap.mp h
  obtain ⟨b, hb, rfl⟩ := List.mem_map.mp he
  exact mem_banks.mp (List.mem_filter.mp hb).1

/-! ### Going on -/

theorem resume_enters {s : State} {core bank page : Nat} (h : WaitsAt (ctxAt s core bank) page) : Enters (ctxAt (resume s core bank) core bank) := by
  obtain ⟨entry, hl, -⟩ := h
  simp [resume, hl, Enters]

/-- Another context that goes on leaves a context alone. -/
theorem resume_other {s : State} {c d a b : Nat} (ha : a < 3) (hb : b < 3) (h : (c, a) ≠ (d, b)) : ctxAt (resume s d b) c a = ctxAt s c a := by
  have : ¬ (c = d ∧ a = b) := by simpa using h
  simp only [resume, ctxAt_modCtx s c d _ ha hb, if_neg this]

/-- A context that goes on is not turned from its place by a later going on. -/
theorem resume_keeps_enters {s : State} {c d a b : Nat} (ha : a < 3) (hb : b < 3) (h : Enters (ctxAt s c a)) : Enters (ctxAt (resume s d b) c a) := by
  by_cases hw : (c, a) = (d, b)
  · obtain ⟨rfl, rfl⟩ := Prod.mk.inj hw
    simpa [resume, h.1] using h
  · rwa [resume_other ha hb hw]

/-- The contexts of a list go on, one after the other. -/
def resumeAll (l : List (Nat × Nat)) (s : State) : State := l.foldl (fun s w => resume s w.1 w.2) s

theorem resumeAll_hist (l : List (Nat × Nat)) (s : State) : (resumeAll l s).hist = s.hist := by
  induction l generalizing s with
  | nil => rfl
  | cons w r ih => exact ih (resume s w.1 w.2)

theorem resumeAll_code (l : List (Nat × Nat)) (s : State) : (resumeAll l s).code = s.code := by
  induction l generalizing s with
  | nil => rfl
  | cons w r ih => exact ih (resume s w.1 w.2)

theorem resumeAll_keeps_enters {l : List (Nat × Nat)} {s : State} {c a : Nat} (ha : a < 3) (hl : ∀ w ∈ l, w.2 < 3) (h : Enters (ctxAt s c a)) :
    Enters (ctxAt (resumeAll l s) c a) := by
  induction l generalizing s with
  | nil => exact h
  | cons w r ih =>
    obtain ⟨hw, hr⟩ := List.forall_mem_cons.mp hl
    exact ih hr (resume_keeps_enters ha hw h)

/-- Each context of the list that waits for the page goes on. -/
theorem resumeAll_enters {l : List (Nat × Nat)} {s : State} {c a page : Nat} (hl : ∀ w ∈ l, w.2 < 3) (hm : (c, a) ∈ l)
    (h : WaitsAt (ctxAt s c a) page) : Enters (ctxAt (resumeAll l s) c a) := by
  induction l generalizing s with
  | nil => simp at hm
  | cons w r ih =>
    obtain ⟨hw, hr⟩ := List.forall_mem_cons.mp hl
    have ha : a < 3 := hl _ hm
    by_cases he : (c, a) = w
    · have hs : Enters (ctxAt (resume s w.1 w.2) c a) := he ▸ resume_enters h
      exact resumeAll_keeps_enters (l := r) ha hr hs
    · have hm : (c, a) ∈ r := (List.mem_cons.mp hm).resolve_left he
      exact ih hr hm (by rwa [resume_other ha hw he])

/-! ### Installing (R77, R83) -/

/-- The mapping of a page that nothing uses, once the home page of its overlay entry is installed. -/
def nativeOf (c : CodePage) (leaf : BitVec 256) (home : Memory) : CodePage :=
  { c with src := .native leaf, bytes := home, present := true, checked := false, origin := some (c.src, c.bytes) }

/-- What installing the home page of an entry makes of each mapping while nothing uses the page of `c`. -/
def installed (c : CodePage) (leaf : BitVec 256) (home : Memory) (e : CodePage) : CodePage :=
  if e.pasid = c.pasid ∧ e.va = c.va then
    { e with src := .native leaf, bytes := home, present := true, checked := false, origin := some (c.src, c.bytes) }
  else e

/-- The mappings of an entry's annex pages (R400). -/
def annexPages (key : List Byte) (annexes : List (BitVec 256 × Memory)) : List CodePage :=
  (annexes.zip (List.range annexes.length)).map (fun a =>
    { pasid := 0, va := annexVa (annexSlot key) (a.2 + 1), src := .native a.1.1, present := true, checked := false, bytes := a.1.2, next := none })

theorem installed_self (c : CodePage) (leaf : BitVec 256) (home : Memory) : installed c leaf home c = nativeOf c leaf home := by
  simp [installed, nativeOf]

@[simp] theorem installed_pasid (c : CodePage) (leaf : BitVec 256) (home : Memory) (e : CodePage) : (installed c leaf home e).pasid = e.pasid := by
  unfold installed
  split <;> rfl

@[simp] theorem installed_va (c : CodePage) (leaf : BitVec 256) (home : Memory) (e : CodePage) : (installed c leaf home e).va = e.va := by
  unfold installed
  split <;> rfl

theorem va_of_mem_annexPages {key : List Byte} {annexes : List (BitVec 256 × Memory)} {a : CodePage} (h : a ∈ annexPages key annexes) :
    ∃ i, i < annexes.length ∧ a.va = annexVa (annexSlot key) (i + 1) := by
  obtain ⟨⟨p, i⟩, hp, rfl⟩ := List.mem_map.mp h
  exact ⟨i, List.mem_range.mp (List.of_mem_zip hp).2, rfl⟩

theorem isForeign_nativeOf (c : CodePage) (leaf : BitVec 256) (home : Memory) : isForeign (nativeOf c leaf home) = false := by
  simp [isForeign, isBlf, isNative, nativeOf]

@[simp] theorem install_cores (s : State) (c : CodePage) (key : List Byte) (ps : List (BitVec 256 × Memory)) : (install s c key ps).cores = s.cores := by
  cases ps <;> rfl

@[simp] theorem install_hist (s : State) (c : CodePage) (key : List Byte) (ps : List (BitVec 256 × Memory)) : (install s c key ps).hist = s.hist := by
  cases ps <;> rfl

/-- A search is not turned aside by leaving out what it passes over, or by a change of the elements that it cannot tell. -/
theorem find?_map_filter {β : Type} {l : List β} {p q : β → Bool} {f : β → β} {c : β} (hq : ∀ e, p e = true → q e = true)
    (hf : ∀ e, p (f e) = p e) (h : l.find? p = some c) : ((l.filter q).map f).find? p = some (f c) := by
  have hpq : (fun e => decide (q e = true ∧ p e = true)) = p := by
    funext e
    by_cases hp : p e = true
    · simp [hp, hq e hp]
    · simp [hp]
  rw [List.find?_map, show p ∘ f = p from funext hf, List.find?_filter, hpq, h]
  rfl

/-- The code mappings after an entry is installed for a page that nothing uses. -/
theorem install_code {s : State} {c : CodePage} (key : List Byte) (leaf : BitVec 256) (home : Memory) (annexes : List (BitVec 256 × Memory))
    (hu : pageUsed s c.pasid c.va = false) : (install s c key ((leaf, home) :: annexes)).code =
      (s.code.filter (fun e => !(annexPages key annexes).any (fun a => a.va == e.va))).map (installed c leaf home) ++ annexPages key annexes := by
  have hfix (e : CodePage) : installed c leaf home e = if (e.pasid == c.pasid && e.va == c.va) = true then
      { e with src := .native leaf, bytes := home, present := true, checked := false, origin := some (c.src, c.bytes) } else e := by
    simp only [installed, Bool.and_eq_true, beq_iff_eq]
  simp only [install, hu, Bool.false_eq_true, if_false, funext hfix]
  rfl

/-- An overlay entry's annexes lie elsewhere than the page, and nothing uses the page: then installing the entry makes the page native. -/
theorem codePage_install {s : State} {c : CodePage} {key : List Byte} (leaf : BitVec 256) (home : Memory) {annexes : List (BitVec 256 × Memory)}
    (hc : codePage s c.pasid c.va = some c) (ha : ∀ i, i < annexes.length → annexVa (annexSlot key) (i + 1) ≠ c.va)
    (hu : pageUsed s c.pasid c.va = false) :
    codePage (install s c key ((leaf, home) :: annexes)) c.pasid c.va = some (nativeOf c leaf home) := by
  rw [codePage, install_code key leaf home annexes hu, List.find?_append, find?_map_filter ?annexes ?place hc, installed_self, Option.some_or]
  case annexes =>
    intro e he
    simp only [Bool.and_eq_true, beq_iff_eq] at he
    have : ∀ a ∈ annexPages key annexes, a.va ≠ e.va := by
      intro a hm hv
      obtain ⟨i, hi, hva⟩ := va_of_mem_annexPages hm
      exact ha i hi (by rw [← hva, hv, he.1])
    simpa using this
  case place => simp

/-- The contexts that wait for a page that is native go on. -/
theorem stillResume_native {s : State} {pasid page : Nat} {c : CodePage} (hc : codePage s pasid page = some c) (hn : isForeign c = false) :
    stillResume s pasid page = resumeAll (stillWaiters s pasid page) s := by
  simp [stillResume, hc, hn, resumeAll]

/-- A foreign page whose entry stands and passes its check is installed, and its contexts go on (R11, R77). -/
theorem execStillRewriteDone_stored {s : State} {pasid page : Nat} {c : CodePage} {o : Overlay} {ps : List (BitVec 256 × Memory)}
    (hw : stillWaiters s pasid page ≠ []) (hc : codePage s pasid page = some c) (hf : isForeign c = true)
    (ho : s.overlay.find? (fun o => o.key == overlayKey c) = some o) (hp : storedPages s o = some ps) :
    execStillRewriteDone pasid page s = .next (stillResume (install s c (overlayKey c) ps) pasid page) := by
  simp [execStillRewriteDone, hw, hc, hf, ho, hp]

/-- A foreign page without an entry is rewritten (R77). -/
theorem execStillRewriteDone_missing {s : State} {pasid page : Nat} {c : CodePage} (hw : stillWaiters s pasid page ≠ [])
    (hc : codePage s pasid page = some c) (hf : isForeign c = true) (ho : s.overlay.find? (fun o => o.key == overlayKey c) = none) :
    execStillRewriteDone pasid page s = .next (runStill s c) := by
  simp [execStillRewriteDone, hw, hc, hf, ho]

/-- A foreign page whose entry fails its check is rewritten without that entry (R11). -/
theorem execStillRewriteDone_bad {s : State} {pasid page : Nat} {c : CodePage} {o : Overlay} (hw : stillWaiters s pasid page ≠ [])
    (hc : codePage s pasid page = some c) (hf : isForeign c = true) (ho : s.overlay.find? (fun o => o.key == overlayKey c) = some o)
    (hp : storedPages s o = none) : execStillRewriteDone pasid page s = .next (runStill (discardEntry s o) c) := by
  simp [execStillRewriteDone, hw, hc, hf, ho, hp]

/-! ### A rewrite that fails (R76, R80) -/

/-- The kernel of a context that waits for a rewrite ends with reason 6, as its trap 0x04 says (R76). -/
def rewriteFailed (s : State) (core bank : Nat) : State :=
  let x := ctxAt s core bank
  endKernel s core bank 6 (x.tcause.toNat / 256 % 32) 0x04 x.tval x.epc

theorem discardEntry_cores (s : State) (o : Overlay) : (discardEntry s o).cores = s.cores := rfl

/-- The rewrite of a page that one context waits for fails: it is counted (R387), and the context's kernel ends. -/
theorem runStill_fails {s : State} {c : CodePage} {core bank : Nat} (hr : rewrite c = none) (hw : stillWaiters s c.pasid c.va = [(core, bank)]) :
    runStill s c = rewriteFailed (bump s 0x1C4 1) core bank := by
  have hb : stillWaiters (bump s 0x1C4 1) c.pasid c.va = [(core, bank)] := hw
  simp [runStill, hr, stillFailed, hb, rewriteFailed, bits]

/-! ### The steps of the Still -/

/-- The contexts that wait for a foreign page go on when its entry, which passes its check, is installed (R11, R75, R77). -/
theorem stored_entry_resumes {s : State} {c : CodePage} {o : Overlay} {leaf : BitVec 256} {home : Memory} {annexes : List (BitVec 256 × Memory)}
    (hw : stillWaiters s c.pasid c.va ≠ []) (hc : codePage s c.pasid c.va = some c) (hf : isForeign c = true)
    (ho : s.overlay.find? (fun o => o.key == overlayKey c) = some o) (hp : storedPages s o = some ((leaf, home) :: annexes))
    (ha : ∀ i, i < annexes.length → annexVa (annexSlot o.key) (i + 1) ≠ c.va) (hu : pageUsed s c.pasid c.va = false) :
    ∃ u, execStillRewriteDone c.pasid c.va s = .next (resumeAll (stillWaiters s c.pasid c.va) u)
      ∧ nativeOf c leaf home ∈ u.code ∧ u.cores = s.cores ∧ u.hist = s.hist := by
  have hk : o.key = overlayKey c := by simpa using List.find?_some ho
  rw [hk] at ha
  have hi := codePage_install leaf home hc ha hu
  refine ⟨install s c (overlayKey c) ((leaf, home) :: annexes), ?_, List.mem_of_find?_eq_some hi, install_cores .., install_hist ..⟩
  rw [execStillRewriteDone_stored hw hc hf ho hp, stillResume_native hi (isForeign_nativeOf c leaf home),
    stillWaiters_of_cores (install_cores ..)]

end Sys2Proof.Proofs
end

section
/-! PROOF. The secondary's bubble and a report that lands (R129, R348, R385), and the statement about pages, reports and bubbles. -/
namespace Sys2Proof.Proofs
open Sys2Proof.Machine Sys2Proof.Laws Sys2Proof.Claims

theorem exec_secondaryBubble (core : Nat) (s : State) : exec (.secondaryBubble core) s = execSecondaryBubble core s := rfl

theorem exec_impreciseReportArrival (id : Nat) (s : State) : exec (.impreciseReportArrival id) s = execImpreciseReportArrival id s := rfl

theorem execSecondaryBubble_due {s : State} {core : Nat} (h : 4096 ≤ (coreAt s core).collide) (hb : (coreAt s core).bubble = false) :
    execSecondaryBubble core s = .next (bump (setCore s core
      { coreAt s core with bubble := true, collide := 0, secins := (coreAt s core).secins + 1 }) 0x1C7 1) := by
  have hc : ¬ (coreAt s core).collide < 4096 := by omega
  simp [execSecondaryBubble, hc, hb]

/-- A report of a watch lands with its skid, the wall cycles since the write that it met (R385, R386). -/
theorem landReport_eq_reportLanded (s : State) (f : FlyReport) :
    landReport s f = reportLanded s f (if f.report.cause = 0x22 then
      { f.report with wp := f.report.wp ||| BitVec.ofNat 64 (((coreAt s f.core).wcyc.toNat - f.landed) % 256 * 2 ^ 40) } else f.report) := by
  simp only [landReport, reportLanded, beq_iff_eq, ge_iff_le]

end Sys2Proof.Proofs

open Sys2Proof Sys2Proof.Machine Sys2Proof.Laws Sys2Proof.Claims Sys2Proof.Proofs

/-- Settles O51: each step by the lemma that says what it does; for the Still's, an installed entry makes the page native, so that every context that waits
for it goes on. -/
theorem pagesReportsAndBubblesArrive : Obligations.PagesReportsAndBubblesArrive := by
  unfold Obligations.PagesReportsAndBubblesArrive Becomes Answers
  refine ⟨?pageIn, ?replace, ?still, ?bubble, ?report⟩
  case pageIn =>
    intro s pasid page c h hf hs
    obtain ⟨hp, hv⟩ := place_of_find_absent hf
    rw [exec_codePageInDone, execCodePageInDone_chunk hf hs]
    refine ⟨fun hm => by rw [pageInFrom_unchecked hs hm], fun m hm => ?_⟩
    rw [pageInFrom_checked hs hm, hp, hv, pageIn_eq_wakeReaders]
    rfl
  case replace =>
    intro s pasid page
    rw [exec_pageReplace]
    refine ⟨execPageReplace_used, fun hu => ⟨_, execPageReplace_free hu, _, rfl, List.length_map .., ?_⟩⟩
    intro i c hi
    rw [List.getElem?_map, hi]
    rfl
  case still =>
    intro s pasid page c hc hf
    refine ⟨?_, ?_⟩
    · rintro o leaf home annexes ho hp rfl rfl hr ⟨core, bank, hb, hcore, hpasid, hw⟩ ha hu
      have hm := mem_stillWaiters hr hb hcore hpasid hw
      obtain ⟨u, he, hn, hcores, hhist⟩ := stored_entry_resumes (List.ne_nil_of_mem hm) hc hf ho hp ha hu
      refine ⟨_, he, ⟨nativeOf c leaf home, by rwa [resumeAll_code], rfl, rfl, rfl, rfl, rfl, rfl, rfl⟩, ?_, by rw [resumeAll_hist, hhist]⟩
      rintro core bank ⟨hb, hcore, hpasid, hw⟩
      have hm := mem_stillWaiters hr hb hcore hpasid hw
      rw [← ctxAt_of_cores hcores] at hw
      exact resumeAll_enters (fun _ => bank_of_mem_stillWaiters) hm hw
    · rintro hr core bank rfl rfl hw
      have hne : stillWaiters s c.pasid c.va ≠ [] := by simp [hw]
      rw [exec_stillRewriteDone]
      refine ⟨fun ho => ?_, fun o ho hp => ?_⟩
      · rw [execStillRewriteDone_missing hne hc hf ho, runStill_fails hr hw]
        rfl
      · rw [execStillRewriteDone_bad hne hc hf ho hp, runStill_fails hr (stillWaiters_of_cores (discardEntry_cores s o) .. |>.trans hw)]
        rfl
  case bubble =>
    intro s core hc hb
    exact execSecondaryBubble_due hc hb
  case report =>
    intro s f hf
    rw [exec_impreciseReportArrival, execImpreciseReportArrival, hf]
    exact congrArg _ (landReport_eq_reportLanded _ f)

end

section
/-! PROOF. What a publication, the release of holdings and the end of a wait leave of the state (R319, R338, R374, R379). -/
namespace Sys2Proof.Proofs
open Sys2Proof.Machine Sys2Proof.Laws Sys2Proof.Claims

/-- What every step of a fold keeps, the fold keeps. -/
theorem foldl_keeps {σ β γ : Type} (p : σ → γ) {f : σ → β → σ} (h : ∀ s b, p (f s b) = p s) (l : List β) (s : σ) : p (l.foldl f s) = p s := by
  induction l generalizing s with
  | nil => rfl
  | cons b r ih => rw [List.foldl_cons, ih, h]

/-! ### Holdings that are released (R374) -/

@[simp] theorem ctxAt_modDir (s : State) (core owner name : Nat) (f : DirEntry → DirEntry) (c n : Nat) :
    ctxAt (modDir s core owner name f) c n = ctxAt s c n := by
  by_cases h : c = core
  · subst h
    rcases n with _ | _ | n <;> simp [modDir, ctxAt, ctxIn]
  · simp [modDir, ctxAt, coreAt_setCore_other _ _ h]

/-- Releasing an attachment touches the directory of its core and the table of segments. -/
theorem releaseAttach_keeps {γ : Type} (p : State → γ) (hdir : ∀ s core owner name f, p (modDir s core owner name f) = p s)
    (hseg : ∀ s owner name f, p (modSeg s owner name f) = p s) (hstamp : ∀ s, p (nextStamp s) = p s) (s : State) (core : Nat) (a : Attach) :
    p (releaseAttach s core a) = p s := by
  unfold releaseAttach
  split
  · rfl
  · rw [hdir]
    split
    · exact hstamp s
    · rw [hseg, hstamp]

/-- What a context holds once its holdings are released. -/
theorem ctxAt_releaseHoldings (s : State) {core bank c n : Nat} (hn : n < 3) (hb : bank < 3) :
    ctxAt (releaseHoldings s core bank) c n =
      if c = core ∧ n = bank then { ctxAt s c n with atts := [], fslots := [] } else ctxAt s c n := by
  have hk : ∀ t : State, ctxAt ((ctxAt s core bank).atts.foldl (fun s a => releaseAttach s core a) t) c n = ctxAt t c n :=
    foldl_keeps (fun t => ctxAt t c n)
      (fun t a => releaseAttach_keeps (fun t => ctxAt t c n) (fun _ _ _ _ _ => ctxAt_modDir ..) (fun _ _ _ _ => rfl) (fun _ => rfl) t core a) _
  simp only [releaseHoldings, ctxAt_modCtx _ c core _ hn hb, hk]

@[simp] theorem releaseHoldings_hist (s : State) (core bank : Nat) : (releaseHoldings s core bank).hist = s.hist :=
  foldl_keeps (fun t : State => t.hist)
    (fun t a => releaseAttach_keeps (fun t => t.hist) (fun _ _ _ _ _ => rfl) (fun _ _ _ _ => rfl) (fun _ => rfl) t core a) (ctxAt s core bank).atts s

@[simp] theorem releaseHoldings_parts (s : State) (core bank : Nat) : (releaseHoldings s core bank).parts = s.parts :=
  foldl_keeps (fun t : State => t.parts)
    (fun t a => releaseAttach_keeps (fun t => t.parts) (fun _ _ _ _ _ => rfl) (fun _ _ _ _ => rfl) (fun _ => rfl) t core a) (ctxAt s core bank).atts s

/-! ### A publication (R319, R338) -/

/-- One context's share of a change of an iteration. -/
def iterationStep (x : Ctx) (core bank : Nat) (f : Ctx → Ctx) (s : State) (b : Nat) : State :=
  if b == bank || sameIteration x (ctxAt s core b) then modCtx s core b f else s

theorem modIteration_eq_foldl (s : State) (core bank : Nat) (f : Ctx → Ctx) :
    modIteration s core bank f = [0, 1, 2].foldl (iterationStep (ctxAt s core bank) core bank f) s := rfl

theorem ctxAt_iterationStep (x : Ctx) (s : State) (core bank : Nat) (f : Ctx → Ctx) {b c n : Nat} (hn : n < 3) (hb : b < 3) :
    ctxAt (iterationStep x core bank f s b) c n =
      if (c = core ∧ n = b) ∧ (n = bank ∨ sameIteration x (ctxAt s core n) = true) then f (ctxAt s c n) else ctxAt s c n := by
  by_cases h : c = core ∧ n = b
  · obtain ⟨rfl, rfl⟩ := h
    by_cases hi : n = bank ∨ sameIteration x (ctxAt s c n) = true <;> simp [iterationStep, hi]
  · unfold iterationStep
    split <;> simp [ctxAt_modCtx _ c core f hn hb, h]

theorem ctxAt_foldl_iterationStep (x : Ctx) (core bank : Nat) (f : Ctx → Ctx) {c n : Nat} (hn : n < 3) {l : List Nat} (hd : l.Nodup)
    (hl : ∀ b ∈ l, b < 3) (s : State) : ctxAt (l.foldl (iterationStep x core bank f) s) c n =
      if c = core ∧ n ∈ l ∧ (n = bank ∨ sameIteration x (ctxAt s core n) = true) then f (ctxAt s c n) else ctxAt s c n := by
  induction l generalizing s with
  | nil => simp
  | cons b r ih =>
    obtain ⟨hbr, hd⟩ := List.nodup_cons.mp hd
    obtain ⟨hb, hl⟩ := List.forall_mem_cons.mp hl
    rw [List.foldl_cons, ih hd hl, ctxAt_iterationStep x s core bank f hn hb, ctxAt_iterationStep x s core bank f hn hb]
    by_cases hnb : n = b
    · subst hnb
      simp [hbr]
    · simp [hnb]

/-- A change of an iteration reaches its own context, and the contexts of its core that hold strands of it. -/
theorem ctxAt_modIteration (s : State) (core bank : Nat) (f : Ctx → Ctx) {c n : Nat} (hn : n < 3) :
    ctxAt (modIteration s core bank f) c n =
      if c = core ∧ (n = bank ∨ sameIteration (ctxAt s core bank) (ctxAt s core n) = true) then f (ctxAt s c n) else ctxAt s c n := by
  have hm : n ∈ [0, 1, 2] := mem_banks.mpr hn
  rw [modIteration_eq_foldl, ctxAt_foldl_iterationStep _ core bank f hn (by decide) (fun b hb => mem_banks.mp hb)]
  simp only [hm, true_and]

theorem modIteration_keeps {γ : Type} (p : State → γ) (h : ∀ s core bank f, p (modCtx s core bank f) = p s) (s : State) (core bank : Nat)
    (f : Ctx → Ctx) : p (modIteration s core bank f) = p s := by
  refine foldl_keeps p (f := iterationStep (ctxAt s core bank) core bank f) (fun t b => ?_) [0, 1, 2] s
  unfold iterationStep
  split
  · exact h ..
  · rfl

/-- The state of a publication before the boundary counts for the iteration: the strand's stores are in the history. -/
def storesPublished (s : State) (core bank : Nat) (p : Pub) : State :=
  let x := ctxAt s core bank
  modCtx (nextStamp { s with hist := enterHistory p.party x.kernel p x.own (republish p.party p s.hist) }) core bank (fun x => { x with own := [] })

theorem publish_device_eq (s : State) (core bank : Nat) (place : Place) :
    publish s core bank 3 place =
      modIteration (storesPublished s core bank { party := partyOf s core bank, scope := 3, place := place }) core bank
        (fun x => { x with epoch := x.epoch + 1 }) := by
  have ht : (ctxAt s core bank).own.filter (fun _ => true) = (ctxAt s core bank).own := List.filter_eq_self.mpr fun _ _ => rfl
  have hf : (ctxAt s core bank).own.filter (fun _ => !true) = [] := List.filter_eq_nil_iff.mpr fun _ _ => by decide
  simp only [publish, publishOf, ht, hf]
  rfl

theorem ctxAt_storesPublished (s : State) (p : Pub) {core bank c n : Nat} (hn : n < 3) (hb : bank < 3) :
    ctxAt (storesPublished s core bank p) c n = if c = core ∧ n = bank then { ctxAt s c n with own := [] } else ctxAt s c n := by
  rw [storesPublished, ctxAt_modCtx _ c core _ hn hb]
  rfl

/-- What a publication at the device makes of the contexts: the strand has no store of its own left, and its iteration has passed a boundary. -/
theorem ctxAt_publish_device (s : State) (place : Place) {core bank c n : Nat} (hn : n < 3) (hb : bank < 3) :
    ctxAt (publish s core bank 3 place) c n =
      if c = core ∧ n = bank then { ctxAt s c n with own := [], epoch := (ctxAt s c n).epoch + 1 }
      else if c = core ∧ sameIteration (ctxAt s core bank) (ctxAt s core n) = true then { ctxAt s c n with epoch := (ctxAt s c n).epoch + 1 }
      else ctxAt s c n := by
  rw [publish_device_eq, ctxAt_modIteration _ core bank _ hn, ctxAt_storesPublished s _ hn hb, ctxAt_storesPublished s _ hn hb,
    ctxAt_storesPublished s _ hb hb]
  by_cases h : c = core ∧ n = bank
  · obtain ⟨rfl, rfl⟩ := h
    simp
  · by_cases hc : c = core
    · subst hc
      have hnb : n ≠ bank := fun e => h ⟨rfl, e⟩
      simp [hnb, sameIteration]
    · simp [hc]

theorem publish_device_keeps {γ : Type} (p : State → γ) (h : ∀ s core bank f, p (modCtx s core bank f) = p s)
    (hh : ∀ s l, p { s with hist := l } = p s) (hs : ∀ s, p (nextStamp s) = p s) (s : State) (core bank : Nat) (place : Place) :
    p (publish s core bank 3 place) = p s := by
  rw [publish_device_eq, modIteration_keeps p h, storesPublished, h, hs, hh]

/-- The history after a publication depends on the history before it, and on the strand's own stores, its kernel and its name. -/
theorem publish_device_hist (s : State) (core bank : Nat) (place : Place) :
    (publish s core bank 3 place).hist =
      (let who := partyOf s core bank
       let p : Pub := { party := who, scope := 3, place := place }
       enterHistory who (ctxAt s core bank).kernel p (ctxAt s core bank).own (republish who p s.hist)) := by
  rw [publish_device_eq, modIteration_keeps (fun t => t.hist) (fun _ _ _ _ => rfl)]
  rfl

/-! ### The end of a wait (R379, R383) -/

/-- The wait of a context is over: of the contexts only its count of stalls is another, and what other decisions read stands. -/
structure WaitOver (s u : State) (core bank : Nat) : Prop where
  self   : ∃ st, ctxAt u core bank = { ctxAt s core bank with stall := st }
  others : ∀ c n, n < 3 → ¬ (c = core ∧ n = bank) → ctxAt u c n = ctxAt s c n
  parts  : u.parts = s.parts
  hist   : u.hist = s.hist
  place  : afterCore u bank = afterCore s bank

theorem payTraces_none {s : State} {core bank : Nat} (h : (ctxAt s core bank).traces = []) : payTraces s core bank = s := by
  simp [payTraces, h]

theorem waitOver_modCtx (s : State) (cs : Machine.Table Word) {core bank : Nat} (hb : bank < 3) {f : Ctx → Ctx}
    (hf : f (ctxAt s core bank) = { ctxAt s core bank with stall := (0, 0) }) : WaitOver s (modCtx { s with counters := cs } core bank f) core bank where
  self := ⟨(0, 0), by rw [ctxAt_modCtx_same, ← hf]; rfl⟩
  others c n hn h := by rw [ctxAt_modCtx _ c core f hn hb, if_neg h]; rfl
  parts := rfl
  hist := rfl
  place := rfl

/-- A context without trace that owes no record ends its wait. -/
theorem endWait_waitOver {s : State} {core bank : Nat} (hb : bank < 3) (ht : (ctxAt s core bank).trace = false)
    (hn : (ctxAt s core bank).traces = []) : WaitOver s (endWait s core bank) core bank := by
  by_cases hz : (ctxAt s core bank).stall.1 = 0
  · have he : endWait s core bank = s := by simp [endWait, hz, payTraces_none hn]
    rw [he]
    exact ⟨⟨_, rfl⟩, fun _ _ _ _ => rfl, rfl, rfl, rfl⟩
  · obtain ⟨cs, hcs⟩ : ∃ cs, (if wholeCore (ctxAt s core bank).stall.2 = true then bump s (0x1D0 + min 15 (Nat.log2 (ctxAt s core bank).stall.1)) 1
        else s) = { s with counters := cs } := by
      split
      · exact ⟨_, rfl⟩
      · exact ⟨s.counters, rfl⟩
    have hx : ctxAt { s with counters := cs } core bank = ctxAt s core bank := rfl
    simp only [endWait, beq_iff_eq, hz, if_false, hcs]
    rw [payTraces_none (by simp [hx, ht, hn])]
    refine waitOver_modCtx s cs hb ?_
    simp [ht]

end Sys2Proof.Proofs
end

section
/-! PROOF. Retirement (R128, R374): the drain, and what a context that is ready to retire leaves. -/
namespace Sys2Proof.Proofs
open Sys2Proof.Machine Sys2Proof.Laws Sys2Proof.Claims

/-! ### Logs outside record and replay (R376, R377) -/

theorem logActive_unlogged {s : State} {core bank log : Nat} (h : Unlogged s core bank) (hl : log ≠ 0) : logActive s core bank log = false := by
  simp [logActive, h.1, hl]

theorem recordFull_unlogged {s : State} {core bank log : Nat} (n : Nat) (h : Unlogged s core bank) (hl : log ≠ 0) :
    recordFull s core bank log n = false := by
  simp [recordFull, logActive_unlogged h hl]

theorem record_unlogged {s : State} {core bank log : Nat} (ws : List Word) (h : Unlogged s core bank) (hl : log ≠ 0) :
    record s core bank log ws = s := by
  simp [record, logActive_unlogged h hl]

theorem endGate_unlogged {s : State} {core bank : Nat} (h : Unlogged s core bank) : endGate s core bank = .go s 0 := by
  simp [endGate, boundaryGate, readsLog, h.2, record_unlogged _ h]

theorem owesRun_unlogged {s : State} {core bank : Nat} (h : Unlogged s core bank) : owesRun s core bank = false := by
  simp [owesRun, runsLogged, logActive_unlogged h]

theorem closeLastRun_unlogged {s : State} {core bank : Nat} (h : Unlogged s core bank) : closeLastRun s core bank = s := by
  simp [closeLastRun, owesRun_unlogged h]

theorem unlogged_congr {s t : State} {core bank : Nat} (hp : t.parts = s.parts) (hx : (ctxAt t core bank).part = (ctxAt s core bank).part)
    (h : Unlogged s core bank) : Unlogged t core bank := by
  simpa only [Unlogged, recording, replaying, partAt, hp, hx] using h

theorem WaitOver.unlogged {s u : State} {core bank : Nat} (hw : WaitOver s u core bank) (hu : Unlogged s core bank) : Unlogged u core bank := by
  obtain ⟨⟨st, hx⟩, -, hparts, -, -⟩ := hw
  exact unlogged_congr hparts (by rw [hx]) hu

/-! ### The steps of R374 -/

theorem exec_retirement (s : State) (core : Nat) {bank : Nat} (hb : bank < 3) :
    exec (if bank = 2 then .secondaryEnd core else .iterationRetire core bank) s = .next (retiring s core bank) := by
  by_cases h : bank = 2
  · subst h
    rfl
  · have hb : bank < 2 := by omega
    rw [if_neg h]
    show execIterationRetire core bank s = _
    simp [execIterationRetire, hb]

/-- A context at its end pointer with results in flight that can all be had drains (R347). -/
theorem retiring_drains {s : State} {core bank : Nat} (hl : (ctxAt s core bank).life = .ending) (hs : (ctxAt s core bank).swapped = false)
    (hz : (coreAt s core).frozen = false) (hf : (ctxAt s core bank).flights ≠ []) (ha : atomicsOf s core bank = [])
    (hr : ∀ f ∈ (ctxAt s core bank).flights, flightReached s core f = true) : retiring s core bank = drain s core bank := by
  have hw : drainWaits s core bank = false := by
    simp only [drainWaits, atomicsWait, ha, homesOwed, Bool.or_eq_false_iff, List.any_eq_false]
    exact ⟨rfl, fun f h => by simp [hr f h]⟩
  simp [retiring, hl, hs, hz, hw, hf]

/-- A context that is ready to retire, outside record and replay, ends its wait and retires. -/
theorem retiring_ready {s : State} {core bank : Nat} (hb : bank < 3) (hu : Unlogged s core bank) (ht : (ctxAt s core bank).trace = false)
    (h : ReadyToRetire s core bank) : retiring s core bank = retire (endWait s core bank) core bank := by
  obtain ⟨hlife, hswap, hfrozen, hflights, hatomics, hcmds, hsignals, hdeferred, htraces, hturn⟩ := h
  have hw : drainWaits s core bank = false := by simp [drainWaits, atomicsWait, homesOwed, hatomics, hflights]
  have hdue : (dueCause (ctxAt s core bank)).or (dueRecord (ctxAt s core bank)) = none := by
    simp only [dueCause, dueRecord, Option.or_eq_none_iff, List.find?_eq_none]
    exact ⟨fun r hr => by simp [hdeferred r hr], fun r hr => by simp [hdeferred r hr]⟩
  have hfence : fenced s core bank = true := by
    simp only [fenced, Bool.and_eq_true, List.all_eq_true]
    refine ⟨fun c hc => by simpa using hcmds c hc, fun g hg => ?_⟩
    rw [Bool.not_eq_true', ← Bool.not_eq_true]
    simpa only [Bool.and_eq_true, beq_iff_eq] using hsignals g hg
  have hover := endWait_waitOver hb ht htraces
  have hu := hover.unlogged hu
  obtain ⟨st, hx⟩ := hover.self
  simp [retiring, hlife, hswap, hfrozen, hw, hflights, hatomics, hdue, hfence, hturn, hx, htraces, owesRun_unlogged hu,
    recordFull_unlogged 1 hu, endGate_unlogged hu]

/-! ### What a retirement leaves -/

/-- What a context holds once it is empty: its registers, and nothing of the work. -/
def emptied (x : Ctx) : Ctx := { x with life := .empty, swapped := false, reports := [], deferred := [], ask := .none, own := [], atts := [] }

theorem ctxAt_emptyCtx (s : State) {core bank c n : Nat} (hn : n < 3) (hb : bank < 3) :
    ctxAt (emptyCtx s core bank) c n = if c = core ∧ n = bank then emptied (ctxAt s c n) else ctxAt s c n := by
  have hx : ∀ t : State, t.cores = s.cores →
      ctxAt (setCtx t core bank (emptied (ctxAt s core bank))) c n = if c = core ∧ n = bank then emptied (ctxAt s c n) else ctxAt s c n := by
    intro t h
    have : setCtx t core bank (emptied (ctxAt s core bank)) = modCtx t core bank emptied := by
      rw [modCtx, ctxAt_of_cores h]
    rw [this, ctxAt_modCtx _ c core _ hn hb, ctxAt_of_cores h]
  refine hx _ ?_
  split <;> rfl

theorem emptyCtx_hist (s : State) (core bank : Nat) : (emptyCtx s core bank).hist = s.hist := by
  unfold emptyCtx
  split <;> rfl

theorem emptyCtx_boundary (s : State) (core bank : Nat) : (emptyCtx s core bank).boundary = s.boundary := by
  unfold emptyCtx
  split <;> rfl

@[simp] theorem partAt_setCtx (s : State) (core bank : Nat) (x : Ctx) (n : Nat) : partAt (setCtx s core bank x) n = partAt s n := rfl

/-- The kernel of a partition when a context of it holds nothing any longer: an iteration that retires no longer runs. -/
theorem emptyCtx_kernel {s : State} {core bank : Nat} {k : Kernel} (hk : (partAt s (ctxAt s core bank).part).kernel = some k) :
    (partAt (emptyCtx s core bank) (ctxAt s core bank).part).kernel = some (
      if bank ≠ 2 ∧ k.id = (ctxAt s core bank).kernel then { k with running := k.running.filter (fun o => o != (ctxAt s core bank).ordinal) }
      else k) := by
  by_cases h : bank = 2
  · subst h
    exact hk
  · have hp : (partAt (emptyCtx s core bank) (ctxAt s core bank).part).kernel = (partAt s (ctxAt s core bank).part).kernel.map (fun k =>
        if k.id == (ctxAt s core bank).kernel then { k with running := k.running.filter (fun o => o != (ctxAt s core bank).ordinal) } else k) := by
      simp only [emptyCtx, beq_iff_eq, h, if_false, partAt_setCtx, partAt_modPart_same]
      rfl
    simp [hp, hk, h]

/-- A retirement before its context is emptied: what it held is released and its writes are published at its boundary (R374, steps 3 and 4). -/
def publishedEnd (s : State) (core bank : Nat) : State :=
  publish (takePlace (releaseHoldings s core bank) (afterCore s bank)) core bank 3 (afterCore s bank)

theorem ctxAt_publishedEnd (s : State) {core bank c n : Nat} (hn : n < 3) (hb : bank < 3) :
    ctxAt (publishedEnd s core bank) c n =
      if c = core ∧ n = bank then { ctxAt s c n with atts := [], fslots := [], own := [], epoch := (ctxAt s c n).epoch + 1 }
      else if c = core ∧ sameIteration (ctxAt s core bank) (ctxAt s core n) = true then { ctxAt s c n with epoch := (ctxAt s c n).epoch + 1 }
      else ctxAt s c n := by
  have hk : ∀ c n, ctxAt (takePlace (releaseHoldings s core bank) (afterCore s bank)) c n = ctxAt (releaseHoldings s core bank) c n := fun _ _ => rfl
  simp only [publishedEnd, ctxAt_publish_device _ _ hn hb, hk, ctxAt_releaseHoldings s hn hb, ctxAt_releaseHoldings s hb hb]
  by_cases h : c = core ∧ n = bank
  · simp [h]
  · by_cases hc : c = core
    · have hnb : n ≠ bank := fun e => h ⟨hc, e⟩
      simp [hnb, sameIteration]
    · simp [hc]

theorem publishedEnd_parts (s : State) (core bank : Nat) : (publishedEnd s core bank).parts = s.parts := by
  rw [publishedEnd, publish_device_keeps (fun t => t.parts) (fun _ _ _ _ => rfl) (fun _ _ => rfl) (fun _ => rfl)]
  exact releaseHoldings_parts s core bank

theorem publishedEnd_boundary (s : State) (core bank : Nat) : (publishedEnd s core bank).boundary = afterCore s bank :=
  publish_device_keeps (fun t => t.boundary) (fun _ _ _ _ => rfl) (fun _ _ => rfl) (fun _ => rfl) ..

/-- What was released is not in the history: the publication enters the strand's stores as before. -/
theorem publishedEnd_hist (s : State) {core bank : Nat} (hb : bank < 3) :
    (publishedEnd s core bank).hist = (publish s core bank 3 (afterCore s bank)).hist := by
  have hx : ctxAt (takePlace (releaseHoldings s core bank) (afterCore s bank)) core bank = { ctxAt s core bank with atts := [], fslots := [] } := by
    have := ctxAt_releaseHoldings s (core := core) (c := core) hb hb
    rwa [if_pos ⟨rfl, rfl⟩] at this
  have hh : (takePlace (releaseHoldings s core bank) (afterCore s bank)).hist = s.hist := releaseHoldings_hist s core bank
  simp only [publishedEnd, publish_device_hist, partyOf, hx, hh]

/-- A retirement outside record and replay (R374, steps 3 to 6). -/
theorem retire_unlogged {s : State} {core bank : Nat} (hb : bank < 3) (hu : Unlogged s core bank) :
    retire s core bank = emptyCtx (publishedEnd s core bank) core bank := by
  have hx := ctxAt_publishedEnd s (core := core) (c := core) hb hb
  rw [if_pos ⟨rfl, rfl⟩] at hx
  have hu : Unlogged (publishedEnd s core bank) core bank := unlogged_congr (publishedEnd_parts s core bank) (by rw [hx]) hu
  exact congrArg (fun t => emptyCtx t core bank) (closeLastRun_unlogged hu)

/-- The contexts after a retirement. -/
theorem ctxAt_retire {s : State} {core bank c n : Nat} (hn : n < 3) (hb : bank < 3) (hu : Unlogged s core bank) :
    ctxAt (retire s core bank) c n =
      if c = core ∧ n = bank then emptied { ctxAt s c n with fslots := [], epoch := (ctxAt s c n).epoch + 1 }
      else if c = core ∧ sameIteration (ctxAt s core bank) (ctxAt s core n) = true then { ctxAt s c n with epoch := (ctxAt s c n).epoch + 1 }
      else ctxAt s c n := by
  rw [retire_unlogged hb hu, ctxAt_emptyCtx _ hn hb, ctxAt_publishedEnd s hn hb]
  split <;> rfl

theorem sameIteration_iff {x y : Ctx} : sameIteration x y = true ↔ y.life ≠ .empty ∧ y.kernel = x.kernel ∧ y.ordinal = x.ordinal := by
  simp only [sameIteration, Bool.and_eq_true, beq_iff_eq, bne_iff_ne]
  exact ⟨fun ⟨⟨hk, ho⟩, hl⟩ => ⟨hl, hk.symm, ho.symm⟩, fun ⟨hl, hk, ho⟩ => ⟨⟨hk.symm, ho.symm⟩, hl⟩⟩

/-- A context that retires when its wait is over has retired as seen from before the wait's end. -/
theorem retired_retire {s u : State} {core bank : Nat} (hb : bank < 3) (hu : Unlogged u core bank) (hw : WaitOver s u core bank) :
    Retired s (retire u core bank) core bank := by
  obtain ⟨⟨st, hx⟩, hothers, -, -, -⟩ := hw
  have hy := ctxAt_retire (c := core) hb hb hu
  rw [if_pos ⟨rfl, rfl⟩, hx] at hy
  unfold Retired
  simp only [hy, emptied, true_and]
  intro c n hn h
  rw [ctxAt_retire hn hb hu, if_neg h, hothers c n hn h]
  by_cases hc : c = core
  · subst hc
    simp only [hothers c n hn h, sameIteration_iff, hx]
  · simp [hc]

/-- What a context that is ready to retire leaves (R374). -/
theorem retire_answers {s u : State} {core bank : Nat} (hb : bank < 3) (hu : Unlogged u core bank) (hw : WaitOver s u core bank) :
    (∀ k, (partAt s (ctxAt s core bank).part).kernel = some k → (partAt (retire u core bank) (ctxAt s core bank).part).kernel = some (
        if bank ≠ 2 ∧ k.id = (ctxAt s core bank).kernel then { k with running := k.running.filter (fun o => o != (ctxAt s core bank).ordinal) }
        else k))
      ∧ (retire u core bank).boundary = afterCore s bank ∧ (retire u core bank).hist = (publish s core bank 3 (afterCore s bank)).hist := by
  obtain ⟨⟨st, hx⟩, -, hparts, hhist, hplace⟩ := hw
  have hy := ctxAt_publishedEnd u (core := core) (c := core) hb hb
  rw [if_pos ⟨rfl, rfl⟩, hx] at hy
  rw [retire_unlogged hb hu]
  refine ⟨fun k hk => ?_, ?_, ?_⟩
  · have hp : partAt (publishedEnd u core bank) (ctxAt s core bank).part = partAt s (ctxAt s core bank).part := by
      simp only [partAt, publishedEnd_parts, hparts]
    have := emptyCtx_kernel (s := publishedEnd u core bank) (core := core) (bank := bank) (k := k) (by rw [hy]; simpa only [hp] using hk)
    rwa [hy] at this
  · rw [emptyCtx_boundary, publishedEnd_boundary, hplace]
  · rw [emptyCtx_hist, publishedEnd_hist u hb]
    simp only [publish_device_hist, partyOf, hx, hhist, hplace]

end Sys2Proof.Proofs
end

section
/-! PROOF. The closing of an epoch (R338, R339): the contributions that are held are applied in their order, each at its home slice. -/
namespace Sys2Proof.Proofs
open Sys2Proof.Machine Sys2Proof.Laws Sys2Proof.Claims

/-! ### A byte at its home slice (R330) -/

theorem length_bytesOf (n v : Nat) : (bytesOf n v).length = n := by
  induction n generalizing v with
  | zero => rfl
  | succ n ih => simp [bytesOf, ih]

/-- The bytes of a run at consecutive addresses, from an index on. -/
theorem byteIn_run (bs : List Byte) (a j i : Nat) (hi : i < bs.length) :
    byteIn (((List.range' j bs.length).zip bs).map (fun e => (a + e.1, e.2))) (a + (j + i)) = some bs[i] := by
  induction bs generalizing j i with
  | nil => simp at hi
  | cons b r ih =>
    cases i with
    | zero => simp [byteIn, List.range'_succ]
    | succ i =>
      have hne : ¬ a + j = a + (j + (i + 1)) := by omega
      have := ih (j + 1) i (by simpa using hi)
      rw [show j + 1 + i = j + (i + 1) by omega] at this
      simpa [byteIn, List.range'_succ, hne] using this

/-- A run of bytes that was written last is what its home slice holds. -/
theorem homeBytes_of_hist {t : State} {e : HistEntry} {l : List HistEntry} (a : Nat) (bs : List Byte) (hh : t.hist = e :: l)
    (he : e.bytes = ((List.range bs.length).zip bs).map (fun e => (a + e.1, e.2))) : homeBytes t a bs.length = bs := by
  refine List.ext_getElem (by simp [homeBytes]) fun i _ hi => ?_
  have := byteIn_run bs a 0 i hi
  rw [← List.range_eq_range', ← he, Nat.zero_add] at this
  simp [homeBytes, homeByte, hh, histByte, this]

/-! ### A contribution that is applied -/

theorem sliceReports_keeps {γ : Type} (p : State → γ) (h : ∀ s core bank r, p (sendReport s core bank r) = p s) (s : State)
    (endpoint tag kind core : Nat) (addrs : List Nat) : p (sliceReports s endpoint tag kind core addrs) = p s := by
  refine foldl_keeps p (fun t e => foldl_keeps p (fun u w => ?_) e.2.watches t) s.cores s
  dsimp only
  split
  · rfl
  · exact h ..

/-- The bytes that a contribution leaves at its address (R211). -/
def redBytes (s : State) (a : Atomic) : List Byte :=
  bytesOf (a.width / 8) (atomicValue a.op a.width (homeNat s a.pa (a.width / 8)) (a.operand.toNat % 2 ^ a.width) 0)

theorem applyRed_hist (place : Place) (s : State) (a : Atomic) : ∃ e, (applyRed place s a).hist = e :: s.hist
    ∧ e.bytes = ((List.range (a.width / 8)).zip (redBytes s a)).map (fun e => (a.pa + e.1, e.2)) :=
  ⟨_, sliceReports_keeps (fun t => t.hist) (fun _ _ _ _ => rfl) .., rfl⟩

theorem applyRed_keeps {γ : Type} (p : State → γ) (hw : ∀ s l, p (nextStamp { s with hist := l }) = p s)
    (hr : ∀ s core bank r, p (sendReport s core bank r) = p s) (place : Place) (s : State) (a : Atomic) : p (applyRed place s a) = p s := by
  unfold applyRed
  rw [sliceReports_keeps p hr]
  exact hw ..

/-- An applied contribution is what its home slice holds. -/
theorem homeBytes_applyRed (place : Place) (s : State) (a : Atomic) : homeBytes (applyRed place s a) a.pa (a.width / 8) = redBytes s a := by
  obtain ⟨e, hh, he⟩ := applyRed_hist place s a
  have hl : (redBytes s a).length = a.width / 8 := length_bytesOf ..
  rw [← hl] at he ⊢
  exact homeBytes_of_hist a.pa (redBytes s a) hh he

/-! ### The contributions of an epoch -/

/-- The contributions of a kernel that the closing of an epoch applies. -/
def dueReds (s : State) (k : Kernel) : List Atomic := s.reds.filter (fun a => a.kernel == k.id && decide (a.epoch ≤ k.closed))

/-- The state once the contributions of a list are applied in their order (R338). -/
def redsApplied (s : State) (l : List Atomic) : State := (l.foldl (fun l a => insertRed a l) []).foldl (applyRed s.boundary) s

theorem redsApplied_keeps {γ : Type} (p : State → γ) (hw : ∀ s l, p (nextStamp { s with hist := l }) = p s)
    (hr : ∀ s core bank r, p (sendReport s core bank r) = p s) (s : State) (l : List Atomic) : p (redsApplied s l) = p s :=
  foldl_keeps p (applyRed_keeps p hw hr s.boundary) _ s

theorem redsApplied_pair (s : State) {a b : Atomic} (h : b.ordinal < a.ordinal ∨ (b.ordinal = a.ordinal ∧ b.index < a.index)) :
    redsApplied s [a, b] = applyRed s.boundary (applyRed s.boundary s b) a := by
  have hb : redBefore a b = false := by
    rcases h with h | ⟨ho, hi⟩
    · simp [redBefore, Nat.ne_of_gt h, Nat.le_of_lt h]
    · simp [redBefore, ho, Nat.ne_of_gt hi, Nat.le_of_lt hi]
  simp [redsApplied, insertRed, hb]

/-- The epoch of a kernel that is to close closes (R338). -/
theorem closeEpoch_closes {s : State} {part : Nat} {k : Kernel} (hk : (partAt s part).kernel = some k) (hc : closesEpoch s part = true) :
    closeEpoch s part = modPart { redsApplied s (dueReds s k) with
      reds := s.reds.filter (fun a => !(a.kernel == k.id && decide (a.epoch ≤ k.closed))) } part
        (fun p => { p with kernel := some { k with closed := k.closed + 1 } }) := by
  have hr : (redsApplied s (dueReds s k)).reds = s.reds := redsApplied_keeps (fun t => t.reds) (fun _ _ => rfl) (fun _ _ _ _ => rfl) ..
  have hd : (heldReds s k.id).filter (fun a => a.epoch ≤ k.closed) = dueReds s k := by
    simp [heldReds, dueReds, List.filter_filter, Bool.and_comm]
  simp only [closeEpoch, hk, hc, applyReds, hd]
  rw [← hr]
  rfl

/-- An epoch that every running iteration has passed is to close, while an iteration runs or a contribution is held. -/
theorem closesEpoch_passed {s : State} {part : Nat} {k : Kernel} (hk : (partAt s part).kernel = some k) (hh : holdsReductions s part = true)
    (hn : k.next = nestTotal k.recBytes) (hr : k.report = none)
    (hsome : (∃ e ∈ contextsOf s part, e.2 ≠ 2 ∧ (ctxAt s e.1 e.2).kernel = k.id) ∨ ∃ a ∈ s.reds, a.kernel = k.id)
    (hpassed : ∀ e ∈ contextsOf s part, e.2 ≠ 2 → (ctxAt s e.1 e.2).kernel = k.id → k.closed < (ctxAt s e.1 e.2).epoch) :
    closesEpoch s part = true := by
  have mem_runningCtxs (x : Ctx) : x ∈ runningCtxs s part k.id ↔
      ∃ e ∈ contextsOf s part, e.2 ≠ 2 ∧ (ctxAt s e.1 e.2).kernel = k.id ∧ ctxAt s e.1 e.2 = x := by
    simp [runningCtxs, and_assoc]
  have hall : (runningCtxs s part k.id).all (fun x => x.epoch > k.closed) = true := by
    rw [List.all_eq_true]
    intro x hx
    obtain ⟨e, he, hb, hker, rfl⟩ := (mem_runningCtxs x).mp hx
    simpa using hpassed e he hb hker
  have hbusy : ((runningCtxs s part k.id).isEmpty && (heldReds s k.id).isEmpty) = false := by
    rcases hsome with ⟨e, he, hb, hker⟩ | ⟨a, ha, hker⟩
    · have := (mem_runningCtxs (ctxAt s e.1 e.2)).mpr ⟨e, he, hb, hker, rfl⟩
      simp [List.ne_nil_of_mem this]
    · have : a ∈ heldReds s k.id := by simp [heldReds, ha, hker]
      simp [List.ne_nil_of_mem this]
  simp [closesEpoch, hk, hh, epochDone, hn, hr, hall, hbusy]

end Sys2Proof.Proofs

open Sys2Proof Sys2Proof.Machine Sys2Proof.Laws Sys2Proof.Claims Sys2Proof.Proofs

/-- Settles O49: `ITERATION_RETIRE` and `SECONDARY_END` drain, or end the wait and go through the steps of R374, each with what it leaves of every context;
a closing epoch applies its contributions in their order, and the one applied last is what its home slice holds. -/
theorem strandsRetireAndEpochsClose : Obligations.StrandsRetireAndEpochsClose := by
  unfold Obligations.StrandsRetireAndEpochsClose
  refine ⟨?retire, ?epoch⟩
  case retire =>
    intro s core bank hb hu ht
    refine ⟨fun hl hs hz hf ha hr => ?_, fun h => ⟨retire (endWait s core bank) core bank, ?_, ?_⟩⟩
    · rw [Becomes, exec_retirement s core hb, retiring_drains hl hs hz hf ha hr]
    · rw [exec_retirement s core hb, retiring_ready hb hu ht h]
    · obtain ⟨-, -, -, -, -, -, -, -, htraces, -⟩ := h
      have hw := endWait_waitOver hb ht htraces
      have hu := hw.unlogged hu
      exact ⟨retired_retire hb hu hw, retire_answers hb hu hw⟩
  case epoch =>
    intro s part k hk hh hn hr hsome hpassed
    refine ⟨closeEpoch s part, rfl, ?_⟩
    rw [closeEpoch_closes hk (closesEpoch_passed hk hh hn hr hsome hpassed)]
    refine ⟨by rw [partAt_modPart_same], rfl, fun a ha => ?_, fun a b hab h => ?_⟩
    · show homeBytes (redsApplied s (dueReds s k)) a.pa (a.width / 8) = redBytes s a
      rw [show dueReds s k = [a] from ha]
      exact homeBytes_applyRed s.boundary s a
    · show (redsApplied s (dueReds s k)).hist = _
      rw [show dueReds s k = [a, b] from hab, redsApplied_pair s h]

end

section
/-! PROOF. A write of a special register that lands (R131, R362), and why its statement fails for a core that the table of cores does not list. -/
namespace Sys2Proof.Proofs
open Sys2Proof.Machine Sys2Proof.Laws Sys2Proof.Claims

theorem firstSome_none_of_failures {l : List (Option Bad)} (h : failures l = []) : firstSome l = none := by
  induction l with
  | nil => rfl
  | cons a r ih =>
    cases a with
    | none => exact ih h
    | some b => simp [failures] at h

/-- A `CSRW` that passes its checks puts its write in flight (R362). -/
theorem exec_csrw_passes {s : State} {x : Mod} {o : SI} {n : Nat} {v : Word} (hq : Quiet s) (hg : guardHeld s x = true) (hn : csrNo o = n)
    (hv : heldG s o.a.toNat = v) (hc : failures (csrWriteChecks s n v) = []) : exec (.csrw x o) s = .next (landNext s true (.csr n v)) := by
  show csrPut x o s (regG s o.a.toNat) = _
  simp [csrPut, guardOn_quiet hq, hg, regG_quiet hq, hn, hv, firstSome_none_of_failures hc]

theorem modCtx_cores_ne_nil (s : State) (core bank : Nat) (f : Ctx → Ctx) : (modCtx s core bank f).cores ≠ [] := by
  intro h
  have : tget (modCtx s core bank f).cores core = some _ := tget_tset_same ..
  simp [h] at this

/-- Once a write has landed the table of cores lists the writer's core, whatever was written: a result in flight is held by its context. -/
theorem after_landNext_cores {s : State} (hq : Quiet s) (w : Write) : (after 1 (landNext s true w)).cores ≠ [] := by
  have hp : Plain { newFlight s 1 with writes := [(1, w)] } := ⟨rfl, rfl, rfl, rfl, by simp [newFlight]⟩
  have h : after 1 (landNext s true w) = _ := after_push s _ hq hp (Nat.le_refl 1)
  rw [h, closeCycle]
  exact modCtx_cores_ne_nil _ _ _ _

theorem settled_reset : Settled State.reset := ⟨⟨by decide, by decide⟩, rfl⟩

end Sys2Proof.Proofs

open Sys2Proof Sys2Proof.Machine Sys2Proof.Laws Sys2Proof.Claims Sys2Proof.Proofs

/-- Refutes O40, by a `CSRW` of zero to `stctl` (0x180) right after reset, where the table of cores lists no core. The clause on a write that passes its checks
says that the state a cycle later is, whole, `writeCsr` of the state before it; that changes the registers of a partition and no core, so that the table would
stay empty. But the write was in flight in a context of core 0, and the table lists core 0 from then on. -/
theorem not_specialRegistersReadAndWrite : ¬ Obligations.SpecialRegistersReadAndWrite := by
  unfold Obligations.SpecialRegistersReadAndWrite
  rintro ⟨-, hwrite, -⟩
  let x : Mod := { pfx := none, neg := false, pred := 0 }
  let o : SI := { d := 0, a := 0, b := 0, imm := 0x180 }
  have hchecks : failures (csrWriteChecks State.reset 0x180 0) = [] := by decide
  obtain ⟨-, hlands, -⟩ := hwrite State.reset (.csrw x o) x o 0 settled_reset rfl
  obtain ⟨t, hexec, hafter⟩ := hlands rfl hchecks
  have ht : t = landNext State.reset true (.csr 0x180 0) :=
    Host.Outcome.next.inj (hexec.symm.trans (exec_csrw_passes settled_reset.1 rfl (by decide) rfl hchecks))
  have hcores : (after 1 t).cores = [] := congrArg (fun u : State => u.cores) hafter
  exact after_landNext_cores settled_reset.1 (.csr 0x180 0) (ht ▸ hcores)

end
